-- ==== Sys2Proof/Word.lean ====
section
/-! DEFINITION. Word.lean: the word types of the AK-4096 and the plainest operations on them. -/

namespace Sys2Proof

/-- A 64-bit scalar, address, stride or control register (spec 07, R143). -/
abbrev Word := BitVec 64

/-- One byte of any memory. -/
abbrev Byte := BitVec 8

/-- The 4,096 bits of a 512-byte row; byte 0 is the least significant (spec 02, R28). -/
abbrev RowBits := BitVec 4096

/-- A predicate register (spec 07, R143). -/
abbrev Pred := BitVec 1024

/-- One accumulator row, or one companion row: 1,024 lanes of 32 bits (spec 13, R291). -/
abbrev BankRow := BitVec 32768

/-- The 128 bytes of a memory line, byte 0 least significant. -/
abbrev Line := BitVec 1024

end Sys2Proof
end

