-- ==== Sys2Proof/Config.lean ====
section
/-! DEFINITION. Config.lean: what a part fixes, and the free values: constants without a body, of which nothing
can be proved, for every value that the specification leaves open. -/

namespace Sys2Proof.Config

/-- Byte `off` of a scratchpad whose contents are undefined (spec 03, R60); the first argument tells one undefined
filling from another. -/
opaque undefSpad : Nat → Nat → BitVec 8

/-- The choice among the converter codes that R286 permits (spec 13). -/
opaque converterPick : Nat → Nat

/-- The measured calibration offset of a converter arrangement (spec 13, R288): measurement, die, cluster, macro,
column-segment (128 g + c), arrangement. It may lie outside −128 to +127. -/
opaque calOffset : Nat → Nat → Nat → Nat → Nat → Nat → Int

/-- How far beyond its lower bounds a bulk promise lies (spec 12, R468). -/
opaque promiseSlack : Nat → Nat

/-- The public key of the module's identity key pair (spec 23, R463). -/
opaque identityKey : BitVec 384

/-- The SLH-DSA signature, 16,224 bytes, of a report (spec 23, R463), as a function of what it signs. -/
opaque identitySign : List (BitVec 8) → BitVec 129792

/-- The temperature of a zone, its damper and its state at a sensor sweep (spec 23, R456): sweep, die, zone. -/
opaque zoneReading : Nat → Nat → Nat → BitVec 64

/-- What the tests of a major slot or of a reset find (spec 01, R17 to R19; spec 23, R458, R459): routers that have failed
for good (die, strip, westward), clusters whose bond fails (die, cluster), the guard-band step that the monitors of a core domain ask for
(die, core, step), and the wear levels of cores, slices and routers (die, core or slice, level; die, strip, westward, level). -/
structure Findings where
  routers : List (Nat × Nat × Bool)
  bonds : List (Nat × Nat)
  steps : List (Nat × Nat × Nat)
  cores : List (Nat × Nat × BitVec 8)
  slices : List (Nat × Nat × BitVec 8)
  crossings : List (Nat × Nat × Bool × BitVec 8)
  deriving DecidableEq, Repr, Inhabited

/-- The findings of test number n. -/
opaque findings : Nat → Findings

/-- The cooling zone that a core lies in (spec 23, R456). -/
opaque zoneOf : Nat → BitVec 4

/-- The core clock periods that a core spends in one of its waits (spec 21, R440): core, kind of wait, and which of them. -/
opaque waitPeriods : Nat → Nat → Nat → Nat

/-- How often a die counts in one tick what no access of the model shows (spec 21, R440): die, counter, tick. -/
opaque dieEvents : Nat → Nat → Nat → Nat

/-- Any other value that the specification leaves open, numbered by the counter in State. -/
opaque freeWord : Nat → BitVec 64

end Sys2Proof.Config
end

