-- ==== Sys2Proof/Syntax.lean ====
section
/-! DEFINITION. Syntax.lean: the operations of the AK-4096, one constructor per row of spec/opcode_table.json: the
instructions of every slot with their decoded fields, and the events of the part, which have no encoding. -/

namespace Sys2Proof

/-- The format tags (spec 02, R26); 15 is reserved and never arises (R27). -/
inductive Tag
  | EMPTY | I8 | N8 | I16 | N16 | I32 | N32 | FP32 | BF16 | FP16 | E4M3 | E5M2 | E2M1 | BX4 | I4
  deriving DecidableEq, Repr

/-- The latches (spec 06, R108). -/
inductive Latch
  | LV0 | LV1 | LC0 | LC1 | LM | LS
  deriving DecidableEq, Repr

/-- A row operand (R108): tile row 8 t + r, loop-indirect tile row, operand row, stream, latch. -/
inductive RowOp
  | t (row : BitVec 7)
  | tl (t : BitVec 4) (l : BitVec 2)
  | o (n : BitVec 3)
  | q (n : BitVec 3)
  | latch (l : Latch)
  deriving DecidableEq, Repr

/-- Width of an S-R integer operation (R110). -/
inductive Width
  | d64 | s32 | z32
  deriving DecidableEq, Repr

/-- Rounding modes (spec 02, R37). -/
inductive RMode
  | rne | rz | ru | rd | rna | sr
  deriving DecidableEq, Repr

/-- Branch conditions (R110). -/
inductive BrCond
  | eqz | nez | ltz | gez | gtz | lez | bit0 | nbit0
  deriving DecidableEq, Repr

/-- Compare conditions (R111). -/
inductive FCond
  | eq | ne | lt | le | gt | ge | un | ord
  deriving DecidableEq, Repr

/-- Kinds of FCVT (R162). -/
inductive FcvtKind
  | ftoi64 | fton64 | i64tof | n64tof | ftoi32 | fton32 | frint | i32tof
  deriving DecidableEq, Repr

/-- Groups of a SYNC header (R101, R373). -/
inductive Group
  | gang | cluster | strip
  deriving DecidableEq, Repr

/-- Shuffles (R209). -/
inductive Shuffle
  | rev | unzip | zip | swap
  deriving DecidableEq, Repr

/-- Special functions (R211). -/
inductive SfuFn
  | exp | exp2 | log | log2 | rcp | rsqrt | sqrt | sin | cos | tanh | sigmoid | gelu | erf | silu
  deriving DecidableEq, Repr

/-- MODE of an array product (R112, R291). -/
inductive AccMode
  | ovr | acc | accb
  deriving DecidableEq, Repr

/-- Weight formats (R310). -/
inductive WFmt
  | w8 | w4 | w16 | wbx4
  deriving DecidableEq, Repr

/-- Drain formats (R323). -/
inductive DrainFmt
  | f128 | f256 | f512 | f1024 | bf256 | bf512 | bf1024 | e512 | e1024 | bx512 | bx1024
  | bnd128 | bnd256 | bnd512 | bnd1024
  deriving DecidableEq, Repr

/-- Row widths of local accesses (R114). -/
inductive RowWidth
  | w512 | w256 | w128 | w64 | w32
  deriving DecidableEq, Repr

/-- Element sizes of a column access (R218). -/
inductive ElemSize
  | e1 | e2 | e4
  deriving DecidableEq, Repr

/-- Orientation with its width code (R217, R218). -/
inductive RowShape
  | row (w : RowWidth)
  | col (e : ElemSize)
  deriving DecidableEq, Repr

/-- Widths of global rows (R114). -/
inductive GlobWidth
  | w512 | w128 | w32 | w8
  deriving DecidableEq, Repr

/-- Sizes of scalar accesses (R114). -/
inductive Size
  | b1 | b2 | b4 | b8
  deriving DecidableEq, Repr

/-- Widths of atomics (R114). -/
inductive AWidth
  | w32 | w64 | w128
  deriving DecidableEq, Repr

/-- Scopes (R114, R353). -/
inductive Scope
  | core | cluster | die | module | domain
  deriving DecidableEq, Repr

/-- Orders of atomics (R114). -/
inductive Ord
  | rlx | acq | rel | ar
  deriving DecidableEq, Repr

/-- Operand widths of a host CAS (R443). -/
inductive CasWidth
  | c32 | c64 | c128
  deriving DecidableEq, Repr

/-- Where an uncorrectable error lies, with the codes of R427. -/
inductive ErrorPlace
  | hbm | msCache | l2Data | l2Tags | directory | coreState | planes | serai | windowPartials
  deriving DecidableEq, Repr

/-- Who consumes the data of an uncorrectable error (R426). -/
inductive ErrorUser
  | cleanCopy
  | reader (core : Nat)
  | hostRead
  | fullWrite
  | partialWrite (core : Nat)
  | nodeState (node : Nat)
  | shared
  deriving DecidableEq, Repr

/-- One register setting of the boot table (R461). -/
structure BootSetting where
  creg : BitVec 12
  target : BitVec 8
  value : BitVec 64
  deriving DecidableEq, Repr

/-- A firmware image (R460, R461): its public key, its bytes, and its boot table: load extents (local address, length, offset in the
image), then register settings. -/
structure BootImage where
  key : List (BitVec 8)
  bytes : List (BitVec 8)
  extents : List (Nat × Nat × Nat)
  settings : List BootSetting
  deriving DecidableEq, Repr

/-- The operations of the part, one constructor per row of the opcode table. Constructors without a slot are events. -/
inductive Instr
  -- Header words (spec 06, R100, R101)
  /-- NORMAL -/
  | normal (np : BitVec 5) (op : Option (BitVec 3)) (pop : BitVec 8)
  /-- SYNC -/
  | sync (np : BitVec 5) (op : Option (BitVec 3)) (pop : BitVec 8) (g : Group)
  /-- LOCK -/
  | lock (np : BitVec 5) (op : Option (BitVec 3)) (pop : BitVec 8) (pairs : BitVec 8) (count : BitVec 4)
  /-- XPH -/
  | xph (np : BitVec 5) (op : Option (BitVec 3)) (pop : BitVec 8)
  -- Scalar slot: integer operations (spec 08, R156, R157)
  /-- NOP -/
  | nop
  /-- ADD -/
  | add (w : Width) (d a b : BitVec 5)
  /-- SUB -/
  | sub (w : Width) (d a b : BitVec 5)
  /-- AND -/
  | and (w : Width) (d a b : BitVec 5)
  /-- OR -/
  | or (w : Width) (d a b : BitVec 5)
  /-- XOR -/
  | xor (w : Width) (d a b : BitVec 5)
  /-- SHL -/
  | shl (w : Width) (d a b : BitVec 5)
  /-- SHR -/
  | shr (w : Width) (d a b : BitVec 5)
  /-- SAR -/
  | sar (w : Width) (d a b : BitVec 5)
  /-- MUL -/
  | mul (w : Width) (d a b : BitVec 5)
  /-- MULHI -/
  | mulhi (w : Width) (d a b : BitVec 5)
  /-- MULHN -/
  | mulhn (w : Width) (d a b : BitVec 5)
  /-- DIV -/
  | div (w : Width) (d a b : BitVec 5)
  /-- DIVN -/
  | divn (w : Width) (d a b : BitVec 5)
  /-- REM -/
  | rem (w : Width) (d a b : BitVec 5)
  /-- REMN -/
  | remn (w : Width) (d a b : BitVec 5)
  /-- MIN -/
  | min (w : Width) (d a b : BitVec 5)
  /-- MAX -/
  | max (w : Width) (d a b : BitVec 5)
  /-- MINN -/
  | minn (w : Width) (d a b : BitVec 5)
  /-- MAXN -/
  | maxn (w : Width) (d a b : BitVec 5)
  /-- SLT -/
  | slt (w : Width) (d a b : BitVec 5)
  /-- SLTN -/
  | sltn (w : Width) (d a b : BitVec 5)
  /-- SEQ -/
  | seq (w : Width) (d a b : BitVec 5)
  /-- SEL -/
  | sel (w : Width) (d a b : BitVec 5)
  /-- CLZ -/
  | clz (w : Width) (d a : BitVec 5)
  /-- POPC -/
  | popc (w : Width) (d a : BitVec 5)
  /-- CTZ -/
  | ctz (w : Width) (d a : BitVec 5)
  /-- ROTL -/
  | rotl (w : Width) (d a b : BitVec 5)
  /-- BSWAP -/
  | bswap (w : Width) (d a : BitVec 5)
  /-- EXTS -/
  | exts (w : Width) (d a b : BitVec 5)
  /-- EXTZ -/
  | extz (w : Width) (d a b : BitVec 5)
  -- Scalar slot: immediate operations (R158, R159)
  /-- ADDI -/
  | addi (d a : BitVec 5) (imm : BitVec 15)
  /-- ANDI -/
  | andi (d a : BitVec 5) (imm : BitVec 15)
  /-- ORI -/
  | ori (d a : BitVec 5) (imm : BitVec 15)
  /-- XORI -/
  | xori (d a : BitVec 5) (imm : BitVec 15)
  /-- SHLI -/
  | shli (d a : BitVec 5) (k : BitVec 6)
  /-- SHRI -/
  | shri (d a : BitVec 5) (k : BitVec 6)
  /-- SARI -/
  | sari (d a : BitVec 5) (k : BitVec 6)
  /-- SLTI -/
  | slti (d a : BitVec 5) (imm : BitVec 15)
  /-- SLTNI -/
  | sltni (d a : BitVec 5) (imm : BitVec 15)
  /-- MULI -/
  | muli (d a : BitVec 5) (imm : BitVec 15)
  /-- LI -/
  | li (d : BitVec 5) (imm : BitVec 20)
  /-- LIS -/
  | lis (d : BitVec 5) (imm : BitVec 20)
  -- Scalar slot: control flow (R163, R164)
  /-- BR -/
  | br (cond : BrCond) (a : BitVec 5) (off : BitVec 16)
  /-- JMP -/
  | jmp (off : BitVec 25)
  /-- CALL -/
  | call (off : BitVec 25)
  /-- JMPR -/
  | jmpr (d a : BitVec 5)
  /-- RET -/
  | ret
  -- Scalar slot: FP32 (R160 to R162)
  /-- FADD -/
  | fadd (rm : RMode) (d a b : BitVec 5)
  /-- FSUB -/
  | fsub (rm : RMode) (d a b : BitVec 5)
  /-- FMUL -/
  | fmul (rm : RMode) (d a b : BitVec 5)
  /-- FFMA -/
  | ffma (rm : RMode) (d a b : BitVec 5)
  /-- FMIN -/
  | fmin (d a b : BitVec 5)
  /-- FMAX -/
  | fmax (d a b : BitVec 5)
  /-- FCMP -/
  | fcmp (cond : FCond) (d a b : BitVec 5)
  /-- FCVT -/
  | fcvt (kind : FcvtKind) (rm : RMode) (d a : BitVec 5)
  -- Scalar slot: control registers (R165); the rows with a register of their own
  /-- GETC -/
  | getc (d : BitVec 5) (creg : BitVec 12)
  /-- SETC -/
  | setc (a : BitVec 5) (creg : BitVec 12)
  /-- GETC_QHOST -/
  | getcQhost (d : BitVec 5)
  /-- GETC_QSERAI -/
  | getcQserai (d : BitVec 5)
  /-- GETC_QMSG -/
  | getcQmsg (d : BitVec 5)
  /-- GETC_QERR -/
  | getcQerr (d : BitVec 5)
  /-- SETC_QHOST -/
  | setcQhost (a : BitVec 5)
  /-- SETC_QSERAI -/
  | setcQserai (a : BitVec 5)
  /-- SETC_QMSG -/
  | setcQmsg (a : BitVec 5)
  /-- SETC_QERR -/
  | setcQerr (a : BitVec 5)
  /-- SETC_CLIP -/
  | setcClip (a : BitVec 5)
  /-- SETC_OPLIMIT -/
  | setcOplimit (a : BitVec 5)
  /-- CNPOOL_ENABLE -/
  | cnpoolEnable (a : BitVec 5)
  /-- CNPOOL_DISABLE -/
  | cnpoolDisable (a : BitVec 5)
  /-- WINDOW_ENABLE, event: a write of `v` to WCFG of window `w`, with EN set, takes effect (R387) -/
  | windowEnable (w : BitVec 4) (v : BitVec 64)
  /-- WINDOW_DISABLE, event: a write of `v` to WCFG of window `w`, with EN clear, takes effect (R387) -/
  | windowDisable (w : BitVec 4) (v : BitVec 64)
  -- Scalar slot: system (R166 to R177)
  /-- TRAP -/
  | trap (i : BitVec 8)
  /-- ERET -/
  | eret
  /-- SLEEP -/
  | sleep (d a b : BitVec 5)
  /-- SLEEP_WAKE, event: a wake condition of the frozen SLEEP of a core comes to hold -/
  | sleepWake (core : Nat)
  /-- TIME -/
  | time (d : BitVec 5)
  /-- CYCLE -/
  | cycle (d : BitVec 5)
  /-- HALT -/
  | halt
  /-- BRK -/
  | brk (c : BitVec 8)
  /-- SLOTQ -/
  | slotq (d : BitVec 5) (sel : BitVec 8)
  /-- WHO -/
  | who (d : BitVec 5) (sel : BitVec 8)
  /-- PWRACQ -/
  | pwracq (a : BitVec 5)
  /-- CLASS_GRANT, event: the die grants the class that the core asked for -/
  | classGrant (core : Nat)
  /-- PWRREL -/
  | pwrrel
  /-- PWRQ -/
  | pwrq (d : BitVec 5)
  /-- SPAWN -/
  | spawn (d a : BitVec 5)
  /-- CANCEL -/
  | cancel (d a b : BitVec 5)
  /-- NODEST -/
  | nodest (d a b : BitVec 5)
  /-- SIGNAL -/
  | signal (a b : BitVec 5)
  /-- SIGNAL_DELIVERY, event: signal `i` of those on their way is performed at its target -/
  | signalDelivery (i : Nat)
  -- Vector slots (spec 09, R194)
  /-- VNOP -/
  | vnop
  /-- VADD -/
  | vadd (D A B : RowOp) (g : BitVec 2)
  /-- VSUB -/
  | vsub (D A B : RowOp) (g : BitVec 2)
  /-- VMUL -/
  | vmul (D A B : RowOp) (g : BitVec 2)
  /-- VFMA -/
  | vfma (D A B : RowOp) (g : BitVec 2)
  /-- VMIN -/
  | vmin (D A B : RowOp) (g : BitVec 2)
  /-- VMAX -/
  | vmax (D A B : RowOp) (g : BitVec 2)
  /-- VABS -/
  | vabs (D A : RowOp) (g : BitVec 2)
  /-- VNEG -/
  | vneg (D A : RowOp) (g : BitVec 2)
  /-- VADDS -/
  | vadds (D A B : RowOp) (g : BitVec 2)
  /-- VSUBS -/
  | vsubs (D A B : RowOp) (g : BitVec 2)
  /-- VMULH -/
  | vmulh (D A B : RowOp) (g : BitVec 2)
  /-- VAND -/
  | vand (D A B : RowOp) (g : BitVec 2)
  /-- VOR -/
  | vor (D A B : RowOp) (g : BitVec 2)
  /-- VXOR -/
  | vxor (D A B : RowOp) (g : BitVec 2)
  /-- VNOT -/
  | vnot (D A : RowOp) (g : BitVec 2)
  /-- VSHL -/
  | vshl (D A B : RowOp) (g : BitVec 2)
  /-- VSHR -/
  | vshr (D A B : RowOp) (g : BitVec 2)
  /-- VSAR -/
  | vsar (D A B : RowOp) (g : BitVec 2)
  /-- VCMP -/
  | vcmp (cond : FCond) (pd : BitVec 2) (A B : RowOp) (g : BitVec 2)
  /-- VSEL -/
  | vsel (D A : RowOp) (ps : BitVec 2) (g : BitVec 2)
  /-- PAND -/
  | pand (pd pa pb : BitVec 2) (g : BitVec 2)
  /-- POR -/
  | por (pd pa pb : BitVec 2) (g : BitVec 2)
  /-- PXOR -/
  | pxor (pd pa pb : BitVec 2) (g : BitVec 2)
  /-- PNOT -/
  | pnot (pd pa : BitVec 2) (g : BitVec 2)
  /-- VCVT -/
  | vcvt (D A : RowOp) (tgt : Tag) (rm : RMode) (sat : Bool) (g : BitVec 2)
  /-- VWID -/
  | vwid (D A : RowOp) (tgt : Tag) (rm : RMode) (sat : Bool) (g : BitVec 2)
  /-- VNAR -/
  | vnar (D A : RowOp) (tgt : Tag) (rm : RMode) (sat : Bool) (g : BitVec 2)
  /-- VQUANT -/
  | vquant (D A B : RowOp)
  /-- VDEQ -/
  | vdeq (D A : RowOp) (tgt : Tag) (rm : RMode) (sat : Bool) (g : BitVec 2)
  /-- VSETTAG -/
  | vsettag (D A : RowOp) (tag : Tag) (g : BitVec 2)
  /-- VREDSUM -/
  | vredsum (D A : RowOp) (g : BitVec 2)
  /-- VREDMAX -/
  | vredmax (D A : RowOp) (g : BitVec 2)
  /-- VREDMIN -/
  | vredmin (D A : RowOp) (g : BitVec 2)
  /-- VAMAX -/
  | vamax (D A : RowOp) (g : BitVec 2)
  /-- VBCAST -/
  | vbcast (D A : RowOp) (m : BitVec 8) (g : BitVec 2)
  /-- VPERM -/
  | vperm (D A B : RowOp) (g : BitVec 2)
  /-- VSHUF -/
  | vshuf (D A : RowOp) (kind : Shuffle) (g : BitVec 2)
  /-- VSLIDE -/
  | vslide (D A : RowOp) (k : BitVec 8) (g : BitVec 2)
  /-- VSCAN -/
  | vscan (D A : RowOp) (g : BitVec 2)
  /-- VMOV -/
  | vmov (D A : RowOp) (g : BitVec 2)
  /-- VSPLAT -/
  | vsplat (D : RowOp) (tag : Tag) (imm : BitVec 8) (g : BitVec 2)
  /-- VEXT -/
  | vext (D A B : RowOp) (g : BitVec 2)
  /-- VSFU -/
  | vsfu (D A : RowOp) (fn : SfuFn) (g : BitVec 2)
  /-- VDIV -/
  | vdiv (D A B : RowOp) (g : BitVec 2)
  -- Matrix slot (spec 14, R309)
  /-- MNOP -/
  | mnop
  /-- MMUL -/
  | mmul (A : RowOp) (nr : BitVec 5) (split : BitVec 3) (mode : AccMode)
  /-- MMULS -/
  | mmuls (a : BitVec 4) (core : BitVec 3) (col : Bool) (nr : BitVec 5) (split : BitVec 3) (mode : AccMode)
  /-- MWLD -/
  | mwld (a : BitVec 4) (mask : BitVec 8) (geom : BitVec 2) (wfmt : WFmt)
  /-- MSWAP -/
  | mswap (mask : BitVec 8)
  /-- MZERO -/
  | mzero
  /-- MWINV -/
  | mwinv (mask : BitVec 8)
  /-- MDRAIN -/
  | mdrain (nr : BitVec 5) (tag : BitVec 4) (ofmt : DrainFmt) (amx : Option (BitVec 4 × Scope))
  /-- MDRAINS -/
  | mdrains (nr : BitVec 5) (a : BitVec 4) (ofmt : DrainFmt) (amx : Option (BitVec 4 × Scope)) (glob col : Bool)
  /-- MCOMMIT -/
  | mcommit (D : RowOp) (tag : BitVec 4) (nr : BitVec 5)
  /-- MLEASE -/
  | mlease (ln : BitVec 6)
  /-- MUNLEASE -/
  | munlease
  /-- MCLIP -/
  | mclip (d : BitVec 5)
  -- Copy slots: rows and scalars of local memory (spec 12, R256, R258)
  /-- CNOP -/
  | cnop
  /-- LDL -/
  | ldl (row : RowOp) (a : BitVec 4) (shape : RowShape) (disp : BitVec 9)
  /-- STL -/
  | stl (row : RowOp) (a : BitVec 4) (shape : RowShape) (disp : BitVec 9)
  /-- LDR -/
  | ldr (row : RowOp) (a : BitVec 4) (shape : RowShape) (owner : BitVec 3) (disp : BitVec 6)
  /-- REMOTE_READ_SERVICE, event: remote read `i` of a core is served at its owner (R233) -/
  | remoteReadService (core i : Nat)
  /-- LDSH -/
  | ldsh (row : RowOp) (a : BitVec 4) (wc : RowWidth) (disp : BitVec 9)
  /-- STSH -/
  | stsh (row : RowOp) (a : BitVec 4) (wc : RowWidth) (disp : BitVec 9)
  /-- LDS -/
  | lds (s base : BitVec 5) (sx : Bool) (size : Size) (disp : BitVec 12)
  /-- STS -/
  | sts (s base : BitVec 5) (size : Size) (disp : BitVec 12)
  -- Copy slots: global memory (R259, R263)
  /-- LDG -/
  | ldg (row : RowOp) (a : BitVec 4) (land : BitVec 10) (wg : GlobWidth) (rh : Bool)
  /-- STG -/
  | stg (row : RowOp) (a : BitVec 4) (wg : GlobWidth)
  /-- LDSG -/
  | ldsg (s base : BitVec 5) (sx : Bool) (size : Size) (land : BitVec 10)
  /-- STSG -/
  | stsg (s base : BitVec 5) (size : Size)
  /-- PFG -/
  | pfg (a : BitVec 4) (wg : GlobWidth) (rh : Bool)
  /-- BGET -/
  | bget (ag al : BitVec 4) (sdesc : BitVec 5) (tag : BitVec 4) (shape : RowShape)
  /-- BPUT -/
  | bput (ag al : BitVec 4) (sdesc : BitVec 5) (tag : BitVec 4) (shape : RowShape)
  /-- BGETSH -/
  | bgetsh (ag al : BitVec 4) (sdesc : BitVec 5) (tag : BitVec 4) (wc : RowWidth)
  /-- BPUTSH -/
  | bputsh (ag al : BitVec 4) (sdesc : BitVec 5) (tag : BitVec 4) (wc : RowWidth)
  /-- BWAIT -/
  | bwait (tag : BitVec 4)
  /-- BPROM -/
  | bprom (s : BitVec 5) (tag : BitVec 4)
  /-- BULK_TRANSFER_COMPLETE, event: bulk transfer `i` of a core completes (R268) -/
  | bulkTransferComplete (core i : Nat)
  -- Copy slots: atomics, fences, contributions (R271, R279, spec 17, R389)
  /-- AADD -/
  | aadd (w : AWidth) (sd sa sb : BitVec 5) (sc : Scope) (ord : Ord) (tr : Bool)
  /-- AMAX -/
  | amax (w : AWidth) (sd sa sb : BitVec 5) (sc : Scope) (ord : Ord) (tr : Bool)
  /-- AMIN -/
  | amin (w : AWidth) (sd sa sb : BitVec 5) (sc : Scope) (ord : Ord) (tr : Bool)
  /-- AMAXN -/
  | amaxn (w : AWidth) (sd sa sb : BitVec 5) (sc : Scope) (ord : Ord) (tr : Bool)
  /-- AMINN -/
  | aminn (w : AWidth) (sd sa sb : BitVec 5) (sc : Scope) (ord : Ord) (tr : Bool)
  /-- AAND -/
  | aand (w : AWidth) (sd sa sb : BitVec 5) (sc : Scope) (ord : Ord) (tr : Bool)
  /-- AOR -/
  | aor (w : AWidth) (sd sa sb : BitVec 5) (sc : Scope) (ord : Ord) (tr : Bool)
  /-- AXOR -/
  | axor (w : AWidth) (sd sa sb : BitVec 5) (sc : Scope) (ord : Ord) (tr : Bool)
  /-- AXCHG -/
  | axchg (w : AWidth) (sd sa sb : BitVec 5) (sc : Scope) (ord : Ord) (tr : Bool)
  /-- ACAS -/
  | acas (w : AWidth) (sd sa sb : BitVec 5) (sc : Scope) (ord : Ord) (tr : Bool)
  /-- AFADD -/
  | afadd (sd sa sb : BitVec 5) (sc : Scope) (ord : Ord) (tr : Bool)
  /-- AFMAX -/
  | afmax (sd sa sb : BitVec 5) (sc : Scope) (ord : Ord) (tr : Bool)
  /-- AAMAX -/
  | aamax (sd sa sb : BitVec 5) (sc : Scope) (ord : Ord) (tr : Bool)
  /-- ALD -/
  | ald (w : AWidth) (sd sa : BitVec 5) (sc : Scope) (ord : Ord) (tr : Bool)
  /-- AST -/
  | ast (w : AWidth) (sa sb : BitVec 5) (sc : Scope) (ord : Ord) (tr : Bool)
  /-- FENCE -/
  | fence (pred succ : BitVec 8) (sc : Scope)
  /-- MARK -/
  | mark
  /-- WADD -/
  | wadd (w : AWidth) (sa sb : BitVec 5) (sc : Scope) (rel : Bool)
  /-- WMAX -/
  | wmax (w : AWidth) (sa sb : BitVec 5) (sc : Scope) (rel : Bool)
  /-- WFADD -/
  | wfadd (sa sb : BitVec 5) (sc : Scope) (rel : Bool)
  /-- WINDOW_CONTRIBUTION, event: the window home handles contribution `i` in a core's store queue (R391) -/
  | windowContribution (core i : Nat)
  /-- SWITCH_MERGE, event: the fabric switch receives a contribution to window `w` (R450) -/
  | switchMerge (w : BitVec 4) (pa : Nat) (idx : BitVec 24) (v : BitVec 64) (peerCfg : BitVec 64)
  -- Copy slots: content-named memory (spec 15, R343)
  /-- CNPUT -/
  | cnput (sn : BitVec 5) (row : RowOp) (qtr : BitVec 2) (land : BitVec 10)
  /-- CNGET -/
  | cnget (sn : BitVec 5) (row : RowOp) (qtr : BitVec 2) (land : BitVec 10)
  /-- CNREF -/
  | cnref (sn : BitVec 5)
  /-- CNDROP -/
  | cndrop (sn : BitVec 5)
  /-- CNSWAP -/
  | cnswap (sd sa sb : BitVec 5) (sc : Scope)
  /-- CNLOOK -/
  | cnlook (sn : BitVec 5) (row : RowOp) (qtr : BitVec 2) (land : BitVec 10)
  /-- CNOUT -/
  | cnout (ag al : BitVec 4) (sdesc : BitVec 5) (tag : BitVec 4)
  /-- CNHASH -/
  | cnhash (sn : BitVec 5) (row : RowOp) (qtr : BitVec 2) (land : BitVec 10)
  /-- CN_DIRECTORY_VERDICT, event: the directory performs the request of C0 or C1 of a frozen core (R344) -/
  | cnDirectoryVerdict (core : Nat) (second : Bool)
  /-- REAPER, event: the reaper handles the REAPING entry of a slot (R340) -/
  | reaper (slot : Nat)
  -- Copy slots: roads and cache control (spec 17, R381, spec 12, R282, R283)
  /-- XMIT -/
  | xmit (row : RowOp) (part lane : BitVec 3) (west : Bool)
  /-- XSEL -/
  | xsel (row : RowOp) (part lane : BitVec 3) (west : Bool)
  /-- FLUSHMS -/
  | flushms (sa : BitVec 5) (sc : Scope)
  /-- INVL -/
  | invl (sa : BitVec 5) (sc : Scope)
  -- Address slot (spec 08, R178 to R188)
  /-- ANOP -/
  | anop
  /-- LOOP -/
  | loop (lvl : BitVec 2) (count len : BitVec 12)
  /-- LOOPS -/
  | loops (lvl : BitVec 2) (s : BitVec 5) (len : BitVec 12)
  /-- LBRK -/
  | lbrk (lvl : BitVec 2)
  /-- AINC -/
  | ainc (a : BitVec 4) (l : BitVec 2)
  /-- AINC2 -/
  | ainc2 (a : BitVec 4) (l : BitVec 2) (a2 : BitVec 4) (l2 : BitVec 2)
  /-- ASET -/
  | aset (a : BitVec 4) (s : BitVec 5)
  /-- AGET -/
  | aget (a : BitVec 4) (s : BitVec 5)
  /-- AADDI -/
  | aaddi (a : BitVec 4) (imm : BitVec 22)
  /-- AMOD -/
  | amod (a : BitVec 4) (s : BitVec 5)
  /-- SBIND -/
  | sbind (q : BitVec 3) (a : BitVec 4)
  /-- SUNBIND -/
  | sunbind (q : BitVec 3)
  /-- SQUERY -/
  | squery (q : BitVec 3) (s : BitVec 5)
  /-- KSET -/
  | kset (a : BitVec 4) (l : BitVec 2) (s : BitVec 5)
  -- Events of a core and its engines
  /-- STREAM_ROW_FETCH, a read stream fetches its next row (R224) -/
  | streamRowFetch (core : Nat) (q : BitVec 3)
  /-- RESULT_LANDING, the due results of a core land (R136) -/
  | resultLanding (core : Nat)
  /-- LANDING_DATA_ARRIVAL, the data of pending result `i` of a core arrives (R139) -/
  | landingDataArrival (core i : Nat)
  /-- SYNC_RESTART, the group on whose SYNC the core waits restarts, when all have arrived (R374) -/
  | syncRestart (core : Nat)
  /-- LEASE_GRANT, the array of a cluster grants a lease (R300) -/
  | leaseGrant (cluster : Nat)
  /-- LEASE_TIMEOUT, the 4,096 periods of a held lease have passed (R300) -/
  | leaseTimeout (core : Nat)
  /-- ARRAY_PRODUCT, the array performs the product at the head of a core's command buffer (R298) -/
  | arrayProduct (core : Nat)
  /-- WEIGHT_LOAD_COMPLETE, the weight load at the head of a core's command buffer completes (R303) -/
  | weightLoadComplete (core : Nat)
  /-- FLUE_SIGNAL_FAILURE, a flue signal of a die fails during a burst that feeds the masked macros of a cluster (R307) -/
  | flueSignalFailure (die : BitVec 3) (signal : BitVec 17) (cluster : Nat) (mask : BitVec 8)
  /-- DRAIN_PERFORM, the drain at the head of a core's command buffer is performed (R326) -/
  | drainPerform (core : Nat)
  /-- PAGE_WALK, a walk ends and installs its leaf (R242) -/
  | pageWalk (core : Nat) (va : BitVec 64)
  /-- HOME_LOAD, load `i` of a core's queue is performed at its home (R356) -/
  | homeLoad (core i : Nat)
  /-- HOME_STORE, store `i` of a core's queue is performed at its home (R355) -/
  | homeStore (core i : Nat)
  /-- HOME_ATOMIC, atomic `i` of a core's queue is performed at its home (R273) -/
  | homeAtomic (core i : Nat)
  /-- CACHE_FILL, fill `i` in flight to a cluster read cache arrives (R246) -/
  | cacheFill (cluster i : Nat)
  /-- SLICE_END, the work of a halted slice is complete (R168) -/
  | sliceEnd (core : Nat)
  -- Events of the serai and of placement (spec 04, 05)
  /-- LAUNCH -/
  | launch (die : BitVec 3) (word : BitVec 64)
  /-- LSTAT -/
  | lstat (die : BitVec 3)
  /-- LCANCEL -/
  | lcancel (die : BitVec 3) (v : BitVec 64)
  /-- LQUERY -/
  | lquery (die : BitVec 3) (v : BitVec 64)
  /-- GRAPH_ADMISSION -/
  | graphAdmission (die : BitVec 3)
  /-- SERAI_CYCLE -/
  | seraiCycle (die : BitVec 3)
  /-- HOLD_ANSWER -/
  | holdAnswer (die other : BitVec 3)
  /-- HOLD_TIMEOUT -/
  | holdTimeout (die other : BitVec 3)
  /-- POWER_ANSWER -/
  | powerAnswer (die other : BitVec 3)
  /-- RESERVATION_COMMIT -/
  | reservationCommit (die : BitVec 3)
  /-- BACKOFF_END -/
  | backoffEnd (node : Nat)
  /-- RETIREMENT -/
  | retirement (node : Nat)
  /-- COMPLETION_POST -/
  | completionPost (die : BitVec 3)
  /-- MSIX_UNMASK -/
  | msixUnmask (vec : BitVec 6)
  /-- NODE_STATE_EXPIRY -/
  | nodeStateExpiry (graph : Nat)
  -- Events of interruption (spec 19)
  /-- KILL -/
  | kill (die : BitVec 3) (v : BitVec 64)
  /-- PREEMPT -/
  | preempt (die : BitVec 3) (v : BitVec 64)
  /-- PREEMPT_REQUEST -/
  | preemptRequest (core : Nat)
  /-- PREEMPTION_COMPLETE -/
  | preemptionComplete (node : Nat)
  /-- CONTEXT_RESTORE -/
  | contextRestore (core : Nat)
  /-- TIMER -/
  | timer (die : BitVec 3) (core : BitVec 9) (v : BitVec 64)
  /-- TIMER_DEADLINE -/
  | timerDeadline (core : Nat)
  /-- POWER_EXCESS: the energy in nJ that the core domain has drawn in the window, and that of the array commands under its leases -/
  | powerExcess (core : Nat) (energy : Nat × Nat)
  /-- THERMAL_TRAP: the zone, the whole degrees that it reads, and the cores that lie in it -/
  | thermalTrap (die : BitVec 3) (zone : BitVec 4) (temp : BitVec 8) (cores : List Nat)
  -- Events of power, time and maintenance (spec 07, 19, 23)
  /-- SETTLE_END -/
  | settleEnd (core : Nat)
  /-- TOKEN_REFILL -/
  | tokenRefill
  /-- STOKER_GRANT -/
  | stokerGrant (die : BitVec 3) (budget : Nat) (rate cap : BitVec 16) (top : BitVec 3)
  /-- FAIL_SAFE_ENTRY -/
  | failSafeEntry (die : BitVec 3)
  /-- SLOT_HOLD -/
  | slotHold
  /-- MINOR_SLOT -/
  | minorSlot
  /-- MAJOR_SLOT -/
  | majorSlot
  /-- SLOT_END -/
  | slotEnd
  /-- MAINTENANCE_OVERRUN -/
  | maintenanceOverrun (ext : Nat) (task : BitVec 8)
  /-- UNCORRECTABLE_ERROR -/
  | uncorrectableError (die : BitVec 3) (place : ErrorPlace) (pa : Nat) (user : ErrorUser)
  /-- REMOTE_UNREACHABLE -/
  | remoteUnreachable (core : Nat) (pa : Nat)
  -- Events of the host and of boot (spec 11, 19, 22, 23)
  /-- TINV -/
  | tinv (v : BitVec 64)
  /-- MBPUSH -/
  | mbpush (die : BitVec 3) (v : BitVec 64)
  /-- MBPOP -/
  | mbpop (die : BitVec 3)
  /-- MBSTAT -/
  | mbstat (die : BitVec 3)
  /-- HOST_MEMORY_READ -/
  | hostMemoryRead (off len : Nat)
  /-- HOST_MEMORY_WRITE -/
  | hostMemoryWrite (off : Nat) (data : List (BitVec 8))
  /-- FETCHADD -/
  | fetchadd (off : Nat) (wide : Bool) (v : BitVec 64)
  /-- SWAP -/
  | swap (off : Nat) (wide : Bool) (v : BitVec 64)
  /-- CAS -/
  | cas (off : Nat) (bits : CasWidth) (cmp v : BitVec 64)
  /-- AGO -/
  | ago (v : BitVec 64)
  /-- ATTESTATION_REPORT -/
  | attestationReport
  /-- CONTROL_REGISTER_WRITE -/
  | controlRegisterWrite (off : Nat) (v : BitVec 64)
  /-- MODULE_RESET -/
  | moduleReset
  /-- FIRMWARE_VERIFICATION -/
  | firmwareVerification (sig : List (BitVec 8)) (image : BootImage)
  /-- PROMISE_TICK -/
  | promiseTick (core : Nat) (tag : BitVec 4)
  /-- TINV_COMPLETION -/
  | tinvCompletion
  /-- BUNDLE_FETCH -/
  | bundleFetch (core : Nat)
  /-- DIRECTORY_FREE_SETTING_DONE -/
  | directoryFreeSettingDone
  deriving DecidableEq, Repr

end Sys2Proof
end

