-- ==== Sys2Proof/Machine/Numbers.lean ====
section
/-! DEFINITION. Machine/Numbers.lean: the number formats, exact values, rounding, conversions, and the integer
results of spec 02 (R26 to R42). A code is the bit pattern of an element, read as a natural number. -/

namespace Sys2Proof.Machine

/-! ## Tags and integer views (R26, R29, R30) -/

/-- Element bits of a tag (R26); EMPTY and BX4 have no single element size and answer 0. -/
def tagBits : Tag → Nat
  | .I8 | .N8 | .E4M3 | .E5M2 => 8
  | .I16 | .N16 | .BF16 | .FP16 => 16
  | .I32 | .N32 | .FP32 => 32
  | .E2M1 | .I4 => 4
  | .EMPTY | .BX4 => 0

/-- Elements of a 512-byte row under a tag (R26). -/
def tagCount : Tag → Nat
  | .EMPTY => 0
  | .BX4 => 512
  | t => 4096 / tagBits t

def tagSigned : Tag → Bool
  | .I8 | .I16 | .I32 | .I4 => true
  | _ => false

def tagUnsigned : Tag → Bool
  | .N8 | .N16 | .N32 => true
  | _ => false

def tagInt (t : Tag) : Bool := tagSigned t || tagUnsigned t

/-- The float tags (R31, R34). -/
def tagFloat : Tag → Bool
  | .FP32 | .BF16 | .FP16 | .E4M3 | .E5M2 | .E2M1 => true
  | _ => false

/-- Wrap(w, x): the low `w` bits (R30). -/
def wrap (w : Nat) (x : Int) : Nat := (x % (2 ^ w : Int)).toNat

/-- Two's complement value of `w` bits. -/
def signedVal (w c : Nat) : Int :=
  if c % 2 ^ w < 2 ^ (w - 1) then (c % 2 ^ w : Nat) else ((c % 2 ^ w : Nat) : Int) - (2 ^ w : Nat)

/-- The value of an integer code in the view of its tag (R189). -/
def intVal (t : Tag) (c : Nat) : Int := if tagSigned t then signedVal (tagBits t) c else (c : Int)

/-- Lowest value of an integer tag. -/
def intMin (t : Tag) : Int := if tagSigned t then -(2 ^ (tagBits t - 1) : Nat) else 0

/-- Highest value of an integer tag. -/
def intMax (t : Tag) : Int :=
  if tagSigned t then ((2 ^ (tagBits t - 1) : Nat) : Int) - 1 else ((2 ^ tagBits t : Nat) : Int) - 1

def clampInt (t : Tag) (v : Int) : Int := if v < intMin t then intMin t else if intMax t < v then intMax t else v

/-! ## Float formats (R31 to R35) -/

/-- A float format: widths, bias, the largest finite magnitude code, and the codes of infinity and of the canonical
NaN where the format has them. Exponent and fraction together count the magnitudes upwards. -/
structure FloatFmt where
  frac : Nat
  bias : Nat
  bits : Nat
  maxCode : Nat
  infCode : Option Nat
  nanCode : Option Nat
  deriving DecidableEq, Repr

def fp32 : FloatFmt := ⟨23, 127, 32, 0x7F7FFFFF, some 0x7F800000, some 0x7FC00000⟩
def bf16 : FloatFmt := ⟨7, 127, 16, 0x7F7F, some 0x7F80, some 0x7FC0⟩
def fp16 : FloatFmt := ⟨10, 15, 16, 0x7BFF, some 0x7C00, some 0x7E00⟩
def e4m3 : FloatFmt := ⟨3, 7, 8, 0x7E, none, some 0x7F⟩
def e5m2 : FloatFmt := ⟨2, 15, 8, 0x7B, some 0x7C, some 0x7E⟩
def e2m1 : FloatFmt := ⟨1, 1, 4, 0x7, none, none⟩

/-- The format of a float tag; other tags answer FP32 and are never asked. -/
def tagFmt : Tag → FloatFmt
  | .BF16 => bf16
  | .FP16 => fp16
  | .E4M3 => e4m3
  | .E5M2 => e5m2
  | .E2M1 => e2m1
  | _ => fp32

/-- A float value: NaN, an infinity, or (−1)^neg · mant · 2^exp, exactly. -/
inductive Val
  | nan
  | inf (neg : Bool)
  | fin (neg : Bool) (mant : Nat) (exp : Int)
  deriving DecidableEq, Repr

/-- The magnitude of a magnitude code, as mantissa and exponent, with no upper limit of the exponent (R37). -/
def codeMag (f : FloatFmt) (c : Nat) : Nat × Int :=
  let e := c / 2 ^ f.frac
  let m := c % 2 ^ f.frac
  if e = 0 then (m, 1 - (f.bias : Int) - f.frac) else (2 ^ f.frac + m, (e : Int) - f.bias - f.frac)

/-- The value of a code (R31, R34, R35). -/
def decodeFloat (f : FloatFmt) (code : Nat) : Val :=
  let c := code % 2 ^ (f.bits - 1)
  let neg := code / 2 ^ (f.bits - 1) % 2 == 1
  if c ≤ f.maxCode then .fin neg (codeMag f c).1 (codeMag f c).2
  else if some c = f.infCode then .inf neg
  else .nan

def withSign (f : FloatFmt) (neg : Bool) (c : Nat) : Nat := if neg then c + 2 ^ (f.bits - 1) else c

/-- The canonical NaN; +0 for a format without NaN (R32, R42). -/
def nanOf (f : FloatFmt) : Nat := f.nanCode.getD 0

/-- An infinity in the format, or what stands for it (R38). -/
def infOf (f : FloatFmt) (neg : Bool) : Nat :=
  match f.infCode, f.nanCode with
  | some c, _ => withSign f neg c
  | none, some n => n
  | none, none => withSign f neg f.maxCode

/-- The value k + r/2^d rounded to an integer by the mode, for a magnitude of the given sign (R37, R39). -/
def roundStep (rm : RMode) (rnd : Nat) (neg : Bool) (k r d : Nat) : Nat :=
  if r = 0 then k
  else match rm with
    | .rne => if 2 ^ d < 2 * r || (2 * r == 2 ^ d && k % 2 == 1) then k + 1 else k
    | .rz => k
    | .ru => if neg then k else k + 1
    | .rd => if neg then k + 1 else k
    | .rna => if 2 ^ d ≤ 2 * r then k + 1 else k
    | .sr => if 65536 ≤ 65536 * r / 2 ^ d + rnd then k + 1 else k

/-- The result of an overflow (R38). -/
def overflowCode (f : FloatFmt) (rm : RMode) (sat neg : Bool) : Nat :=
  if sat then withSign f neg f.maxCode
  else match rm with
    | .rne | .rna | .sr => infOf f neg
    | .rz => withSign f neg f.maxCode
    | .ru => if neg then withSign f neg f.maxCode else infOf f neg
    | .rd => if neg then infOf f neg else withSign f neg f.maxCode

/-- Shift of a mantissa to the left, for an integer exponent; 0 for a negative one. -/
def shlNat (m : Nat) (k : Int) : Nat := m * 2 ^ k.toNat

/-- The magnitude code, without an upper limit, of mant · 2^exp (not zero) rounded by the mode (R37). -/
def roundMag (f : FloatFmt) (rm : RMode) (rnd : Nat) (neg : Bool) (mant : Nat) (exp : Int) : Nat :=
  let emin : Int := 1 - (f.bias : Int)
  let p : Int := (mant.log2 : Int) + exp
  let top : Int := if p < emin then emin else p
  let d : Int := top - f.frac - exp
  let base := (top - emin).toNat * 2 ^ f.frac
  if d ≤ 0 then base + shlNat mant (-d)
  else base + roundStep rm rnd neg (mant / 2 ^ d.toNat) (mant % 2 ^ d.toNat) d.toNat

/-- Round(fmt, x, mode) with the saturate bit, of a value that is no NaN and no infinity (R37, R38). -/
def roundFin (f : FloatFmt) (rm : RMode) (rnd : Nat) (sat neg : Bool) (mant : Nat) (exp : Int) : Nat :=
  if mant = 0 then withSign f neg 0
  else
    let c := roundMag f rm rnd neg mant exp
    if f.maxCode < c then overflowCode f rm sat neg else withSign f neg c

/-- Conversion of any value to a float format (R42). -/
def roundVal (f : FloatFmt) (rm : RMode) (rnd : Nat) (sat : Bool) : Val → Nat
  | .nan => nanOf f
  | .inf neg => if sat then withSign f neg f.maxCode else infOf f neg
  | .fin neg m e => roundFin f rm rnd sat neg m e

/-- Rounding of an arithmetic result: RNE, no saturation (R195). -/
def rne (f : FloatFmt) (v : Val) : Nat := roundVal f .rne 0 false v

/-! ## Exact arithmetic -/

def valNeg : Val → Val
  | .nan => .nan
  | .inf s => .inf (!s)
  | .fin s m e => .fin (!s) m e

def valAbs : Val → Val
  | .nan => .nan
  | .inf _ => .inf false
  | .fin _ m e => .fin false m e

/-- The signed mantissa at exponent `e`, for `e` not above the value's exponent. -/
def mantAt (neg : Bool) (m : Nat) (x e : Int) : Int :=
  let k : Int := shlNat m (x - e)
  if neg then -k else k

/-- A value of an integer mantissa; `zneg` is the sign that a zero takes. -/
def valOfInt (zneg : Bool) (k : Int) (e : Int) : Val :=
  if k = 0 then .fin zneg 0 0 else .fin (decide (k < 0)) k.natAbs e

/-- The exact sum; an exact zero of opposite signs takes the sign `zneg` (+0 except when rounding down). -/
def valAdd (zneg : Bool) : Val → Val → Val
  | .nan, _ => .nan
  | _, .nan => .nan
  | .inf s, .inf t => if s == t then .inf s else .nan
  | .inf s, .fin _ _ _ => .inf s
  | .fin _ _ _, .inf t => .inf t
  | .fin s m x, .fin t n y =>
    if m = 0 ∧ n = 0 then (if s == t then .fin s 0 0 else .fin zneg 0 0)
    else
      let e := if x ≤ y then x else y
      valOfInt zneg (mantAt s m x e + mantAt t n y e) e

/-- The exact product. -/
def valMul : Val → Val → Val
  | .nan, _ => .nan
  | _, .nan => .nan
  | .inf s, .inf t => .inf (s != t)
  | .inf s, .fin t n _ => if n = 0 then .nan else .inf (s != t)
  | .fin s m _, .inf t => if m = 0 then .nan else .inf (s != t)
  | .fin s m x, .fin t n y => .fin (s != t) (m * n) (x + y)

/-- The quotient of two magnitudes to at least 80 bits, the last bit telling whether a remainder is left. -/
def divMag (m : Nat) (x : Int) (n : Nat) (y : Int) : Nat × Int :=
  let k := 80 + n.log2 - m.log2
  let q := m * 2 ^ k / n
  (2 * q + (if m * 2 ^ k % n = 0 then 0 else 1), x - y - k - 1)

/-- The quotient, to be rounded to at most 24 bits (R213). -/
def valDiv : Val → Val → Val
  | .nan, _ => .nan
  | _, .nan => .nan
  | .inf _, .inf _ => .nan
  | .inf s, .fin t _ _ => .inf (s != t)
  | .fin s _ _, .inf t => .fin (s != t) 0 0
  | .fin s m x, .fin t n y =>
    if n = 0 then (if m = 0 then .nan else .inf (s != t))
    else if m = 0 then .fin (s != t) 0 0
    else .fin (s != t) (divMag m x n y).1 (divMag m x n y).2

/-- An order on values that are no NaN: a key that compares as the values do, −0 and +0 alike. -/
def valLt : Val → Val → Bool
  | .nan, _ => false
  | _, .nan => false
  | .inf s, .inf t => s && !t
  | .inf s, .fin _ _ _ => s
  | .fin _ _ _, .inf t => !t
  | .fin s m x, .fin t n y =>
    let e := if x ≤ y then x else y
    decide (mantAt s m x e < mantAt t n y e)

def valIsNan : Val → Bool
  | .nan => true
  | _ => false

def valSign : Val → Bool
  | .nan => false
  | .inf s => s
  | .fin s _ _ => s

/-- Equality as numbers; false for a NaN. -/
def valEq (a b : Val) : Bool := !valIsNan a && !valIsNan b && !valLt a b && !valLt b a

/-- The outcome of a compare (R198). -/
def valCmp (c : FCond) (a b : Val) : Bool :=
  let un := valIsNan a || valIsNan b
  match c with
  | .eq => valEq a b
  | .ne => un || !valEq a b
  | .lt => valLt a b
  | .le => valLt a b || valEq a b
  | .gt => valLt b a
  | .ge => valLt b a || valEq a b
  | .un => un
  | .ord => !un

def intCmp (c : FCond) (a b : Int) : Bool :=
  match c with
  | .eq => decide (a = b)
  | .ne => decide (a ≠ b)
  | .lt => decide (a < b)
  | .le => decide (a ≤ b)
  | .gt => decide (b < a)
  | .ge => decide (b ≤ a)
  | .un => false
  | .ord => true

/-- The smaller value, NaN counting as missing and −0 below +0 (R33). -/
def valMin (a b : Val) : Val :=
  if valIsNan a then b else if valIsNan b then a
  else if valLt a b || (valEq a b && valSign a) then a else b

/-- The larger value, NaN counting as missing and −0 below +0 (R33). -/
def valMax (a b : Val) : Val :=
  if valIsNan a then b else if valIsNan b then a
  else if valLt b a || (valEq a b && !valSign a) then a else b

/-- A value rounded to an integer by the mode; the infinities answer `none`, with their sign. -/
def valToInt (rm : RMode) (rnd : Nat) : Val → Option Int
  | .nan => some 0
  | .inf _ => none
  | .fin s m x =>
    let k := if 0 ≤ x then shlNat m x
      else roundStep rm rnd s (m / 2 ^ (-x).toNat) (m % 2 ^ (-x).toNat) (-x).toNat
    some (if s then -(k : Int) else k)

/-- The value of an integer. -/
def valOfNum (v : Int) : Val := .fin (decide (v < 0)) v.natAbs 0

/-! ## Conversions between tags (R42) -/

/-- Whether a float format has the range and the precision of another, whose values it then holds exactly (R42). -/
def FloatFmt.holds (g f : FloatFmt) : Bool := decide (f.frac ≤ g.frac) && decide (f.bias ≤ g.bias)

/-- A conversion of one element, neither tag BX4 nor EMPTY (R42). A wider float takes an infinity as it is, whatever the saturate bit
says; a signed integer that goes to a wider unsigned format is clamped under the saturate bit (log entry 57). -/
def convert (src tgt : Tag) (rm : RMode) (rnd : Nat) (sat : Bool) (c : Nat) : Nat :=
  if src = tgt then c
  else if tagFloat src then
    let v := decodeFloat (tagFmt src) c
    if tagFloat tgt then roundVal (tagFmt tgt) rm rnd (sat && !(tagFmt tgt).holds (tagFmt src)) v
    else match valToInt rm rnd v with
      | some k => wrap (tagBits tgt) (clampInt tgt k)
      | none => wrap (tagBits tgt) (if valSign v then intMin tgt else intMax tgt)
  else
    let k := intVal src c
    if tagFloat tgt then roundVal (tagFmt tgt) rm rnd sat (valOfNum k)
    else if sat then wrap (tagBits tgt) (clampInt tgt k)
    else wrap (tagBits tgt) k

/-- Float arithmetic on codes of one format, rounded RNE (R195, R196). -/
def fAdd (f : FloatFmt) (a b : Nat) : Nat := rne f (valAdd false (decodeFloat f a) (decodeFloat f b))
def fSub (f : FloatFmt) (a b : Nat) : Nat := rne f (valAdd false (decodeFloat f a) (valNeg (decodeFloat f b)))
def fMul (f : FloatFmt) (a b : Nat) : Nat := rne f (valMul (decodeFloat f a) (decodeFloat f b))
def fFma (f : FloatFmt) (a b d : Nat) : Nat :=
  rne f (valAdd false (valMul (decodeFloat f a) (decodeFloat f b)) (decodeFloat f d))
def fMin (f : FloatFmt) (a b : Nat) : Nat := rne f (valMin (decodeFloat f a) (decodeFloat f b))
def fMax (f : FloatFmt) (a b : Nat) : Nat := rne f (valMax (decodeFloat f a) (decodeFloat f b))
def fDiv (f : FloatFmt) (a b : Nat) : Nat := rne f (valDiv (decodeFloat f a) (decodeFloat f b))

/-! ## Stochastic rounding (R40) -/

/-- The mixed 64 bits of R40. -/
def srMix (x : BitVec 64) : BitVec 64 :=
  let x := (x ^^^ (x >>> 30)) * 0xBF58476D1CE4E5B9
  let x := (x ^^^ (x >>> 27)) * 0x94D049BB133111EB
  x ^^^ (x >>> 31)

/-- Rnd16 of element `e`: seed, virtual slice and counter as R40 combines them. -/
def rnd16 (seed : Word) (slice : Nat) (count : Word) (e : Nat) : Nat :=
  let x := seed ^^^ (BitVec.ofNat 64 slice <<< 40) ^^^ (count + BitVec.ofNat 64 e)
  (srMix x).toNat % 65536

/-! ## Elements of a row (R28) -/

/-- Element `i` of `w` bits. -/
def elem (w : Nat) (r : RowBits) (i : Nat) : Nat := (r.toNat >>> (w * i)) % 2 ^ w

/-- The number with the elements of the list, the first lowest. -/
def packNat (w : Nat) : List Nat → Nat
  | [] => 0
  | x :: t => x % 2 ^ w + (packNat w t) <<< w

/-- A row from its elements. -/
def packRow (w : Nat) (l : List Nat) : RowBits := BitVec.ofNat 4096 (packNat w l)

/-- The elements of a row. -/
def elems (w n : Nat) (r : RowBits) : List Nat := (List.range n).map (elem w r)

end Sys2Proof.Machine
end

