-- ==== Sys2Proof/Machine/Lanes.lean ====
section
/-! DEFINITION. Machine/Lanes.lean: what the vector instructions compute on rows, with no state: elementwise
arithmetic, logic and shifts, compares, conversions of groups, reductions, scans, permutes and the BX4 format
(spec 02, R43 to R51; spec 09, R189 to R210). -/

namespace Sys2Proof.Machine

/-! ## Guards (R191) -/

/-- Whether element `i` of a view of `n` elements is on under predicate `p`. -/
def onLane (p : Pred) (n i : Nat) : Bool := p.getLsbD (i * (1024 / n))

/-- A row of `n` elements of `w` bits: the result where an element is on, the destination's element elsewhere. -/
def guarded (p : Pred) (n w : Nat) (dst : RowBits) (r : Nat → Nat) : RowBits :=
  packRow w ((List.range n).map fun i => if onLane p n i then r i else elem w dst i)

/-! ## Elementwise operations (R196, R197) -/

/-- The arithmetic operations of R196. -/
inductive ArithOp
  | add | sub | mul | fma | min | max | abs | neg | adds | subs | mulh
  deriving DecidableEq, Repr

/-- Op on float codes of one format (R195, R196); the operations that floats do not have answer 0. -/
def arithFloat (op : ArithOp) (f : FloatFmt) (a b d : Nat) : Nat :=
  match op with
  | .add => fAdd f a b
  | .sub => fSub f a b
  | .mul => fMul f a b
  | .fma => fFma f a b d
  | .min => fMin f a b
  | .max => fMax f a b
  | .abs => rne f (valAbs (decodeFloat f a))
  | .neg => rne f (valNeg (decodeFloat f a))
  | .adds | .subs | .mulh => 0

/-- Op on integers in the tag's view (R30, R196). -/
def arithInt (op : ArithOp) (t : Tag) (a b d : Nat) : Nat :=
  let w := tagBits t
  let x := intVal t a
  let y := intVal t b
  match op with
  | .add => wrap w (x + y)
  | .sub => wrap w (x - y)
  | .mul => wrap w (x * y)
  | .fma => wrap w (intVal t d + x * y)
  | .min => wrap w (if x ≤ y then x else y)
  | .max => wrap w (if x ≤ y then y else x)
  | .abs => wrap w (if x < 0 then -x else x)
  | .neg => wrap w (-x)
  | .adds => wrap w (clampInt t (x + y))
  | .subs => wrap w (clampInt t (x - y))
  | .mulh => wrap w (x * y / (2 ^ w : Int))

def arith (op : ArithOp) (t : Tag) (a b d : Nat) : Nat :=
  if tagFloat t then arithFloat op (tagFmt t) a b d else arithInt op t a b d

/-- The shifts of R197. -/
inductive ShiftOp
  | left | right | arithRight
  deriving DecidableEq, Repr

def shiftElem (op : ShiftOp) (w a b : Nat) : Nat :=
  let k := b % w
  match op with
  | .left => (a <<< k) % 2 ^ w
  | .right => a >>> k
  | .arithRight => wrap w (signedVal w a / (2 ^ k : Int))

/-- The outcome of a compare on two codes of a tag (R198). -/
def cmpElem (c : FCond) (t : Tag) (a b : Nat) : Bool :=
  if tagFloat t then valCmp c (decodeFloat (tagFmt t) a) (decodeFloat (tagFmt t) b)
  else intCmp c (intVal t a) (intVal t b)

/-- Predicate bits from the outcomes of a view of `n` elements, elements that are off keeping the old bits (R198). -/
def predOf (g old : Pred) (n : Nat) (out : Nat → Bool) : Pred :=
  let m := 1024 / n
  BitVec.ofNat 1024 (packNat m ((List.range n).map fun i =>
    if onLane g n i then (if out i then 2 ^ m - 1 else 0) else (old.toNat >>> (i * m)) % 2 ^ m))

/-! ## Reductions and scans (R49, R50) -/

/-- One level of the tree: neighbours combined in order. -/
def pairUp {α : Type} (f : α → α → α) : List α → List α
  | a :: b :: t => f a b :: pairUp f t
  | l => l

/-- `k` levels of the tree. -/
def treeLevels {α : Type} (f : α → α → α) : Nat → List α → List α
  | 0, l => l
  | k + 1, l => treeLevels f k (pairUp f l)

/-- The tree of R49 over 2^k lanes. -/
def treeReduce {α : Type} (f : α → α → α) (dflt : α) (k : Nat) (l : List α) : α :=
  (treeLevels f k l).headD dflt

/-- A lane of a sum in the combine format: FP32 for floats, 32 bits wrapping for integers. -/
def sumLane (t : Tag) (c : Nat) : Nat :=
  if tagFloat t then convert t .FP32 .rne 0 false c else wrap 32 (intVal t c)

def sumCombine (t : Tag) (a b : Nat) : Nat := if tagFloat t then fAdd fp32 a b else (a + b) % 2 ^ 32

/-- The kinds of extremum of R49. -/
inductive Extremum
  | max | min | amax
  deriving DecidableEq, Repr

/-- A float lane of an extremum, a NaN or a lane that is off missing. -/
def extLaneF (k : Extremum) (f : FloatFmt) (c : Nat) : Option Val :=
  match decodeFloat f c with
  | .nan => none
  | v => some (if k = .amax then valAbs v else v)

def extCombineF (k : Extremum) : Option Val → Option Val → Option Val
  | none, b => b
  | a, none => a
  | some a, some b => some (if k = .min then valMin a b else valMax a b)

def extCombineI (k : Extremum) (a b : Int) : Int := if k = .min then (if a ≤ b then a else b) else (if a ≤ b then b else a)

/-- The identity of an integer extremum in the combine format (R49). -/
def extIdentity (k : Extremum) (t : Tag) : Int :=
  match k with
  | .max => if tagSigned t then -2147483648 else 0
  | .min => if tagSigned t then 2147483647 else 4294967295
  | .amax => 0

/-- log2 of the element count. -/
def levels (n : Nat) : Nat := n.log2

/-- VREDSUM of a row (R49, R206). -/
def redSum (t : Tag) (g : Pred) (r : RowBits) : Nat :=
  let n := tagCount t
  treeReduce (sumCombine t) 0 (levels n) ((List.range n).map fun i =>
    if onLane g n i then sumLane t (elem (tagBits t) r i) else 0)

/-- VREDMAX, VREDMIN and VAMAX of a row (R49, R206). -/
def redExt (k : Extremum) (t : Tag) (g : Pred) (r : RowBits) : Nat :=
  let n := tagCount t
  if tagFloat t then
    match treeReduce (extCombineF k) none (levels n) ((List.range n).map fun i =>
        if onLane g n i then extLaneF k (tagFmt t) (elem (tagBits t) r i) else none) with
    | none => nanOf fp32
    | some v => rne fp32 v
  else
    wrap 32 (treeReduce (extCombineI k) 0 (levels n) ((List.range n).map fun i =>
      if onLane g n i then
        (let v := intVal t (elem (tagBits t) r i)
         if k = .amax then (v.natAbs : Int) else v)
      else extIdentity k t))

/-- Result tag of a reduction (R206). -/
def redTag (amax : Bool) (t : Tag) : Tag :=
  if tagFloat t then .FP32 else if amax then .N32 else if tagSigned t then .I32 else .N32

/-- One step of the prefix sum at distance `d` (R50). -/
def scanStep (f : Nat → Nat → Nat) (d : Nat) (y : List Nat) : List Nat :=
  y.take d ++ List.zipWith f y (y.drop d)

/-- The prefix sum over 128 lanes (R50). -/
def scanSum (t : Tag) (y : List Nat) : List Nat :=
  [1, 2, 4, 8, 16, 32, 64].foldl (fun y d => scanStep (sumCombine t) d y) y

/-! ## Groups of rows (R51, R201) -/

/-- Rows of a group for a ratio of element bits: 1, 2 or 4. -/
def groupRatio (wide narrow : Nat) : Option Nat :=
  if narrow = 0 then none else if wide = narrow then some 1 else if wide = 2 * narrow then some 2
  else if wide = 4 * narrow then some 4 else none

/-- Element `i` of the sequence that a group of `k` rows holds (R51). -/
def groupElem (w k : Nat) (rows : List RowBits) (i : Nat) : Nat := elem w (rows.getD (i % k) 0) (i / k)

/-- The rows of a group from a sequence of elements (R51). -/
def groupRows (w k n : Nat) (f : Nat → Nat) : List RowBits :=
  (List.range k).map fun r => packRow w ((List.range (n / k)).map fun j => f (j * k + r))

/-! ## Permutes (R209, R210) -/

/-- The source index of VSHUF for element `i` of `n`. -/
def shufIndex (kind : Shuffle) (n i : Nat) : Nat :=
  match kind with
  | .rev => n - 1 - i
  | .unzip => if i < n / 2 then 2 * i else 2 * (i - n / 2) + 1
  | .zip => if i % 2 = 0 then i / 2 else n / 2 + (i - 1) / 2
  | .swap => i ^^^ 1

/-- The element of VSLIDE: from the other end of the row it is zero. -/
def slideElem (w n : Nat) (r : RowBits) (k : BitVec 8) (i : Nat) : Nat :=
  let j : Int := (i : Int) + k.toInt
  if 0 ≤ j ∧ j < n then elem w r j.toNat else 0

def extElem (w n : Nat) (a b : RowBits) (i : Nat) : Nat :=
  if i < n / 2 then elem w a (i + n / 2) else elem w b (i - n / 2)

def permIndex (n i b : Nat) : Nat := if n = 512 then i / 256 * 256 + b else b % n

/-! ## Block-scaled rows (R36, R43 to R48) -/

/-- E3M5 as magnitudes (R36). -/
def e3m5 : FloatFmt := ⟨5, 3, 9, 0xFE, none, none⟩

/-- The value of an E3M5 code. -/
def scaleVal (c : Nat) : Val := .fin false (codeMag e3m5 c).1 (codeMag e3m5 c).2

/-- What a check of a BX4 row finds (R44); the numbers are those of R205. -/
inductive Bx4Error
  | bound | scale | band
  deriving DecidableEq, Repr

def bx4Bound (r : RowBits) : Nat := (r.toNat >>> 2048) % 2 ^ 512
def bx4Scale (r : RowBits) (k : Nat) : Nat := elem 8 r (320 + k)
def bx4Band (r : RowBits) : Nat := (r.toNat >>> 3584) % 65536

/-- For every element the number of its block: the count of block starts up to it, less one (R43). -/
def blockNumbers (bound : Nat) : List Nat :=
  (((List.range 512).foldl (fun (acc : Nat × List Nat) i =>
    let k := acc.1 + (bound >>> i) % 2
    (k, (k - 1) :: acc.2)) (0, [])).2).reverse

/-- The number of blocks. -/
def blockCount (bound : Nat) : Nat := (List.range 512).foldl (fun k i => k + (bound >>> i) % 2) 0

/-- The check of R44. -/
def bx4Check (r : RowBits) : Option Bx4Error :=
  let b := bx4Bound r
  let n := blockCount b
  if b % 2 = 0 ∨ 128 < n then some .bound
  else if (List.range n).any (fun k => bx4Scale r k == 0xFF) then some .scale
  else if 0x7F80 ≤ bx4Band r then some .band
  else none

/-- The exact values of the 512 elements (R43). -/
def bx4Values (r : RowBits) : List Val :=
  let sb := decodeFloat bf16 (bx4Band r)
  (blockNumbers (bx4Bound r)).zipIdx.map fun (k, i) =>
    valMul (valMul (decodeFloat e2m1 (elem 4 r i)) (scaleVal (bx4Scale r k))) sb

/-- mag(i) of R46. -/
def quantMag (c : Nat) : Val :=
  match decodeFloat fp32 c with
  | .nan => .fin false 0 0
  | v => valAbs v

/-- A value times a power of two. -/
def valScale (v : Val) (k : Int) : Val :=
  match v with
  | .fin s m e => .fin s m (e + k)
  | v => v

/-- The cut of R46 into blocks: for each block its elements (codes, in order) and the largest magnitude. -/
def quantBlocks : List Nat → List Nat → Val → List (List Nat × Val)
  | [], cur, bmax => [(cur.reverse, bmax)]
  | x :: t, cur, bmax =>
    let n := cur.length
    let m := quantMag x
    if n = 32 || (decide (4 ≤ n) && valLt (valScale bmax 2) m) ||
        (decide (4 ≤ n) && valLt (.fin false 0 0) m && valLt m (valScale bmax (-4)))
    then (cur.reverse, bmax) :: quantBlocks t [x] m
    else quantBlocks t (x :: cur) (valMax bmax m)

/-- The band scale of R45. -/
def bandScale (amax : Nat) : Nat :=
  match decodeFloat fp32 amax with
  | .fin _ 0 _ => 0
  | v => roundVal bf16 .ru 0 false (valDiv v (.fin false 189 0))

/-- Whether the quantiser refuses the absolute maximum (R45): below zero, NaN or infinite. -/
def badAmax (amax : Nat) : Bool :=
  match decodeFloat fp32 amax with
  | .fin s m _ => s && m != 0
  | _ => true

/-- The scale of a block (R46). -/
def blockScale (sb : Val) (bmax : Val) : Nat :=
  if valEq sb (.fin false 0 0) || valEq bmax (.fin false 0 0) then 0
  else ((List.range 255).find? fun c =>
    !valLt (valMul (valMul (scaleVal c) (.fin false 6 0)) sb) bmax).getD 0xFE

/-- The elements of a block (R46). -/
def blockElems (sb : Val) (scale : Nat) (xs : List Nat) : List Nat :=
  let q := valMul sb (scaleVal scale)
  xs.map fun x =>
    match decodeFloat fp32 x with
    | .nan => 0
    | v => if valEq q (.fin false 0 0) then 0 else roundVal e2m1 .rne 0 true (valDiv v q)

/-- The starts of blocks of the given lengths, as bits. -/
def startBits : Nat → List Nat → Nat
  | _, [] => 0
  | at_, n :: t => 2 ^ at_ + startBits (at_ + n) t

/-- The BX4 row of 512 FP32 values and an absolute maximum (R45, R46). -/
def quantise (x : List Nat) (amax : Nat) : RowBits :=
  let sb := bandScale amax
  let sbv := decodeFloat bf16 sb
  let blocks := match x with
    | [] => []
    | a :: t => quantBlocks t [a] (quantMag a)
  let scales := blocks.map fun b => blockScale sbv b.2
  let el := (blocks.zip scales).flatMap fun p => blockElems sbv p.2 p.1.1
  BitVec.ofNat 4096 (packNat 4 el + (startBits 0 (blocks.map (·.1.length))) <<< 2048 +
    (packNat 8 scales) <<< 2560 + sb <<< 3584)

end Sys2Proof.Machine
end

