-- ==== Sys2Proof/WellFormed.lean ====
section
/-! DEFINITION. WellFormed.lean: the conditions under which a term of Instr is an instruction of the part: the field
values that the formats and the descriptions reserve (spec 06, R121) are excluded. -/

namespace Sys2Proof

/-- A latch is never a destination (spec 06, R109). -/
def RowOp.isLatch : RowOp → Bool
  | .latch _ => true
  | _ => false

/-- The row operands that a group of tile rows may start at (R201). -/
def RowOp.isTile : RowOp → Bool
  | .t _ => true
  | .tl _ _ => true
  | _ => false

/-- The row operands that hold a register row and no stream or latch (R343, R383). -/
def RowOp.isReg : RowOp → Bool
  | .t _ => true
  | .tl _ _ => true
  | .o _ => true
  | _ => false

/-- The drain formats of block-scaled rows (R323). -/
def DrainFmt.isBx4 : DrainFmt → Bool
  | .bx512 => true
  | .bx1024 => true
  | _ => false

/-- The drain formats of companion lanes (R323). -/
def DrainFmt.isBnd : DrainFmt → Bool
  | .bnd128 => true
  | .bnd256 => true
  | .bnd512 => true
  | .bnd1024 => true
  | _ => false

/-- The even register that starts a pair (R114, R343). -/
def evenReg (r : BitVec 5) : Bool := r.toNat % 2 == 0

/-- An even register other than s0 (R343). -/
def namePair (r : BitVec 5) : Bool := evenReg r && r != 0

/-- Bits of the elements of a dequantised row, by target tag (R205); `none` for a target that VDEQ does not take. -/
def vdeqBits : Tag → Option Nat
  | .FP32 => some 32
  | .BF16 => some 16
  | .FP16 => some 16
  | .E4M3 => some 8
  | .E5M2 => some 8
  | _ => none

/-- The width and tag conditions of an atomic that returns a value (R271, R275). -/
def wfAtomic (w : AWidth) (sd : BitVec 5) (tr : Bool) : Bool := w != .w128 && !(tr && sd == 31)

/-- The conditions on a C-N instruction with a row source (R343). -/
def wfName (sn : BitVec 5) (land : BitVec 10) : Bool := namePair sn && land != 0

/-- Well-formed instructions. The words of `cnpoolDisable` are those of `cnpoolEnable`, which the decoder answers. -/
def Instr.wf : Instr → Bool
  | .lock _ _ _ pairs count => pairs != 0 && count != 0
  | .slotq _ n => decide (n.toNat < 5)
  | .who _ n => decide (n.toNat < 9)
  | .getc _ c => decide (c.toNat < 0xF00) || decide (0xF03 < c.toNat)
  | .setc _ c => (decide (c.toNat < 0xF00) || decide (0xF03 < c.toNat)) && c != 0x020 && c != 0x470 && c != 0x420
  | .cnpoolDisable _ => false
  | .vadd D _ _ _ | .vsub D _ _ _ | .vmul D _ _ _ | .vfma D _ _ _ | .vmin D _ _ _ | .vmax D _ _ _
  | .vadds D _ _ _ | .vsubs D _ _ _ | .vmulh D _ _ _ | .vand D _ _ _ | .vor D _ _ _ | .vxor D _ _ _
  | .vshl D _ _ _ | .vshr D _ _ _ | .vsar D _ _ _ | .vperm D _ _ _ | .vext D _ _ _ | .vdiv D _ _ _ => !D.isLatch
  | .vabs D _ _ | .vneg D _ _ | .vnot D _ _ | .vsel D _ _ _ | .vredsum D _ _ | .vredmax D _ _ | .vredmin D _ _
  | .vamax D _ _ | .vbcast D _ _ _ | .vshuf D _ _ _ | .vslide D _ _ _ | .vscan D _ _ | .vmov D _ _ | .vsfu D _ _ _ =>
    !D.isLatch
  | .vcmp _ pd _ _ _ => pd != 0
  | .pand pd _ _ _ | .por pd _ _ _ | .pxor pd _ _ _ | .pnot pd _ _ => pd != 0
  | .vcvt D _ tgt _ _ _ => !D.isLatch && tgt != .EMPTY
  | .vwid D _ tgt _ _ _ => D.isTile && tgt != .EMPTY
  | .vnar D A tgt _ _ _ => !D.isLatch && A.isTile && tgt != .EMPTY
  | .vquant D A _ => !D.isLatch && A.isTile
  | .vdeq D _ tgt _ _ _ =>
    match vdeqBits tgt with
    | none => false
    | some b => if b = 8 then !D.isLatch else D.isTile
  | .vsettag D _ tag _ => !D.isLatch && tag != .EMPTY
  | .vsplat D tag _ _ => !D.isLatch && tag != .EMPTY && tag != .BX4
  | .mmul A _ _ _ => !A.isLatch
  | .mwld _ mask geom wfmt => mask != 0 && !(geom == 3 && wfmt == .w4)
  | .mswap mask => mask != 0
  | .mwinv mask => mask != 0
  | .mdrain _ _ ofmt amx => !(amx.isSome && ofmt.isBnd)
  | .mdrains _ _ ofmt amx glob col => !(amx.isSome && ofmt.isBnd) && !(glob && col) && !(!glob && col && ofmt.isBx4)
  | .mcommit D _ _ => !D.isLatch
  | .ldl row _ _ _ => !row.isLatch
  | .ldr row _ _ _ _ => !row.isLatch
  | .ldsh row _ _ _ => !row.isLatch
  | .ldg row _ land _ _ => !row.isLatch && land != 0
  | .ldsg _ _ _ _ land => land != 0
  | .aadd w sd _ _ _ _ tr | .amax w sd _ _ _ _ tr | .amin w sd _ _ _ _ tr | .amaxn w sd _ _ _ _ tr
  | .aminn w sd _ _ _ _ tr | .aand w sd _ _ _ _ tr | .aor w sd _ _ _ _ tr | .axor w sd _ _ _ _ tr
  | .axchg w sd _ _ _ _ tr => wfAtomic w sd tr
  | .acas w sd _ sb _ _ tr => if w = .w128 then evenReg sd && evenReg sb && !tr else !(tr && sd == 31)
  | .afadd sd _ _ _ _ tr | .afmax sd _ _ _ _ tr | .aamax sd _ _ _ _ tr => !(tr && sd == 31)
  | .ald w sd _ _ ord tr => wfAtomic w sd tr && (ord == .rlx || ord == .acq)
  | .ast w _ _ _ ord _ => w != .w128 && (ord == .rlx || ord == .rel)
  | .wadd w _ _ _ _ | .wmax w _ _ _ _ => w != .w128
  | .cnput sn _ _ land => wfName sn land
  | .cnlook sn _ _ land => wfName sn land
  | .cnhash sn _ _ land => wfName sn land
  | .cnget sn row _ land => wfName sn land && row.isReg
  | .cnref sn => namePair sn
  | .cndrop sn => namePair sn
  | .cnswap sd _ sb _ => namePair sd && namePair sb
  | .cnout _ _ sdesc _ => evenReg sdesc
  | .xsel row _ _ _ => row.isReg
  | .flushms _ sc => sc == .die || sc == .module
  | .invl _ sc => sc != .core
  | .loop _ _ len => len != 0
  | .loops _ _ len => len != 0
  | _ => true

end Sys2Proof
end

