-- ==== Sys2Proof/Decode.lean ====
section
/-! DEFINITION. Decode.lean: from the words of a bundle to instructions, total on every word, and the encoder, both
written from the formats R110 to R115 and the opcodes R116 to R120 of spec 06. -/

namespace Sys2Proof

/-- The slots of a bundle by kind (spec 06, R96); V0 and V1, and C0 and C1, decode alike. -/
inductive Slot
  | H | S | V | M | C | A
  deriving DecidableEq, Repr

/-- Why a word is no instruction: the three causes of R121 that the word alone decides. -/
inductive BadWord
  /-- Cause 0x01, illegal bundle (a header word). -/
  | bundle
  /-- Cause 0x02, illegal instruction. -/
  | illegal
  /-- Cause 0x03, illegal operand. -/
  | operand
  deriving DecidableEq, Repr

/-- What decoding a word answers. -/
abbrev Dec := Except BadWord Instr

/-- Field of `len` bits from bit `lo` of a word. -/
def fld (w lo len : Nat) : Nat := w / 2 ^ lo % 2 ^ len

/-- The same field as a bit vector. -/
def bvf (n w lo : Nat) : BitVec n := BitVec.ofNat n (w / 2 ^ lo)

/-- One-bit field as a Bool. -/
def bitf (w lo : Nat) : Bool := w / 2 ^ lo % 2 == 1

/-- A condition on a word, with the cause of its failure. -/
def need (b : Bool) (e : BadWord) : Except BadWord Unit := if b then .ok () else .error e

/-- A field value that may be reserved. -/
def some? {α : Type} (o : Option α) (e : BadWord) : Except BadWord α :=
  match o with
  | some x => .ok x
  | none => .error e

/-! ## Field values (R108 to R115) -/

def decWidth : Nat → Option Width
  | 0 => some .d64
  | 1 => some .s32
  | 2 => some .z32
  | _ => none

def encWidth : Width → Nat
  | .d64 => 0
  | .s32 => 1
  | .z32 => 2

def decRMode : Nat → Option RMode
  | 0 => some .rne
  | 1 => some .rz
  | 2 => some .ru
  | 3 => some .rd
  | 4 => some .rna
  | 5 => some .sr
  | _ => none

def encRMode : RMode → Nat
  | .rne => 0
  | .rz => 1
  | .ru => 2
  | .rd => 3
  | .rna => 4
  | .sr => 5

def decBrCond : Nat → Option BrCond
  | 0 => some .eqz
  | 1 => some .nez
  | 2 => some .ltz
  | 3 => some .gez
  | 4 => some .gtz
  | 5 => some .lez
  | 6 => some .bit0
  | 7 => some .nbit0
  | _ => none

def encBrCond : BrCond → Nat
  | .eqz => 0
  | .nez => 1
  | .ltz => 2
  | .gez => 3
  | .gtz => 4
  | .lez => 5
  | .bit0 => 6
  | .nbit0 => 7

def decFCond : Nat → Option FCond
  | 0 => some .eq
  | 1 => some .ne
  | 2 => some .lt
  | 3 => some .le
  | 4 => some .gt
  | 5 => some .ge
  | 6 => some .un
  | 7 => some .ord
  | _ => none

def encFCond : FCond → Nat
  | .eq => 0
  | .ne => 1
  | .lt => 2
  | .le => 3
  | .gt => 4
  | .ge => 5
  | .un => 6
  | .ord => 7

def decFcvtKind : Nat → Option FcvtKind
  | 0 => some .ftoi64
  | 1 => some .fton64
  | 2 => some .i64tof
  | 3 => some .n64tof
  | 4 => some .ftoi32
  | 5 => some .fton32
  | 6 => some .frint
  | 7 => some .i32tof
  | _ => none

def encFcvtKind : FcvtKind → Nat
  | .ftoi64 => 0
  | .fton64 => 1
  | .i64tof => 2
  | .n64tof => 3
  | .ftoi32 => 4
  | .fton32 => 5
  | .frint => 6
  | .i32tof => 7

def decGroup : Nat → Option Group
  | 0 => some .gang
  | 1 => some .cluster
  | 2 => some .strip
  | _ => none

def encGroup : Group → Nat
  | .gang => 0
  | .cluster => 1
  | .strip => 2

def decShuffle : Nat → Option Shuffle
  | 0 => some .rev
  | 1 => some .unzip
  | 2 => some .zip
  | 3 => some .swap
  | _ => none

def encShuffle : Shuffle → Nat
  | .rev => 0
  | .unzip => 1
  | .zip => 2
  | .swap => 3

def decSfuFn : Nat → Option SfuFn
  | 0 => some .exp
  | 1 => some .exp2
  | 2 => some .log
  | 3 => some .log2
  | 4 => some .rcp
  | 5 => some .rsqrt
  | 6 => some .sqrt
  | 7 => some .sin
  | 8 => some .cos
  | 9 => some .tanh
  | 10 => some .sigmoid
  | 11 => some .gelu
  | 12 => some .erf
  | 13 => some .silu
  | _ => none

def encSfuFn : SfuFn → Nat
  | .exp => 0
  | .exp2 => 1
  | .log => 2
  | .log2 => 3
  | .rcp => 4
  | .rsqrt => 5
  | .sqrt => 6
  | .sin => 7
  | .cos => 8
  | .tanh => 9
  | .sigmoid => 10
  | .gelu => 11
  | .erf => 12
  | .silu => 13

def decAccMode : Nat → Option AccMode
  | 0 => some .ovr
  | 1 => some .acc
  | 2 => some .accb
  | _ => none

def encAccMode : AccMode → Nat
  | .ovr => 0
  | .acc => 1
  | .accb => 2

def decWFmt : Nat → Option WFmt
  | 0 => some .w8
  | 1 => some .w4
  | 2 => some .w16
  | 3 => some .wbx4
  | _ => none

def encWFmt : WFmt → Nat
  | .w8 => 0
  | .w4 => 1
  | .w16 => 2
  | .wbx4 => 3

def decDrainFmt : Nat → Option DrainFmt
  | 0 => some .f128
  | 1 => some .f256
  | 2 => some .f512
  | 3 => some .f1024
  | 4 => some .bf256
  | 5 => some .bf512
  | 6 => some .bf1024
  | 7 => some .e512
  | 8 => some .e1024
  | 9 => some .bx512
  | 10 => some .bx1024
  | 11 => some .bnd128
  | 12 => some .bnd256
  | 13 => some .bnd512
  | 14 => some .bnd1024
  | _ => none

def encDrainFmt : DrainFmt → Nat
  | .f128 => 0
  | .f256 => 1
  | .f512 => 2
  | .f1024 => 3
  | .bf256 => 4
  | .bf512 => 5
  | .bf1024 => 6
  | .e512 => 7
  | .e1024 => 8
  | .bx512 => 9
  | .bx1024 => 10
  | .bnd128 => 11
  | .bnd256 => 12
  | .bnd512 => 13
  | .bnd1024 => 14

def decRowWidth : Nat → Option RowWidth
  | 0 => some .w512
  | 1 => some .w256
  | 2 => some .w128
  | 3 => some .w64
  | 4 => some .w32
  | _ => none

def encRowWidth : RowWidth → Nat
  | .w512 => 0
  | .w256 => 1
  | .w128 => 2
  | .w64 => 3
  | .w32 => 4

/-- Width codes of a column access (R218): 100 for one byte, 011 for two, 010 for four. -/
def decElemSize : Nat → Option ElemSize
  | 4 => some .e1
  | 3 => some .e2
  | 2 => some .e4
  | _ => none

def encElemSize : ElemSize → Nat
  | .e1 => 4
  | .e2 => 3
  | .e4 => 2

/-- ORI and WC together (R217, R218). -/
def decShape (ori : Bool) (wc : Nat) : Option RowShape :=
  if ori then (decElemSize wc).map .col else (decRowWidth wc).map .row

def encOri : RowShape → Nat
  | .row _ => 0
  | .col _ => 1

def encWc : RowShape → Nat
  | .row w => encRowWidth w
  | .col e => encElemSize e

def decGlobWidth : Nat → Option GlobWidth
  | 0 => some .w512
  | 1 => some .w128
  | 2 => some .w32
  | 3 => some .w8
  | _ => none

def encGlobWidth : GlobWidth → Nat
  | .w512 => 0
  | .w128 => 1
  | .w32 => 2
  | .w8 => 3

def decSize : Nat → Option Size
  | 0 => some .b1
  | 1 => some .b2
  | 2 => some .b4
  | 3 => some .b8
  | _ => none

def encSize : Size → Nat
  | .b1 => 0
  | .b2 => 1
  | .b4 => 2
  | .b8 => 3

def decAWidth : Nat → Option AWidth
  | 0 => some .w32
  | 1 => some .w64
  | 2 => some .w128
  | _ => none

def encAWidth : AWidth → Nat
  | .w32 => 0
  | .w64 => 1
  | .w128 => 2

def decScope : Nat → Option Scope
  | 0 => some .core
  | 1 => some .cluster
  | 2 => some .die
  | 3 => some .module
  | 4 => some .domain
  | _ => none

def encScope : Scope → Nat
  | .core => 0
  | .cluster => 1
  | .die => 2
  | .module => 3
  | .domain => 4

def decOrd : Nat → Option Ord
  | 0 => some .rlx
  | 1 => some .acq
  | 2 => some .rel
  | 3 => some .ar
  | _ => none

def encOrd : Ord → Nat
  | .rlx => 0
  | .acq => 1
  | .rel => 2
  | .ar => 3

/-- The tag of a 4-bit code (R26); 15 is reserved. -/
def decTag : Nat → Option Tag
  | 0 => some .EMPTY
  | 1 => some .I8
  | 2 => some .N8
  | 3 => some .I16
  | 4 => some .N16
  | 5 => some .I32
  | 6 => some .N32
  | 7 => some .FP32
  | 8 => some .BF16
  | 9 => some .FP16
  | 10 => some .E4M3
  | 11 => some .E5M2
  | 12 => some .E2M1
  | 13 => some .BX4
  | 14 => some .I4
  | _ => none

def encTag : Tag → Nat
  | .EMPTY => 0
  | .I8 => 1
  | .N8 => 2
  | .I16 => 3
  | .N16 => 4
  | .I32 => 5
  | .N32 => 6
  | .FP32 => 7
  | .BF16 => 8
  | .FP16 => 9
  | .E4M3 => 10
  | .E5M2 => 11
  | .E2M1 => 12
  | .BX4 => 13
  | .I4 => 14

def decLatch : Nat → Option Latch
  | 0 => some .LV0
  | 1 => some .LV1
  | 2 => some .LC0
  | 3 => some .LC1
  | 4 => some .LM
  | 5 => some .LS
  | _ => none

def encLatch : Latch → Nat
  | .LV0 => 0
  | .LV1 => 1
  | .LC0 => 2
  | .LC1 => 3
  | .LM => 4
  | .LS => 5

/-- The row-operand field (R108). -/
def decRow (f : Nat) : Option RowOp :=
  if f / 128 % 2 = 1 then some (.t (bvf 7 f 0))
  else if f / 64 % 2 = 1 then some (.tl (bvf 4 f 2) (bvf 2 f 0))
  else if f / 8 = 0 then some (.o (bvf 3 f 0))
  else if f / 8 = 1 then some (.q (bvf 3 f 0))
  else if f / 8 = 2 then (decLatch (f % 8)).map .latch
  else none

def encRow : RowOp → Nat
  | .t r => 128 + r.toNat
  | .tl t l => 64 + 4 * t.toNat + l.toNat
  | .o n => n.toNat
  | .q n => 8 + n.toNat
  | .latch l => 16 + encLatch l

/-- A row-operand field used as a source. -/
def rowSrc (w lo : Nat) : Except BadWord RowOp := some? (decRow (fld w lo 8)) .operand

/-- A row-operand field used as a destination: no latch (R109). -/
def rowDst (w lo : Nat) : Except BadWord RowOp := do
  let r ← rowSrc w lo
  need (!r.isLatch) .operand
  pure r

/-! ## Scalar words (R110, R116) -/

def decRRW (k : Width → BitVec 5 → BitVec 5 → BitVec 5 → Instr) (w : Nat) : Dec := do
  need (fld w 2 8 == 0) .illegal
  let wd ← some? (decWidth (fld w 0 2)) .illegal
  pure (k wd (bvf 5 w 20) (bvf 5 w 15) (bvf 5 w 10))

def decUnW (k : Width → BitVec 5 → BitVec 5 → Instr) (w : Nat) : Dec := do
  need (fld w 2 13 == 0) .illegal
  let wd ← some? (decWidth (fld w 0 2)) .illegal
  pure (k wd (bvf 5 w 20) (bvf 5 w 15))

def decSI (k : BitVec 5 → BitVec 5 → BitVec 15 → Instr) (w : Nat) : Dec :=
  pure (k (bvf 5 w 20) (bvf 5 w 15) (bvf 15 w 0))

def decSISh (k : BitVec 5 → BitVec 5 → BitVec 6 → Instr) (w : Nat) : Dec := do
  need (fld w 6 9 == 0) .illegal
  pure (k (bvf 5 w 20) (bvf 5 w 15) (bvf 6 w 0))

def decSU (k : BitVec 5 → BitVec 20 → Instr) (w : Nat) : Dec := pure (k (bvf 5 w 20) (bvf 20 w 0))

/-- S-R with d, a, b and no fn bits. -/
def decRRR (k : BitVec 5 → BitVec 5 → BitVec 5 → Instr) (w : Nat) : Dec := do
  need (fld w 0 10 == 0) .illegal
  pure (k (bvf 5 w 20) (bvf 5 w 15) (bvf 5 w 10))

def decRR (k : BitVec 5 → BitVec 5 → Instr) (w : Nat) : Dec := do
  need (fld w 0 15 == 0) .illegal
  pure (k (bvf 5 w 20) (bvf 5 w 15))

def decRd (k : BitVec 5 → Instr) (w : Nat) : Dec := do
  need (fld w 0 20 == 0) .illegal
  pure (k (bvf 5 w 20))

/-- Words with every field zero. -/
def decNone (opLen : Nat) (i : Instr) (w : Nat) : Dec := do
  need (fld w 0 (32 - opLen) == 0) .illegal
  pure i

def decFp (k : RMode → BitVec 5 → BitVec 5 → BitVec 5 → Instr) (w : Nat) : Dec := do
  need (fld w 0 2 == 0 && fld w 5 5 == 0) .illegal
  let rm ← some? (decRMode (fld w 2 3)) .illegal
  pure (k rm (bvf 5 w 20) (bvf 5 w 15) (bvf 5 w 10))

def decFcmp (w : Nat) : Dec := do
  need (fld w 0 2 == 0 && fld w 5 5 == 0) .illegal
  let c ← some? (decFCond (fld w 2 3)) .illegal
  pure (.fcmp c (bvf 5 w 20) (bvf 5 w 15) (bvf 5 w 10))

def decFcvt (w : Nat) : Dec := do
  need (fld w 0 2 == 0 && fld w 8 7 == 0) .illegal
  let k ← some? (decFcvtKind (fld w 5 3)) .illegal
  let rm ← some? (decRMode (fld w 2 3)) .illegal
  pure (.fcvt k rm (bvf 5 w 20) (bvf 5 w 15))

def decBr (w : Nat) : Dec := do
  let c ← some? (decBrCond (fld w 21 4)) .illegal
  pure (.br c (bvf 5 w 16) (bvf 16 w 0))

/-- GETC: the hardware queues are rows of their own. -/
def decGetc (w : Nat) : Dec := do
  need (fld w 0 8 == 0) .illegal
  let d := bvf 5 w 20
  let c := fld w 8 12
  pure (if c = 0xF00 then .getcQhost d else if c = 0xF01 then .getcQserai d else if c = 0xF02 then .getcQmsg d
    else if c = 0xF03 then .getcQerr d else .getc d (bvf 12 w 8))

/-- SETC: the hardware queues, CTL.CLIP, CTL.OPLIMIT and CTL.CNPOOLBASE are rows of their own. -/
def decSetc (w : Nat) : Dec := do
  need (fld w 0 8 == 0) .illegal
  let a := bvf 5 w 20
  let c := fld w 8 12
  pure (if c = 0xF00 then .setcQhost a else if c = 0xF01 then .setcQserai a else if c = 0xF02 then .setcQmsg a
    else if c = 0xF03 then .setcQerr a else if c = 0x020 then .setcClip a else if c = 0x470 then .setcOplimit a
    else if c = 0x420 then .cnpoolEnable a else .setc a (bvf 12 w 8))

def decTrap (w : Nat) : Dec := do
  need (fld w 8 17 == 0) .illegal
  pure (.trap (bvf 8 w 0))

def decBrk (w : Nat) : Dec := do
  need (fld w 0 2 == 0 && fld w 10 15 == 0) .illegal
  pure (.brk (bvf 8 w 2))

/-- SLOTQ and WHO, with the selectors that their descriptions define (R172, R173). -/
def decSel (bound : Nat) (k : BitVec 5 → BitVec 8 → Instr) (w : Nat) : Dec := do
  need (fld w 8 12 == 0 && decide (fld w 0 8 < bound)) .illegal
  pure (k (bvf 5 w 20) (bvf 8 w 0))

def decPwracq (w : Nat) : Dec := do
  need (fld w 0 15 == 0 && fld w 20 5 == 0) .illegal
  pure (.pwracq (bvf 5 w 15))

def decSignal (w : Nat) : Dec := do
  need (fld w 0 10 == 0 && fld w 20 5 == 0) .illegal
  pure (.signal (bvf 5 w 15) (bvf 5 w 10))

/-- The scalar opcodes (R116). -/
def scalarOps : List (Nat × (Nat → Dec)) :=
  [(0x00, decNone 7 .nop),
   (0x01, decRRW .add), (0x02, decRRW .sub), (0x03, decRRW .and), (0x04, decRRW .or), (0x05, decRRW .xor),
   (0x06, decRRW .shl), (0x07, decRRW .shr), (0x08, decRRW .sar), (0x09, decRRW .mul), (0x0A, decRRW .mulhi),
   (0x0B, decRRW .mulhn), (0x0C, decRRW .div), (0x0D, decRRW .divn), (0x0E, decRRW .rem), (0x0F, decRRW .remn),
   (0x10, decRRW .min), (0x11, decRRW .max), (0x12, decRRW .minn), (0x13, decRRW .maxn), (0x14, decRRW .slt),
   (0x15, decRRW .sltn), (0x16, decRRW .seq), (0x17, decRRW .sel), (0x18, decUnW .clz), (0x19, decUnW .popc),
   (0x1A, decUnW .ctz), (0x1B, decRRW .rotl), (0x1C, decUnW .bswap), (0x1D, decRRW .exts), (0x1E, decRRW .extz)] ++
  [(0x20, decSI .addi), (0x21, decSI .andi), (0x22, decSI .ori), (0x23, decSI .xori), (0x24, decSISh .shli),
   (0x25, decSISh .shri), (0x26, decSISh .sari), (0x27, decSI .slti), (0x28, decSI .sltni), (0x29, decSI .muli),
   (0x2A, decSU .li), (0x2B, decSU .lis), (0x30, decBr),
   (0x31, fun w => pure (.jmp (bvf 25 w 0))), (0x32, fun w => pure (.call (bvf 25 w 0))),
   (0x33, decRR .jmpr), (0x34, decNone 7 .ret),
   (0x38, decFp .fadd), (0x39, decFp .fsub), (0x3A, decFp .fmul), (0x3B, decFp .ffma), (0x3C, decRRR .fmin),
   (0x3D, decRRR .fmax), (0x3E, decFcmp), (0x3F, decFcvt)] ++
  [(0x40, decGetc), (0x41, decSetc), (0x42, decTrap), (0x43, decNone 7 .eret), (0x44, decRRR .sleep),
   (0x45, decRd .time), (0x46, decRd .cycle), (0x47, decNone 7 .halt), (0x48, decBrk), (0x49, decSel 5 .slotq),
   (0x4A, decSel 9 .who), (0x50, decPwracq), (0x51, decNone 7 .pwrrel), (0x52, decRd .pwrq), (0x58, decRR .spawn),
   (0x59, decRRR .cancel), (0x5A, decRRR .nodest), (0x5B, decSignal)]

/-! ## Vector words (R111, R117, R194) -/

def decV3 (k : RowOp → RowOp → RowOp → BitVec 2 → Instr) (w : Nat) : Dec := do
  let D ← rowDst w 18
  let A ← rowSrc w 10
  let B ← rowSrc w 2
  pure (k D A B (bvf 2 w 0))

def decV2 (k : RowOp → RowOp → BitVec 2 → Instr) (w : Nat) : Dec := do
  need (fld w 2 8 == 0) .illegal
  let D ← rowDst w 18
  let A ← rowSrc w 10
  pure (k D A (bvf 2 w 0))

/-- A destination row, a source row and an 8-bit modifier. -/
def decVM (k : RowOp → RowOp → BitVec 8 → BitVec 2 → Instr) (w : Nat) : Dec := do
  let D ← rowDst w 18
  let A ← rowSrc w 10
  pure (k D A (bvf 8 w 2) (bvf 2 w 0))

def decVcmp (w : Nat) : Dec := do
  need (fld w 20 3 == 0) .illegal
  let c ← some? (decFCond (fld w 23 3)) .illegal
  need (fld w 18 2 != 0) .operand
  let A ← rowSrc w 10
  let B ← rowSrc w 2
  pure (.vcmp c (bvf 2 w 18) A B (bvf 2 w 0))

def decVsel (w : Nat) : Dec := do
  need (fld w 4 6 == 0) .illegal
  let D ← rowDst w 18
  let A ← rowSrc w 10
  pure (.vsel D A (bvf 2 w 2) (bvf 2 w 0))

def decP3 (k : BitVec 2 → BitVec 2 → BitVec 2 → BitVec 2 → Instr) (w : Nat) : Dec := do
  need (fld w 20 6 == 0 && fld w 12 6 == 0 && fld w 4 6 == 0) .illegal
  need (fld w 18 2 != 0) .operand
  pure (k (bvf 2 w 18) (bvf 2 w 10) (bvf 2 w 2) (bvf 2 w 0))

def decPnot (w : Nat) : Dec := do
  need (fld w 20 6 == 0 && fld w 12 6 == 0 && fld w 2 8 == 0) .illegal
  need (fld w 18 2 != 0) .operand
  pure (.pnot (bvf 2 w 18) (bvf 2 w 10) (bvf 2 w 0))

/-- Tags 0 and 15 of a tag field are illegal operands (R27, R201, R203). -/
def decTgt (f : Nat) : Except BadWord Tag := do
  let t ← some? (decTag f) .operand
  need (t != .EMPTY) .operand
  pure t

/-- The conversions, with the conversion modifier in B (R201); `grpD` and `grpA` name the operands that are groups. -/
def decConv (grpD grpA : Bool) (k : RowOp → RowOp → Tag → RMode → Bool → BitVec 2 → Instr) (w : Nat) : Dec := do
  let rm ← some? (decRMode (fld w 3 3)) .illegal
  let D ← rowDst w 18
  let A ← rowSrc w 10
  let tgt ← decTgt (fld w 6 4)
  need ((!grpD || D.isTile) && (!grpA || A.isTile)) .operand
  pure (k D A tgt rm (bitf w 2) (bvf 2 w 0))

def decVdeq (w : Nat) : Dec := do
  let rm ← some? (decRMode (fld w 3 3)) .illegal
  let D ← rowDst w 18
  let A ← rowSrc w 10
  let tgt ← decTgt (fld w 6 4)
  let bits ← some? (vdeqBits tgt) .operand
  need (if bits = 8 then true else D.isTile) .operand
  pure (.vdeq D A tgt rm (bitf w 2) (bvf 2 w 0))

def decVquant (w : Nat) : Dec := do
  need (fld w 0 2 == 0) .illegal
  let D ← rowDst w 18
  let A ← rowSrc w 10
  let B ← rowSrc w 2
  need A.isTile .operand
  pure (.vquant D A B)

def decVsettag (w : Nat) : Dec := do
  need (fld w 6 4 == 0) .illegal
  let D ← rowDst w 18
  let A ← rowSrc w 10
  let tag ← decTgt (fld w 2 4)
  pure (.vsettag D A tag (bvf 2 w 0))

def decVsplat (w : Nat) : Dec := do
  need (fld w 14 4 == 0) .illegal
  let D ← rowDst w 18
  let tag ← decTgt (fld w 10 4)
  need (tag != .BX4) .operand
  pure (.vsplat D tag (bvf 8 w 2) (bvf 2 w 0))

def decVshuf (w : Nat) : Dec := do
  need (fld w 5 5 == 0) .illegal
  let k ← some? (decShuffle (fld w 2 3)) .illegal
  let D ← rowDst w 18
  let A ← rowSrc w 10
  pure (.vshuf D A k (bvf 2 w 0))

def decVsfu (w : Nat) : Dec := do
  let f ← some? (decSfuFn (fld w 2 8)) .illegal
  let D ← rowDst w 18
  let A ← rowSrc w 10
  pure (.vsfu D A f (bvf 2 w 0))

/-- The vector opcodes (R117). -/
def vectorOps : List (Nat × (Nat → Dec)) :=
  [(0x00, decNone 6 .vnop), (0x01, decV3 .vadd), (0x02, decV3 .vsub), (0x03, decV3 .vmul), (0x04, decV3 .vfma),
   (0x05, decV3 .vmin), (0x06, decV3 .vmax), (0x07, decV2 .vabs), (0x08, decV2 .vneg), (0x09, decV3 .vadds),
   (0x0A, decV3 .vsubs), (0x0B, decV3 .vmulh), (0x10, decV3 .vand), (0x11, decV3 .vor), (0x12, decV3 .vxor),
   (0x13, decV2 .vnot), (0x14, decV3 .vshl), (0x15, decV3 .vshr), (0x16, decV3 .vsar), (0x18, decVcmp),
   (0x19, decVsel), (0x1A, decP3 .pand), (0x1B, decP3 .por), (0x1C, decP3 .pxor), (0x1D, decPnot)] ++
  [(0x20, decConv false false .vcvt), (0x21, decConv true false .vwid), (0x22, decConv false true .vnar),
   (0x23, decVquant), (0x24, decVdeq), (0x25, decVsettag), (0x28, decV2 .vredsum), (0x29, decV2 .vredmax),
   (0x2A, decV2 .vredmin), (0x2B, decV2 .vamax), (0x2C, decVM .vbcast), (0x2D, decV3 .vperm), (0x2E, decVshuf),
   (0x2F, decVM .vslide), (0x30, decV2 .vscan), (0x31, decV2 .vmov), (0x32, decVsplat), (0x33, decV3 .vext),
   (0x38, decVsfu), (0x39, decV3 .vdiv)]

/-! ## Matrix words (R112, R118, R309) -/

def decMmul (w : Nat) : Dec := do
  need (fld w 0 8 == 0) .illegal
  let m ← some? (decAccMode (fld w 8 2)) .illegal
  let A ← rowDst w 18
  pure (.mmul A (bvf 5 w 13) (bvf 3 w 10) m)

def decMmuls (w : Nat) : Dec := do
  need (fld w 0 8 == 0) .illegal
  let m ← some? (decAccMode (fld w 8 2)) .illegal
  pure (.mmuls (bvf 4 w 22) (bvf 3 w 19) (bitf w 18) (bvf 5 w 13) (bvf 3 w 10) m)

def decMwld (w : Nat) : Dec := do
  need (fld w 0 8 == 0) .illegal
  let f ← some? (decWFmt (fld w 8 3)) .illegal
  need (decide (fld w 11 3 < 4)) .illegal
  need (fld w 14 8 != 0 && !(fld w 11 3 == 3 && f == .w4)) .illegal
  pure (.mwld (bvf 4 w 22) (bvf 8 w 14) (bvf 2 w 11) f)

def decMM (k : BitVec 8 → Instr) (w : Nat) : Dec := do
  need (fld w 0 18 == 0 && fld w 18 8 != 0) .illegal
  pure (k (bvf 8 w 18))

/-- AMX, its address register and its scope (R309): all zero, or AMX = 1 with a legal scope. -/
def decAmx (amx : Bool) (a : BitVec 4) (sc : Nat) : Except BadWord (Option (BitVec 4 × Scope)) :=
  if amx then do
    let s ← some? (decScope sc) .illegal
    pure (some (a, s))
  else do
    need (a == 0 && sc == 0) .illegal
    pure none

def decMdrain (w : Nat) : Dec := do
  need (fld w 0 5 == 0) .illegal
  let f ← some? (decDrainFmt (fld w 13 4)) .illegal
  let x ← decAmx (bitf w 12) (bvf 4 w 8) (fld w 5 3)
  need (!(x.isSome && f.isBnd)) .illegal
  pure (.mdrain (bvf 5 w 21) (bvf 4 w 17) f x)

def decMdrains (w : Nat) : Dec := do
  need (fld w 0 3 == 0) .illegal
  let f ← some? (decDrainFmt (fld w 13 4)) .illegal
  let x ← decAmx (bitf w 12) (bvf 4 w 8) (fld w 5 3)
  need (!(x.isSome && f.isBnd)) .illegal
  need (!(bitf w 3 && bitf w 4) && !(!bitf w 3 && bitf w 4 && f.isBx4)) .illegal
  pure (.mdrains (bvf 5 w 21) (bvf 4 w 17) f x (bitf w 3) (bitf w 4))

def decMcommit (w : Nat) : Dec := do
  need (fld w 0 9 == 0) .illegal
  let D ← rowDst w 18
  pure (.mcommit D (bvf 4 w 14) (bvf 5 w 9))

def decMlease (w : Nat) : Dec := do
  need (fld w 0 20 == 0) .illegal
  pure (.mlease (bvf 6 w 20))

def decMclip (w : Nat) : Dec := do
  need (fld w 0 21 == 0) .illegal
  pure (.mclip (bvf 5 w 21))

/-- The matrix opcodes (R118). -/
def matrixOps : List (Nat × (Nat → Dec)) :=
  [(0x00, decNone 6 .mnop), (0x01, decMmul), (0x02, decMmuls), (0x04, decMwld), (0x05, decMM .mswap),
   (0x06, decNone 6 .mzero), (0x07, decMM .mwinv), (0x08, decMdrain), (0x09, decMdrains), (0x0A, decMcommit),
   (0x0C, decMlease), (0x0D, decNone 6 .munlease), (0x0E, decMclip)]

/-! ## Copy words (R113, R114, R119) -/

def decLocal (dst : Bool) (k : RowOp → BitVec 4 → RowShape → BitVec 9 → Instr) (w : Nat) : Dec := do
  let s ← some? (decShape (bitf w 12) (fld w 9 3)) .illegal
  let r ← if dst then rowDst w 17 else rowSrc w 17
  pure (k r (bvf 4 w 13) s (bvf 9 w 0))

def decShared (dst : Bool) (k : RowOp → BitVec 4 → RowWidth → BitVec 9 → Instr) (w : Nat) : Dec := do
  need (!bitf w 12) .illegal
  let s ← some? (decRowWidth (fld w 9 3)) .illegal
  let r ← if dst then rowDst w 17 else rowSrc w 17
  pure (k r (bvf 4 w 13) s (bvf 9 w 0))

def decLdr (w : Nat) : Dec := do
  let s ← some? (decShape (bitf w 12) (fld w 9 3)) .illegal
  let r ← rowDst w 17
  pure (.ldr r (bvf 4 w 13) s (bvf 3 w 6) (bvf 6 w 0))

def decLds (w : Nat) : Dec := do
  let z ← some? (decSize (fld w 12 2)) .illegal
  pure (.lds (bvf 5 w 20) (bvf 5 w 15) (bitf w 14) z (bvf 12 w 0))

def decSts (w : Nat) : Dec := do
  need (!bitf w 14) .illegal
  let z ← some? (decSize (fld w 12 2)) .illegal
  pure (.sts (bvf 5 w 20) (bvf 5 w 15) z (bvf 12 w 0))

def decLdg (w : Nat) : Dec := do
  need (fld w 3 10 != 0) .illegal
  let g ← some? (decGlobWidth (fld w 1 2)) .illegal
  let r ← rowDst w 17
  pure (.ldg r (bvf 4 w 13) (bvf 10 w 3) g (bitf w 0))

def decStg (w : Nat) : Dec := do
  need (fld w 3 10 == 0 && !bitf w 0) .illegal
  let g ← some? (decGlobWidth (fld w 1 2)) .illegal
  let r ← rowSrc w 17
  pure (.stg r (bvf 4 w 13) g)

def decLdsg (w : Nat) : Dec := do
  need (fld w 0 2 == 0 && fld w 2 10 != 0) .illegal
  let z ← some? (decSize (fld w 12 2)) .illegal
  pure (.ldsg (bvf 5 w 20) (bvf 5 w 15) (bitf w 14) z (bvf 10 w 2))

def decStsg (w : Nat) : Dec := do
  need (fld w 0 12 == 0 && !bitf w 14) .illegal
  let z ← some? (decSize (fld w 12 2)) .illegal
  pure (.stsg (bvf 5 w 20) (bvf 5 w 15) z)

def decPfg (w : Nat) : Dec := do
  need (fld w 17 8 == 0 && fld w 3 10 == 0) .illegal
  let g ← some? (decGlobWidth (fld w 1 2)) .illegal
  pure (.pfg (bvf 4 w 13) g (bitf w 0))

def decBulk (k : BitVec 4 → BitVec 4 → BitVec 5 → BitVec 4 → RowShape → Instr) (w : Nat) : Dec := do
  need (fld w 0 4 == 0) .illegal
  let s ← some? (decShape (bitf w 7) (fld w 4 3)) .illegal
  pure (k (bvf 4 w 21) (bvf 4 w 17) (bvf 5 w 12) (bvf 4 w 8) s)

def decBulkSh (k : BitVec 4 → BitVec 4 → BitVec 5 → BitVec 4 → RowWidth → Instr) (w : Nat) : Dec := do
  need (fld w 0 4 == 0 && !bitf w 7) .illegal
  let s ← some? (decRowWidth (fld w 4 3)) .illegal
  pure (k (bvf 4 w 21) (bvf 4 w 17) (bvf 5 w 12) (bvf 4 w 8) s)

def decBwait (w : Nat) : Dec := do
  need (fld w 0 8 == 0 && fld w 12 13 == 0) .illegal
  pure (.bwait (bvf 4 w 8))

def decBprom (w : Nat) : Dec := do
  need (fld w 0 8 == 0 && fld w 17 8 == 0) .illegal
  pure (.bprom (bvf 5 w 12) (bvf 4 w 8))

/-- An atomic of C-X that returns a value, at 32 or 64 bits; TR with s31 is an illegal operand (R275). -/
def decAtomic (k : AWidth → BitVec 5 → BitVec 5 → BitVec 5 → Scope → Ord → Bool → Instr) (w : Nat) : Dec := do
  need (fld w 0 2 == 0) .illegal
  let wd ← some? (decAWidth (fld w 8 2)) .illegal
  let sc ← some? (decScope (fld w 5 3)) .illegal
  let o ← some? (decOrd (fld w 3 2)) .illegal
  need (wd != .w128) .illegal
  need (!(bitf w 2 && fld w 20 5 == 31)) .operand
  pure (k wd (bvf 5 w 20) (bvf 5 w 15) (bvf 5 w 10) sc o (bitf w 2))

/-- ACAS, which alone takes 128 bits (R271, R272, R275). -/
def decAcas (w : Nat) : Dec := do
  need (fld w 0 2 == 0) .illegal
  let wd ← some? (decAWidth (fld w 8 2)) .illegal
  let sc ← some? (decScope (fld w 5 3)) .illegal
  let o ← some? (decOrd (fld w 3 2)) .illegal
  need (!(wd == .w128 && bitf w 2)) .illegal
  need (if wd = .w128 then fld w 20 1 == 0 && fld w 10 1 == 0 else !(bitf w 2 && fld w 20 5 == 31)) .operand
  pure (.acas wd (bvf 5 w 20) (bvf 5 w 15) (bvf 5 w 10) sc o (bitf w 2))

/-- The FP32 atomics, at 32 bits only. -/
def decAtomicF (k : BitVec 5 → BitVec 5 → BitVec 5 → Scope → Ord → Bool → Instr) (w : Nat) : Dec := do
  need (fld w 0 2 == 0 && fld w 8 2 == 0) .illegal
  let sc ← some? (decScope (fld w 5 3)) .illegal
  let o ← some? (decOrd (fld w 3 2)) .illegal
  need (!(bitf w 2 && fld w 20 5 == 31)) .operand
  pure (k (bvf 5 w 20) (bvf 5 w 15) (bvf 5 w 10) sc o (bitf w 2))

def decAld (w : Nat) : Dec := do
  need (fld w 0 2 == 0 && fld w 10 5 == 0) .illegal
  let wd ← some? (decAWidth (fld w 8 2)) .illegal
  let sc ← some? (decScope (fld w 5 3)) .illegal
  let o ← some? (decOrd (fld w 3 2)) .illegal
  need (wd != .w128 && (o == .rlx || o == .acq)) .illegal
  need (!(bitf w 2 && fld w 20 5 == 31)) .operand
  pure (.ald wd (bvf 5 w 20) (bvf 5 w 15) sc o (bitf w 2))

def decAst (w : Nat) : Dec := do
  need (fld w 0 2 == 0 && fld w 20 5 == 0) .illegal
  let wd ← some? (decAWidth (fld w 8 2)) .illegal
  let sc ← some? (decScope (fld w 5 3)) .illegal
  let o ← some? (decOrd (fld w 3 2)) .illegal
  need (wd != .w128 && (o == .rlx || o == .rel)) .illegal
  pure (.ast wd (bvf 5 w 15) (bvf 5 w 10) sc o (bitf w 2))

def decFence (w : Nat) : Dec := do
  need (fld w 0 6 == 0) .illegal
  let sc ← some? (decScope (fld w 6 3)) .illegal
  pure (.fence (bvf 8 w 17) (bvf 8 w 9) sc)

/-- A window contribution (R389): ORD 00 or 10, no TR, no sd. -/
def decContrib (k : AWidth → BitVec 5 → BitVec 5 → Scope → Bool → Instr) (wide : Bool) (w : Nat) : Dec := do
  need (fld w 0 4 == 0 && fld w 20 5 == 0) .illegal
  let wd ← some? (decAWidth (fld w 8 2)) .illegal
  let sc ← some? (decScope (fld w 5 3)) .illegal
  need (wd != .w128 && (wide || wd == .w32)) .illegal
  pure (k wd (bvf 5 w 15) (bvf 5 w 10) sc (bitf w 4))

/-- The C-N instructions with a row (R343); `dst` for CNGET. -/
def decName (dst : Bool) (k : BitVec 5 → RowOp → BitVec 2 → BitVec 10 → Instr) (w : Nat) : Dec := do
  need (fld w 0 10 != 0) .illegal
  need (namePair (bvf 5 w 20)) .operand
  let r ← rowSrc w 12
  need (!dst || r.isReg) .operand
  pure (k (bvf 5 w 20) r (bvf 2 w 10) (bvf 10 w 0))

def decNameOnly (k : BitVec 5 → Instr) (w : Nat) : Dec := do
  need (fld w 0 20 == 0) .illegal
  need (namePair (bvf 5 w 20)) .operand
  pure (k (bvf 5 w 20))

def decCnswap (w : Nat) : Dec := do
  need (fld w 0 3 == 0 && fld w 3 2 == 3 && fld w 8 2 == 2) .illegal
  let sc ← some? (decScope (fld w 5 3)) .illegal
  need (namePair (bvf 5 w 20) && namePair (bvf 5 w 10)) .operand
  pure (.cnswap (bvf 5 w 20) (bvf 5 w 15) (bvf 5 w 10) sc)

def decCnout (w : Nat) : Dec := do
  need (fld w 0 8 == 0) .illegal
  need (evenReg (bvf 5 w 12)) .operand
  pure (.cnout (bvf 4 w 21) (bvf 4 w 17) (bvf 5 w 12) (bvf 4 w 8))

def decRoad (dst : Bool) (k : RowOp → BitVec 3 → BitVec 3 → Bool → Instr) (w : Nat) : Dec := do
  need (fld w 0 10 == 0) .illegal
  let r ← rowSrc w 17
  need (!dst || r.isReg) .operand
  pure (k r (bvf 3 w 14) (bvf 3 w 11) (bitf w 10))

/-- FLUSHMS and INVL: sa and SCOPE only, with the scopes that each takes (R282, R283). -/
def decCache (ok : Scope → Bool) (k : BitVec 5 → Scope → Instr) (w : Nat) : Dec := do
  need (fld w 0 5 == 0 && fld w 8 7 == 0 && fld w 20 5 == 0) .illegal
  let sc ← some? (decScope (fld w 5 3)) .illegal
  need (ok sc) .illegal
  pure (k (bvf 5 w 15) sc)

/-- The copy opcodes (R119). -/
def copyOps : List (Nat × (Nat → Dec)) :=
  [(0x00, decNone 7 .cnop), (0x01, decLocal true .ldl), (0x02, decLocal false .stl), (0x03, decLdr),
   (0x04, decShared true .ldsh), (0x05, decShared false .stsh), (0x06, decLds), (0x07, decSts), (0x10, decLdg),
   (0x11, decStg), (0x12, decLdsg), (0x13, decStsg), (0x14, decPfg), (0x18, decBulk .bget), (0x19, decBulk .bput),
   (0x1A, decBulkSh .bgetsh), (0x1B, decBulkSh .bputsh), (0x1C, decBwait), (0x1D, decBprom)] ++
  [(0x20, decAtomic .aadd), (0x21, decAtomic .amax), (0x22, decAtomic .amin), (0x23, decAtomic .amaxn),
   (0x24, decAtomic .aminn), (0x25, decAtomic .aand), (0x26, decAtomic .aor), (0x27, decAtomic .axor),
   (0x28, decAtomic .axchg), (0x29, decAcas), (0x2A, decAtomicF .afadd), (0x2B, decAtomicF .afmax),
   (0x2C, decAtomicF .aamax), (0x2D, decAld), (0x2E, decAst), (0x30, decFence), (0x31, decNone 7 .mark),
   (0x34, decContrib .wadd true), (0x35, decContrib .wmax true), (0x36, decContrib (fun _ => .wfadd) false)] ++
  [(0x38, decName false .cnput), (0x39, decName true .cnget), (0x3A, decNameOnly .cnref), (0x3B, decNameOnly .cndrop),
   (0x3C, decCnswap), (0x3D, decName false .cnlook), (0x3E, decCnout), (0x3F, decName false .cnhash),
   (0x40, decRoad false .xmit), (0x41, decRoad true .xsel),
   (0x48, decCache (fun s => s == .die || s == .module) .flushms), (0x49, decCache (fun s => s != .core) .invl)]

/-! ## Address words (R115, R120) -/

def decLoop (w : Nat) : Dec := do
  need (fld w 0 12 != 0) .illegal
  pure (.loop (bvf 2 w 24) (bvf 12 w 12) (bvf 12 w 0))

def decLoops (w : Nat) : Dec := do
  need (fld w 0 12 != 0 && fld w 12 7 == 0) .illegal
  pure (.loops (bvf 2 w 24) (bvf 5 w 19) (bvf 12 w 0))

def decLbrk (w : Nat) : Dec := do
  need (fld w 0 24 == 0) .illegal
  pure (.lbrk (bvf 2 w 24))

def decAinc (w : Nat) : Dec := do
  need (fld w 0 20 == 0) .illegal
  pure (.ainc (bvf 4 w 22) (bvf 2 w 20))

def decAinc2 (w : Nat) : Dec := do
  need (fld w 0 14 == 0) .illegal
  pure (.ainc2 (bvf 4 w 22) (bvf 2 w 20) (bvf 4 w 16) (bvf 2 w 14))

def decAS (k : BitVec 4 → BitVec 5 → Instr) (w : Nat) : Dec := do
  need (fld w 0 15 == 0 && fld w 20 2 == 0) .illegal
  pure (k (bvf 4 w 22) (bvf 5 w 15))

def decKset (w : Nat) : Dec := do
  need (fld w 0 15 == 0) .illegal
  pure (.kset (bvf 4 w 22) (bvf 2 w 20) (bvf 5 w 15))

def decAmod (w : Nat) : Dec := do
  need (fld w 0 17 == 0) .illegal
  pure (.amod (bvf 4 w 22) (bvf 5 w 17))

def decSbind (w : Nat) : Dec := do
  need (fld w 0 19 == 0) .illegal
  pure (.sbind (bvf 3 w 23) (bvf 4 w 19))

def decSunbind (w : Nat) : Dec := do
  need (fld w 0 23 == 0) .illegal
  pure (.sunbind (bvf 3 w 23))

def decSquery (w : Nat) : Dec := do
  need (fld w 0 18 == 0) .illegal
  pure (.squery (bvf 3 w 23) (bvf 5 w 18))

/-- The address opcodes (R120). -/
def addressOps : List (Nat × (Nat → Dec)) :=
  [(0x00, decNone 6 .anop), (0x01, decLoop), (0x02, decLoops), (0x03, decLbrk), (0x04, decAinc), (0x05, decAinc2),
   (0x06, decAS .aset), (0x07, decAS .aget), (0x08, fun w => pure (.aaddi (bvf 4 w 22) (bvf 22 w 0))),
   (0x09, decAmod), (0x0A, decSbind), (0x0B, decSunbind), (0x0C, decSquery), (0x0D, decKset)]

/-! ## Header words (R100, R101) -/

/-- OV and OP (R100, R107). -/
def decOp (w : Nat) : Except BadWord (Option (BitVec 3)) :=
  if bitf w 23 then .ok (some (bvf 3 w 20)) else if fld w 20 3 = 0 then .ok none else .error .bundle

def decHeader (w : Nat) : Dec := do
  let op ← decOp w
  let np := bvf 5 w 24
  let pop := bvf 8 w 12
  match fld w 29 3 with
  | 0 => do
    need (fld w 0 12 == 0) .bundle
    pure (.normal np op pop)
  | 1 => do
    need (fld w 0 9 == 0) .bundle
    let g ← some? (decGroup (fld w 9 3)) .bundle
    pure (.sync np op pop g)
  | 2 => do
    need (fld w 4 8 != 0 && fld w 0 4 != 0) .bundle
    pure (.lock np op pop (bvf 8 w 4) (bvf 4 w 0))
  | 3 => do
    need (fld w 0 12 == 0) .bundle
    pure (.xph np op pop)
  | _ => .error .bundle

/-- The entry of an opcode table, or an unassigned opcode (R121). -/
def decTable (ops : List (Nat × (Nat → Dec))) (op w : Nat) : Dec :=
  match ops.lookup op with
  | some f => f w
  | none => .error .illegal

/-- The instruction that a word is in a slot (R96): total, refusing with the cause of R121. -/
def decodeSlot (k : Slot) (w : Nat) : Dec :=
  match k with
  | .H => decHeader w
  | .S => decTable scalarOps (fld w 25 7) w
  | .V => decTable vectorOps (fld w 26 6) w
  | .M => decTable matrixOps (fld w 26 6) w
  | .C => decTable copyOps (fld w 25 7) w
  | .A => decTable addressOps (fld w 26 6) w

/-! ## The encoder -/

/-- A bit vector placed at bit `lo`. -/
def at_ {n : Nat} (x : BitVec n) (lo : Nat) : Nat := x.toNat * 2 ^ lo

/-- One bit placed at bit `lo`. -/
def bitAt (b : Bool) (lo : Nat) : Nat := if b then 2 ^ lo else 0

def encSR (op : Nat) (d a b : BitVec 5) (fn : Nat) : Nat := op * 2 ^ 25 + at_ d 20 + at_ a 15 + at_ b 10 + fn

def encRRW (op : Nat) (w : Width) (d a b : BitVec 5) : Nat := encSR op d a b (encWidth w)

def encFp (op : Nat) (rm : RMode) (d a b : BitVec 5) : Nat := encSR op d a b (encRMode rm * 4)

def encSI (op : Nat) (d a : BitVec 5) (imm : BitVec 15) : Nat := op * 2 ^ 25 + at_ d 20 + at_ a 15 + at_ imm 0

def encSC (op : Nat) (da : BitVec 5) (creg : Nat) (imm8 : Nat) : Nat := op * 2 ^ 25 + at_ da 20 + creg * 2 ^ 8 + imm8

def encV (op : Nat) (D A B : Nat) (g : BitVec 2) : Nat := op * 2 ^ 26 + D * 2 ^ 18 + A * 2 ^ 10 + B * 4 + at_ g 0

def encV3 (op : Nat) (D A B : RowOp) (g : BitVec 2) : Nat := encV op (encRow D) (encRow A) (encRow B) g

def encV2 (op : Nat) (D A : RowOp) (g : BitVec 2) : Nat := encV op (encRow D) (encRow A) 0 g

def encConv (op : Nat) (D A : RowOp) (tgt : Tag) (rm : RMode) (sat : Bool) (g : BitVec 2) : Nat :=
  encV op (encRow D) (encRow A) (encTag tgt * 16 + encRMode rm * 2 + bitAt sat 0) g

def encAmx (x : Option (BitVec 4 × Scope)) : Nat :=
  match x with
  | none => 0
  | some (a, sc) => 2 ^ 12 + at_ a 8 + encScope sc * 2 ^ 5

def encCL (op : Nat) (r : RowOp) (a : BitVec 4) (s : RowShape) (low : Nat) : Nat :=
  op * 2 ^ 25 + encRow r * 2 ^ 17 + at_ a 13 + encOri s * 2 ^ 12 + encWc s * 2 ^ 9 + low

def encCB (op : Nat) (ag al : BitVec 4) (sd : BitVec 5) (tag : BitVec 4) (s : Nat) : Nat :=
  op * 2 ^ 25 + at_ ag 21 + at_ al 17 + at_ sd 12 + at_ tag 8 + s

def encCX (op : Nat) (sd sa sb : BitVec 5) (w : Nat) (sc : Scope) (ord : Nat) (tr : Bool) : Nat :=
  op * 2 ^ 25 + at_ sd 20 + at_ sa 15 + at_ sb 10 + w * 2 ^ 8 + encScope sc * 2 ^ 5 + ord * 2 ^ 3 + bitAt tr 2

def encAt (op : Nat) (w : AWidth) (sd sa sb : BitVec 5) (sc : Scope) (o : Ord) (tr : Bool) : Nat :=
  encCX op sd sa sb (encAWidth w) sc (encOrd o) tr

def encCN (op : Nat) (sn : BitVec 5) (r : RowOp) (q : BitVec 2) (land : BitVec 10) : Nat :=
  op * 2 ^ 25 + at_ sn 20 + encRow r * 2 ^ 12 + at_ q 10 + at_ land 0

def encRel (b : Bool) : Nat := if b then 2 else 0

/-- The high bits common to the header kinds (R100). -/
def encH (hk : Nat) (np : BitVec 5) (op : Option (BitVec 3)) (pop : BitVec 8) : Nat :=
  hk * 2 ^ 29 + at_ np 24 + (match op with | none => 0 | some o => 2 ^ 23 + at_ o 20) + at_ pop 12

/-- The slot kind whose words encode the instruction; none for an event of the part. -/
def Instr.slot? : Instr → Option Slot
  | .normal _ _ _ | .sync _ _ _ _ | .lock _ _ _ _ _ | .xph _ _ _ => some .H
  | .nop | .add _ _ _ _ | .sub _ _ _ _ | .and _ _ _ _ | .or _ _ _ _ | .xor _ _ _ _ | .shl _ _ _ _
  | .shr _ _ _ _ | .sar _ _ _ _ | .mul _ _ _ _ | .mulhi _ _ _ _ | .mulhn _ _ _ _ | .div _ _ _ _
  | .divn _ _ _ _ | .rem _ _ _ _ | .remn _ _ _ _ | .min _ _ _ _ | .max _ _ _ _ | .minn _ _ _ _
  | .maxn _ _ _ _ | .slt _ _ _ _ | .sltn _ _ _ _ | .seq _ _ _ _ | .sel _ _ _ _ | .clz _ _ _ | .popc _ _ _
  | .ctz _ _ _ | .rotl _ _ _ _ | .bswap _ _ _ | .exts _ _ _ _ | .extz _ _ _ _ | .addi _ _ _ | .andi _ _ _
  | .ori _ _ _ | .xori _ _ _ | .shli _ _ _ | .shri _ _ _ | .sari _ _ _ | .slti _ _ _ | .sltni _ _ _
  | .muli _ _ _ | .li _ _ | .lis _ _ | .br _ _ _ | .jmp _ | .call _ | .jmpr _ _ | .ret | .fadd _ _ _ _
  | .fsub _ _ _ _ | .fmul _ _ _ _ | .ffma _ _ _ _ | .fmin _ _ _ | .fmax _ _ _ | .fcmp _ _ _ _ | .fcvt _ _ _ _
  | .getc _ _ | .setc _ _ | .getcQhost _ | .getcQserai _ | .getcQmsg _ | .getcQerr _ | .setcQhost _
  | .setcQserai _ | .setcQmsg _ | .setcQerr _ | .setcClip _ | .setcOplimit _ | .cnpoolEnable _
  | .cnpoolDisable _ | .trap _ | .eret | .sleep _ _ _ | .time _ | .cycle _ | .halt | .brk _ | .slotq _ _
  | .who _ _ | .pwracq _ | .pwrrel | .pwrq _ | .spawn _ _ | .cancel _ _ _ | .nodest _ _ _ | .signal _ _ => some .S
  | .vnop | .vadd _ _ _ _ | .vsub _ _ _ _ | .vmul _ _ _ _ | .vfma _ _ _ _ | .vmin _ _ _ _ | .vmax _ _ _ _
  | .vabs _ _ _ | .vneg _ _ _ | .vadds _ _ _ _ | .vsubs _ _ _ _ | .vmulh _ _ _ _ | .vand _ _ _ _
  | .vor _ _ _ _ | .vxor _ _ _ _ | .vnot _ _ _ | .vshl _ _ _ _ | .vshr _ _ _ _ | .vsar _ _ _ _
  | .vcmp _ _ _ _ _ | .vsel _ _ _ _ | .pand _ _ _ _ | .por _ _ _ _ | .pxor _ _ _ _ | .pnot _ _ _
  | .vcvt _ _ _ _ _ _ | .vwid _ _ _ _ _ _ | .vnar _ _ _ _ _ _ | .vquant _ _ _ | .vdeq _ _ _ _ _ _
  | .vsettag _ _ _ _ | .vredsum _ _ _ | .vredmax _ _ _ | .vredmin _ _ _ | .vamax _ _ _ | .vbcast _ _ _ _
  | .vperm _ _ _ _ | .vshuf _ _ _ _ | .vslide _ _ _ _ | .vscan _ _ _ | .vmov _ _ _ | .vsplat _ _ _ _
  | .vext _ _ _ _ | .vsfu _ _ _ _ | .vdiv _ _ _ _ => some .V
  | .mnop | .mmul _ _ _ _ | .mmuls _ _ _ _ _ _ | .mwld _ _ _ _ | .mswap _ | .mzero | .mwinv _
  | .mdrain _ _ _ _ | .mdrains _ _ _ _ _ _ | .mcommit _ _ _ | .mlease _ | .munlease | .mclip _ => some .M
  | .cnop | .ldl _ _ _ _ | .stl _ _ _ _ | .ldr _ _ _ _ _ | .ldsh _ _ _ _ | .stsh _ _ _ _ | .lds _ _ _ _ _
  | .sts _ _ _ _ | .ldg _ _ _ _ _ | .stg _ _ _ | .ldsg _ _ _ _ _ | .stsg _ _ _ | .pfg _ _ _ | .bget _ _ _ _ _
  | .bput _ _ _ _ _ | .bgetsh _ _ _ _ _ | .bputsh _ _ _ _ _ | .bwait _ | .bprom _ _ | .aadd _ _ _ _ _ _ _
  | .amax _ _ _ _ _ _ _ | .amin _ _ _ _ _ _ _ | .amaxn _ _ _ _ _ _ _ | .aminn _ _ _ _ _ _ _
  | .aand _ _ _ _ _ _ _ | .aor _ _ _ _ _ _ _ | .axor _ _ _ _ _ _ _ | .axchg _ _ _ _ _ _ _
  | .acas _ _ _ _ _ _ _ | .afadd _ _ _ _ _ _ | .afmax _ _ _ _ _ _ | .aamax _ _ _ _ _ _ | .ald _ _ _ _ _ _
  | .ast _ _ _ _ _ _ | .fence _ _ _ | .mark | .wadd _ _ _ _ _ | .wmax _ _ _ _ _ | .wfadd _ _ _ _
  | .cnput _ _ _ _ | .cnget _ _ _ _ | .cnref _ | .cndrop _ | .cnswap _ _ _ _ | .cnlook _ _ _ _
  | .cnout _ _ _ _ | .cnhash _ _ _ _ | .xmit _ _ _ _ | .xsel _ _ _ _ | .flushms _ _ | .invl _ _ => some .C
  | .anop | .loop _ _ _ | .loops _ _ _ | .lbrk _ | .ainc _ _ | .ainc2 _ _ _ _ | .aset _ _ | .aget _ _
  | .aaddi _ _ | .amod _ _ | .sbind _ _ | .sunbind _ | .squery _ _ | .kset _ _ _ => some .A
  | .windowEnable _ _ | .windowDisable _ _ | .sleepWake _ | .classGrant _ | .signalDelivery _
  | .remoteReadService _ _ | .bulkTransferComplete _ _ | .windowContribution _ _ | .switchMerge _ _ _ _ _
  | .cnDirectoryVerdict _ _ | .reaper _ | .streamRowFetch _ _ | .resultLanding _ | .landingDataArrival _ _
  | .syncRestart _ | .leaseGrant _ | .leaseTimeout _ | .arrayProduct _ | .weightLoadComplete _
  | .flueSignalFailure _ _ _ _ | .drainPerform _ | .pageWalk _ _ | .homeLoad _ _ | .homeStore _ _
  | .homeAtomic _ _ | .cacheFill _ _ | .sliceEnd _ | .launch _ _ | .lstat _ | .lcancel _ _ | .lquery _ _
  | .graphAdmission _ | .seraiCycle _ | .holdAnswer _ _ | .holdTimeout _ _ | .powerAnswer _ _
  | .reservationCommit _ | .backoffEnd _ | .retirement _ | .completionPost _ | .msixUnmask _
  | .nodeStateExpiry _ | .kill _ _ | .preempt _ _ | .preemptRequest _ | .preemptionComplete _
  | .contextRestore _ | .timer _ _ _ | .timerDeadline _ | .powerExcess _ _ | .thermalTrap _ _ _ _
  | .settleEnd _ | .tokenRefill | .stokerGrant _ _ _ _ _ | .failSafeEntry _ | .slotHold | .minorSlot
  | .majorSlot | .slotEnd | .maintenanceOverrun _ _ | .uncorrectableError _ _ _ _ | .remoteUnreachable _ _
  | .tinv _ | .mbpush _ _ | .mbpop _ | .mbstat _ | .hostMemoryRead _ _ | .hostMemoryWrite _ _
  | .fetchadd _ _ _ | .swap _ _ _ | .cas _ _ _ _ | .ago _ | .attestationReport | .controlRegisterWrite _ _
  | .moduleReset | .firmwareVerification _ _ | .promiseTick _ _ | .tinvCompletion | .bundleFetch _
  | .directoryFreeSettingDone => none

/-- The word of a well-formed instruction, from the formats of R100 and R110 to R115; 0 for an event. -/
def encode : Instr → Nat
  | .normal np op pop => encH 0 np op pop
  | .sync np op pop g => encH 1 np op pop + encGroup g * 2 ^ 9
  | .lock np op pop pairs count => encH 2 np op pop + at_ pairs 4 + at_ count 0
  | .xph np op pop => encH 3 np op pop
  | .nop => 0
  | .add w d a b => encRRW 0x01 w d a b
  | .sub w d a b => encRRW 0x02 w d a b
  | .and w d a b => encRRW 0x03 w d a b
  | .or w d a b => encRRW 0x04 w d a b
  | .xor w d a b => encRRW 0x05 w d a b
  | .shl w d a b => encRRW 0x06 w d a b
  | .shr w d a b => encRRW 0x07 w d a b
  | .sar w d a b => encRRW 0x08 w d a b
  | .mul w d a b => encRRW 0x09 w d a b
  | .mulhi w d a b => encRRW 0x0A w d a b
  | .mulhn w d a b => encRRW 0x0B w d a b
  | .div w d a b => encRRW 0x0C w d a b
  | .divn w d a b => encRRW 0x0D w d a b
  | .rem w d a b => encRRW 0x0E w d a b
  | .remn w d a b => encRRW 0x0F w d a b
  | .min w d a b => encRRW 0x10 w d a b
  | .max w d a b => encRRW 0x11 w d a b
  | .minn w d a b => encRRW 0x12 w d a b
  | .maxn w d a b => encRRW 0x13 w d a b
  | .slt w d a b => encRRW 0x14 w d a b
  | .sltn w d a b => encRRW 0x15 w d a b
  | .seq w d a b => encRRW 0x16 w d a b
  | .sel w d a b => encRRW 0x17 w d a b
  | .clz w d a => encRRW 0x18 w d a 0
  | .popc w d a => encRRW 0x19 w d a 0
  | .ctz w d a => encRRW 0x1A w d a 0
  | .rotl w d a b => encRRW 0x1B w d a b
  | .bswap w d a => encRRW 0x1C w d a 0
  | .exts w d a b => encRRW 0x1D w d a b
  | .extz w d a b => encRRW 0x1E w d a b
  | .addi d a imm => encSI 0x20 d a imm
  | .andi d a imm => encSI 0x21 d a imm
  | .ori d a imm => encSI 0x22 d a imm
  | .xori d a imm => encSI 0x23 d a imm
  | .shli d a k => encSI 0x24 d a (k.setWidth 15)
  | .shri d a k => encSI 0x25 d a (k.setWidth 15)
  | .sari d a k => encSI 0x26 d a (k.setWidth 15)
  | .slti d a imm => encSI 0x27 d a imm
  | .sltni d a imm => encSI 0x28 d a imm
  | .muli d a imm => encSI 0x29 d a imm
  | .li d imm => 0x2A * 2 ^ 25 + at_ d 20 + at_ imm 0
  | .lis d imm => 0x2B * 2 ^ 25 + at_ d 20 + at_ imm 0
  | .br cond a off => 0x30 * 2 ^ 25 + encBrCond cond * 2 ^ 21 + at_ a 16 + at_ off 0
  | .jmp off => 0x31 * 2 ^ 25 + at_ off 0
  | .call off => 0x32 * 2 ^ 25 + at_ off 0
  | .jmpr d a => encSR 0x33 d a 0 0
  | .ret => 0x34 * 2 ^ 25
  | .fadd rm d a b => encFp 0x38 rm d a b
  | .fsub rm d a b => encFp 0x39 rm d a b
  | .fmul rm d a b => encFp 0x3A rm d a b
  | .ffma rm d a b => encFp 0x3B rm d a b
  | .fmin d a b => encSR 0x3C d a b 0
  | .fmax d a b => encSR 0x3D d a b 0
  | .fcmp cond d a b => encSR 0x3E d a b (encFCond cond * 4)
  | .fcvt kind rm d a => encSR 0x3F d a 0 (encFcvtKind kind * 32 + encRMode rm * 4)
  | .getc d creg => encSC 0x40 d creg.toNat 0
  | .setc a creg => encSC 0x41 a creg.toNat 0
  | .getcQhost d => encSC 0x40 d 0xF00 0
  | .getcQserai d => encSC 0x40 d 0xF01 0
  | .getcQmsg d => encSC 0x40 d 0xF02 0
  | .getcQerr d => encSC 0x40 d 0xF03 0
  | .setcQhost a => encSC 0x41 a 0xF00 0
  | .setcQserai a => encSC 0x41 a 0xF01 0
  | .setcQmsg a => encSC 0x41 a 0xF02 0
  | .setcQerr a => encSC 0x41 a 0xF03 0
  | .setcClip a => encSC 0x41 a 0x020 0
  | .setcOplimit a => encSC 0x41 a 0x470 0
  | .cnpoolEnable a => encSC 0x41 a 0x420 0
  | .cnpoolDisable a => encSC 0x41 a 0x420 0
  | .trap i => 0x42 * 2 ^ 25 + at_ i 0
  | .eret => 0x43 * 2 ^ 25
  | .sleep d a b => encSR 0x44 d a b 0
  | .time d => encSR 0x45 d 0 0 0
  | .cycle d => encSR 0x46 d 0 0 0
  | .halt => 0x47 * 2 ^ 25
  | .brk c => 0x48 * 2 ^ 25 + at_ c 2
  | .slotq d sel => encSC 0x49 d 0 sel.toNat
  | .who d sel => encSC 0x4A d 0 sel.toNat
  | .pwracq a => encSR 0x50 0 a 0 0
  | .pwrrel => 0x51 * 2 ^ 25
  | .pwrq d => encSR 0x52 d 0 0 0
  | .spawn d a => encSR 0x58 d a 0 0
  | .cancel d a b => encSR 0x59 d a b 0
  | .nodest d a b => encSR 0x5A d a b 0
  | .signal a b => encSR 0x5B 0 a b 0
  | .vnop => 0
  | .vadd D A B g => encV3 0x01 D A B g
  | .vsub D A B g => encV3 0x02 D A B g
  | .vmul D A B g => encV3 0x03 D A B g
  | .vfma D A B g => encV3 0x04 D A B g
  | .vmin D A B g => encV3 0x05 D A B g
  | .vmax D A B g => encV3 0x06 D A B g
  | .vabs D A g => encV2 0x07 D A g
  | .vneg D A g => encV2 0x08 D A g
  | .vadds D A B g => encV3 0x09 D A B g
  | .vsubs D A B g => encV3 0x0A D A B g
  | .vmulh D A B g => encV3 0x0B D A B g
  | .vand D A B g => encV3 0x10 D A B g
  | .vor D A B g => encV3 0x11 D A B g
  | .vxor D A B g => encV3 0x12 D A B g
  | .vnot D A g => encV2 0x13 D A g
  | .vshl D A B g => encV3 0x14 D A B g
  | .vshr D A B g => encV3 0x15 D A B g
  | .vsar D A B g => encV3 0x16 D A B g
  | .vcmp cond pd A B g => encV 0x18 (encFCond cond * 32 + pd.toNat) (encRow A) (encRow B) g
  | .vsel D A ps g => encV 0x19 (encRow D) (encRow A) ps.toNat g
  | .pand pd pa pb g => encV 0x1A pd.toNat pa.toNat pb.toNat g
  | .por pd pa pb g => encV 0x1B pd.toNat pa.toNat pb.toNat g
  | .pxor pd pa pb g => encV 0x1C pd.toNat pa.toNat pb.toNat g
  | .pnot pd pa g => encV 0x1D pd.toNat pa.toNat 0 g
  | .vcvt D A tgt rm sat g => encConv 0x20 D A tgt rm sat g
  | .vwid D A tgt rm sat g => encConv 0x21 D A tgt rm sat g
  | .vnar D A tgt rm sat g => encConv 0x22 D A tgt rm sat g
  | .vquant D A B => encV3 0x23 D A B 0
  | .vdeq D A tgt rm sat g => encConv 0x24 D A tgt rm sat g
  | .vsettag D A tag g => encV 0x25 (encRow D) (encRow A) (encTag tag) g
  | .vredsum D A g => encV2 0x28 D A g
  | .vredmax D A g => encV2 0x29 D A g
  | .vredmin D A g => encV2 0x2A D A g
  | .vamax D A g => encV2 0x2B D A g
  | .vbcast D A m g => encV 0x2C (encRow D) (encRow A) m.toNat g
  | .vperm D A B g => encV3 0x2D D A B g
  | .vshuf D A kind g => encV 0x2E (encRow D) (encRow A) (encShuffle kind) g
  | .vslide D A k g => encV 0x2F (encRow D) (encRow A) k.toNat g
  | .vscan D A g => encV2 0x30 D A g
  | .vmov D A g => encV2 0x31 D A g
  | .vsplat D tag imm g => encV 0x32 (encRow D) (encTag tag) imm.toNat g
  | .vext D A B g => encV3 0x33 D A B g
  | .vsfu D A fn g => encV 0x38 (encRow D) (encRow A) (encSfuFn fn) g
  | .vdiv D A B g => encV3 0x39 D A B g
  | .mnop => 0
  | .mmul A nr split mode => 0x01 * 2 ^ 26 + encRow A * 2 ^ 18 + at_ nr 13 + at_ split 10 + encAccMode mode * 2 ^ 8
  | .mmuls a core col nr split mode => 0x02 * 2 ^ 26 + at_ a 22 + at_ core 19 + bitAt col 18 + at_ nr 13 + at_ split 10 + encAccMode mode * 2 ^ 8
  | .mwld a mask geom wfmt => 0x04 * 2 ^ 26 + at_ a 22 + at_ mask 14 + at_ geom 11 + encWFmt wfmt * 2 ^ 8
  | .mswap mask => 0x05 * 2 ^ 26 + at_ mask 18
  | .mzero => 0x06 * 2 ^ 26
  | .mwinv mask => 0x07 * 2 ^ 26 + at_ mask 18
  | .mdrain nr tag ofmt amx => 0x08 * 2 ^ 26 + at_ nr 21 + at_ tag 17 + encDrainFmt ofmt * 2 ^ 13 + encAmx amx
  | .mdrains nr a ofmt amx glob col => 0x09 * 2 ^ 26 + at_ nr 21 + at_ a 17 + encDrainFmt ofmt * 2 ^ 13 + encAmx amx + bitAt col 4 + bitAt glob 3
  | .mcommit D tag nr => 0x0A * 2 ^ 26 + encRow D * 2 ^ 18 + at_ tag 14 + at_ nr 9
  | .mlease ln => 0x0C * 2 ^ 26 + at_ ln 20
  | .munlease => 0x0D * 2 ^ 26
  | .mclip d => 0x0E * 2 ^ 26 + at_ d 21
  | .cnop => 0
  | .ldl row a shape disp => encCL 0x01 row a shape disp.toNat
  | .stl row a shape disp => encCL 0x02 row a shape disp.toNat
  | .ldr row a shape owner disp => encCL 0x03 row a shape (at_ owner 6 + at_ disp 0)
  | .ldsh row a wc disp => encCL 0x04 row a (.row wc) disp.toNat
  | .stsh row a wc disp => encCL 0x05 row a (.row wc) disp.toNat
  | .lds s base sx size disp => 0x06 * 2 ^ 25 + at_ s 20 + at_ base 15 + bitAt sx 14 + encSize size * 2 ^ 12 + at_ disp 0
  | .sts s base size disp => 0x07 * 2 ^ 25 + at_ s 20 + at_ base 15 + encSize size * 2 ^ 12 + at_ disp 0
  | .ldg row a land wg rh => 0x10 * 2 ^ 25 + encRow row * 2 ^ 17 + at_ a 13 + at_ land 3 + encGlobWidth wg * 2 + bitAt rh 0
  | .stg row a wg => 0x11 * 2 ^ 25 + encRow row * 2 ^ 17 + at_ a 13 + encGlobWidth wg * 2
  | .ldsg s base sx size land => 0x12 * 2 ^ 25 + at_ s 20 + at_ base 15 + bitAt sx 14 + encSize size * 2 ^ 12 + at_ land 2
  | .stsg s base size => 0x13 * 2 ^ 25 + at_ s 20 + at_ base 15 + encSize size * 2 ^ 12
  | .pfg a wg rh => 0x14 * 2 ^ 25 + at_ a 13 + encGlobWidth wg * 2 + bitAt rh 0
  | .bget ag al sdesc tag shape => encCB 0x18 ag al sdesc tag (encOri shape * 2 ^ 7 + encWc shape * 2 ^ 4)
  | .bput ag al sdesc tag shape => encCB 0x19 ag al sdesc tag (encOri shape * 2 ^ 7 + encWc shape * 2 ^ 4)
  | .bgetsh ag al sdesc tag wc => encCB 0x1A ag al sdesc tag (encRowWidth wc * 2 ^ 4)
  | .bputsh ag al sdesc tag wc => encCB 0x1B ag al sdesc tag (encRowWidth wc * 2 ^ 4)
  | .bwait tag => encCB 0x1C 0 0 0 tag 0
  | .bprom s tag => encCB 0x1D 0 0 s tag 0
  | .aadd w sd sa sb sc ord tr => encAt 0x20 w sd sa sb sc ord tr
  | .amax w sd sa sb sc ord tr => encAt 0x21 w sd sa sb sc ord tr
  | .amin w sd sa sb sc ord tr => encAt 0x22 w sd sa sb sc ord tr
  | .amaxn w sd sa sb sc ord tr => encAt 0x23 w sd sa sb sc ord tr
  | .aminn w sd sa sb sc ord tr => encAt 0x24 w sd sa sb sc ord tr
  | .aand w sd sa sb sc ord tr => encAt 0x25 w sd sa sb sc ord tr
  | .aor w sd sa sb sc ord tr => encAt 0x26 w sd sa sb sc ord tr
  | .axor w sd sa sb sc ord tr => encAt 0x27 w sd sa sb sc ord tr
  | .axchg w sd sa sb sc ord tr => encAt 0x28 w sd sa sb sc ord tr
  | .acas w sd sa sb sc ord tr => encAt 0x29 w sd sa sb sc ord tr
  | .afadd sd sa sb sc ord tr => encAt 0x2A .w32 sd sa sb sc ord tr
  | .afmax sd sa sb sc ord tr => encAt 0x2B .w32 sd sa sb sc ord tr
  | .aamax sd sa sb sc ord tr => encAt 0x2C .w32 sd sa sb sc ord tr
  | .ald w sd sa sc ord tr => encAt 0x2D w sd sa 0 sc ord tr
  | .ast w sa sb sc ord tr => encAt 0x2E w 0 sa sb sc ord tr
  | .fence pred succ sc => 0x30 * 2 ^ 25 + at_ pred 17 + at_ succ 9 + encScope sc * 2 ^ 6
  | .mark => 0x31 * 2 ^ 25
  | .wadd w sa sb sc rel => encCX 0x34 0 sa sb (encAWidth w) sc (encRel rel) false
  | .wmax w sa sb sc rel => encCX 0x35 0 sa sb (encAWidth w) sc (encRel rel) false
  | .wfadd sa sb sc rel => encCX 0x36 0 sa sb 0 sc (encRel rel) false
  | .cnput sn row qtr land => encCN 0x38 sn row qtr land
  | .cnget sn row qtr land => encCN 0x39 sn row qtr land
  | .cnref sn => 0x3A * 2 ^ 25 + at_ sn 20
  | .cndrop sn => 0x3B * 2 ^ 25 + at_ sn 20
  | .cnswap sd sa sb sc => encCX 0x3C sd sa sb 2 sc 3 false
  | .cnlook sn row qtr land => encCN 0x3D sn row qtr land
  | .cnout ag al sdesc tag => encCB 0x3E ag al sdesc tag 0
  | .cnhash sn row qtr land => encCN 0x3F sn row qtr land
  | .xmit row part lane west => 0x40 * 2 ^ 25 + encRow row * 2 ^ 17 + at_ part 14 + at_ lane 11 + bitAt west 10
  | .xsel row part lane west => 0x41 * 2 ^ 25 + encRow row * 2 ^ 17 + at_ part 14 + at_ lane 11 + bitAt west 10
  | .flushms sa sc => encCX 0x48 0 sa 0 0 sc 0 false
  | .invl sa sc => encCX 0x49 0 sa 0 0 sc 0 false
  | .anop => 0
  | .loop lvl count len => 0x01 * 2 ^ 26 + at_ lvl 24 + at_ count 12 + at_ len 0
  | .loops lvl s len => 0x02 * 2 ^ 26 + at_ lvl 24 + at_ s 19 + at_ len 0
  | .lbrk lvl => 0x03 * 2 ^ 26 + at_ lvl 24
  | .ainc a l => 0x04 * 2 ^ 26 + at_ a 22 + at_ l 20
  | .ainc2 a l a2 l2 => 0x05 * 2 ^ 26 + at_ a 22 + at_ l 20 + at_ a2 16 + at_ l2 14
  | .aset a s => 0x06 * 2 ^ 26 + at_ a 22 + at_ s 15
  | .aget a s => 0x07 * 2 ^ 26 + at_ a 22 + at_ s 15
  | .aaddi a imm => 0x08 * 2 ^ 26 + at_ a 22 + at_ imm 0
  | .amod a s => 0x09 * 2 ^ 26 + at_ a 22 + at_ s 17
  | .sbind q a => 0x0A * 2 ^ 26 + at_ q 23 + at_ a 19
  | .sunbind q => 0x0B * 2 ^ 26 + at_ q 23
  | .squery q s => 0x0C * 2 ^ 26 + at_ q 23 + at_ s 18
  | .kset a l s => 0x0D * 2 ^ 26 + at_ a 22 + at_ l 20 + at_ s 15
  | .windowEnable _ _ | .windowDisable _ _ | .sleepWake _ | .classGrant _ | .signalDelivery _
  | .remoteReadService _ _ | .bulkTransferComplete _ _ | .windowContribution _ _ | .switchMerge _ _ _ _ _
  | .cnDirectoryVerdict _ _ | .reaper _ | .streamRowFetch _ _ | .resultLanding _ | .landingDataArrival _ _
  | .syncRestart _ | .leaseGrant _ | .leaseTimeout _ | .arrayProduct _ | .weightLoadComplete _
  | .flueSignalFailure _ _ _ _ | .drainPerform _ | .pageWalk _ _ | .homeLoad _ _ | .homeStore _ _
  | .homeAtomic _ _ | .cacheFill _ _ | .sliceEnd _ | .launch _ _ | .lstat _ | .lcancel _ _ | .lquery _ _
  | .graphAdmission _ | .seraiCycle _ | .holdAnswer _ _ | .holdTimeout _ _ | .powerAnswer _ _
  | .reservationCommit _ | .backoffEnd _ | .retirement _ | .completionPost _ | .msixUnmask _
  | .nodeStateExpiry _ | .kill _ _ | .preempt _ _ | .preemptRequest _ | .preemptionComplete _
  | .contextRestore _ | .timer _ _ _ | .timerDeadline _ | .powerExcess _ _ | .thermalTrap _ _ _ _
  | .settleEnd _ | .tokenRefill | .stokerGrant _ _ _ _ _ | .failSafeEntry _ | .slotHold | .minorSlot
  | .majorSlot | .slotEnd | .maintenanceOverrun _ _ | .uncorrectableError _ _ _ _ | .remoteUnreachable _ _
  | .tinv _ | .mbpush _ _ | .mbpop _ | .mbstat _ | .hostMemoryRead _ _ | .hostMemoryWrite _ _
  | .fetchadd _ _ _ | .swap _ _ _ | .cas _ _ _ _ | .ago _ | .attestationReport | .controlRegisterWrite _ _
  | .moduleReset | .firmwareVerification _ _ | .promiseTick _ _ | .tinvCompletion | .bundleFetch _
  | .directoryFreeSettingDone => 0

/-! ## The words of the opcode table -/

/-- How many bits the encoding of the instruction fixes (the masks of spec/opcode_table.json). -/
def fixedBits : Instr → Nat
  | .lock _ _ _ _ _ => 3
  | .vadd _ _ _ _ | .vsub _ _ _ _ | .vmul _ _ _ _ | .vfma _ _ _ _ | .vmin _ _ _ _ | .vmax _ _ _ _
  | .vadds _ _ _ _ | .vsubs _ _ _ _ | .vmulh _ _ _ _ | .vand _ _ _ _ | .vor _ _ _ _ | .vxor _ _ _ _
  | .vshl _ _ _ _ | .vshr _ _ _ _ | .vsar _ _ _ _ | .vcvt _ _ _ _ _ _ | .vwid _ _ _ _ _ _ | .vnar _ _ _ _ _ _
  | .vdeq _ _ _ _ _ _ | .vbcast _ _ _ _ | .vperm _ _ _ _ | .vslide _ _ _ _ | .vext _ _ _ _ | .vsfu _ _ _ _
  | .vdiv _ _ _ _ | .loop _ _ _ | .aaddi _ _ => 6
  | .addi _ _ _ | .andi _ _ _ | .ori _ _ _ | .xori _ _ _ | .slti _ _ _ | .sltni _ _ _ | .muli _ _ _ | .li _ _
  | .lis _ _ | .br _ _ _ | .jmp _ | .call _ | .ldl _ _ _ _ | .stl _ _ _ _ | .ldr _ _ _ _ _ | .lds _ _ _ _ _
  | .ldg _ _ _ _ _ | .cnput _ _ _ _ | .cnget _ _ _ _ | .cnlook _ _ _ _ | .cnhash _ _ _ _ => 7
  | .vquant _ _ _ | .ldsh _ _ _ _ | .stsh _ _ _ _ | .sts _ _ _ _ => 8
  | .vcmp _ _ _ _ _ | .mdrains _ _ _ _ _ _ | .ldsg _ _ _ _ _ | .aadd _ _ _ _ _ _ _ | .amax _ _ _ _ _ _ _
  | .amin _ _ _ _ _ _ _ | .amaxn _ _ _ _ _ _ _ | .aminn _ _ _ _ _ _ _ | .aand _ _ _ _ _ _ _
  | .aor _ _ _ _ _ _ _ | .axor _ _ _ _ _ _ _ | .axchg _ _ _ _ _ _ _ | .acas _ _ _ _ _ _ _ => 9
  | .vsettag _ _ _ _ | .vsplat _ _ _ _ => 10
  | .vshuf _ _ _ _ | .mdrain _ _ _ _ | .bget _ _ _ _ _ | .bput _ _ _ _ _ | .afadd _ _ _ _ _ _
  | .afmax _ _ _ _ _ _ | .aamax _ _ _ _ _ _ => 11
  | .sync _ _ _ _ | .vsel _ _ _ _ | .bgetsh _ _ _ _ _ | .bputsh _ _ _ _ _ => 12
  | .fence _ _ _ | .loops _ _ _ => 13
  | .fadd _ _ _ _ | .fsub _ _ _ _ | .fmul _ _ _ _ | .ffma _ _ _ _ | .fcmp _ _ _ _ | .vabs _ _ _ | .vneg _ _ _
  | .vnot _ _ _ | .vredsum _ _ _ | .vredmax _ _ _ | .vredmin _ _ _ | .vamax _ _ _ | .vscan _ _ _ | .vmov _ _ _
  | .mmul _ _ _ _ | .mmuls _ _ _ _ _ _ | .mwld _ _ _ _ | .ald _ _ _ _ _ _ | .ast _ _ _ _ _ _ | .cnswap _ _ _ _ => 14
  | .normal _ _ _ | .xph _ _ _ | .add _ _ _ _ | .sub _ _ _ _ | .and _ _ _ _ | .or _ _ _ _ | .xor _ _ _ _
  | .shl _ _ _ _ | .shr _ _ _ _ | .sar _ _ _ _ | .mul _ _ _ _ | .mulhi _ _ _ _ | .mulhn _ _ _ _ | .div _ _ _ _
  | .divn _ _ _ _ | .rem _ _ _ _ | .remn _ _ _ _ | .min _ _ _ _ | .max _ _ _ _ | .minn _ _ _ _ | .maxn _ _ _ _
  | .slt _ _ _ _ | .sltn _ _ _ _ | .seq _ _ _ _ | .sel _ _ _ _ | .rotl _ _ _ _ | .exts _ _ _ _ | .extz _ _ _ _
  | .getc _ _ | .setc _ _ | .mcommit _ _ _ | .wadd _ _ _ _ _ | .wmax _ _ _ _ _ | .cnout _ _ _ _ => 15
  | .shli _ _ _ | .shri _ _ _ | .sari _ _ _ | .fcvt _ _ _ _ => 16
  | .fmin _ _ _ | .fmax _ _ _ | .sleep _ _ _ | .cancel _ _ _ | .nodest _ _ _ | .wfadd _ _ _ _ | .xmit _ _ _ _
  | .xsel _ _ _ _ => 17
  | .stg _ _ _ => 18
  | .slotq _ _ | .who _ _ => 19
  | .clz _ _ _ | .popc _ _ _ | .ctz _ _ _ | .bswap _ _ _ | .stsg _ _ _ | .ainc2 _ _ _ _ => 20
  | .kset _ _ _ => 21
  | .jmpr _ _ | .spawn _ _ | .signal _ _ => 22
  | .bprom _ _ | .aset _ _ | .aget _ _ | .amod _ _ => 23
  | .trap _ | .brk _ | .pand _ _ _ _ | .por _ _ _ _ | .pxor _ _ _ _ | .mswap _ | .mwinv _ | .flushms _ _
  | .invl _ _ | .squery _ _ => 24
  | .pfg _ _ _ | .sbind _ _ => 25
  | .pnot _ _ _ | .mlease _ | .ainc _ _ => 26
  | .getcQhost _ | .getcQserai _ | .getcQmsg _ | .getcQerr _ | .setcQhost _ | .setcQserai _ | .setcQmsg _
  | .setcQerr _ | .setcClip _ | .setcOplimit _ | .cnpoolEnable _ | .cnpoolDisable _ | .time _ | .cycle _
  | .pwracq _ | .pwrq _ | .mclip _ | .cnref _ | .cndrop _ => 27
  | .bwait _ => 28
  | .sunbind _ => 29
  | .lbrk _ => 30
  | .nop | .ret | .eret | .halt | .pwrrel | .vnop | .mnop | .mzero | .munlease | .cnop | .mark | .anop => 32
  | _ => 0

/-- The slots in the order in which `tableSlot` prefers them. -/
def tableSlots : List Slot := [.S, .V, .M, .C, .A, .H]

/-- The slot and the instruction that a word of the table stands for. The same bits mean different instructions in
different slots (R96) and the table does not name the slot: of those that decode, the instruction whose encoding fixes
the most bits is taken, and of equals the first of `tableSlots`. -/
def tableSlot (w : Nat) : Option (Slot × Instr) :=
  tableSlots.foldl
    (fun best k =>
      match decodeSlot k w with
      | .error _ => best
      | .ok i =>
        match best with
        | none => some (k, i)
        | some b => if fixedBits b.2 < fixedBits i then some (k, i) else best)
    none

/-- The instruction that the decoder reads from a word of `nbits` bits; every instruction of this part has 32. -/
def decodeTableWord (nbits w : Nat) : Option Instr :=
  if nbits ≤ 32 then (tableSlot (w % 2 ^ 32)).map (·.2) else none

end Sys2Proof
end

