-- ==== Sys2Proof/Machine/State.lean ====
section
/-! DEFINITION. Machine/State.lean: everything the specification gives the machine, as plain data, the reasons a step
can stop, and the machine right after reset. One module: eight dies, their clusters and cores, memory, the host's
block, and the model's own agenda. -/

namespace Sys2Proof.Machine

/-! ## Stops -/

/-- Reasons to stop with a fault. No instruction of this part stops the machine: every trap is a next state. -/
inductive Fault
  /-- Never raised by a meaning; kept so that the type has a member. Safe. -/
  | stuck
  deriving DecidableEq, Repr

/-- Reasons to refuse an instruction. -/
inductive Refusal
  /-- An instruction without a meaning, named by its mnemonic; raised by the dispatch alone. Safe. -/
  | notModelled (mnemonic : String)
  deriving DecidableEq, Repr

/-! ## Small pieces -/

/-- Sparse data by number: numbers strictly rising, what is not listed is at its default. -/
abbrev SMap (α : Type) := List (Nat × α)

/-- Byte-addressed memory: addresses strictly rising, no entry equal to what an unlisted address reads as. -/
abbrev Memory := List Host.Cell

/-- A program counter, in bundles: a byte address without its low five bits (R97). -/
abbrev Pc := BitVec 59

/-- A row with its format tag (R26, R143). -/
structure TRow where
  bits : RowBits := 0
  tag : Tag := .EMPTY
  deriving DecidableEq, Repr

/-- A trap: its cause code (R400) and the value of CTL.TRAPADDR. -/
structure Trap where
  code : BitVec 8
  addr : Word := 0
  deriving DecidableEq, Repr

/-- A destination row, a loop-indirect one resolved (R108). -/
inductive RowDest
  | tile (row : BitVec 7)
  | oper (n : BitVec 3)
  | stream (n : BitVec 3)
  deriving DecidableEq, Repr

/-- A result on its way to a register (R135, R136). -/
inductive Result
  /-- A scalar; `ls` says that it is a result of the S slot, which LS takes (R145). -/
  | scalar (r : BitVec 5) (ls : Bool) (v : Word)
  | addr (r : BitVec 4) (v : Word)
  | stride (r : BitVec 4) (l : BitVec 2) (v : Word)
  /-- A row, with the latch that takes it (R145). -/
  | row (d : RowDest) (v : RowBits) (t : Tag) (latch : Option Latch)
  | pred (n : BitVec 2) (v : Pred)
  /-- A SETC (R165). -/
  | creg (c : BitVec 12) (v : Word)
  deriving DecidableEq, Repr

/-- A pending result: architectural cycles until it lands; `id` and `part` tie it to the accesses that supply its data,
`need` counts the parts not yet fixed and `ready` says whether the data have arrived; `buf` whether it holds a
landing-buffer entry; `young` whether its bundle has not yet completed issue, the word `slot` there, and the bundle's number `bun`
(R136 to R140); `reply` whether it is the reply of an atomic (R357), `remote` whether it comes from a remote read (R235), and `pushed` whether
its row has been pushed to its write stream ahead of its cycle (log entry 75). -/
structure Pending where
  left : Nat
  res : Result
  id : Nat := 0
  part : Nat := 0
  need : Nat := 0
  ready : Bool := true
  buf : Bool := false
  young : Bool := true
  slot : Nat := 0
  bun : Nat := 0
  reply : Bool := false
  remote : Bool := false
  pushed : Bool := false
  deriving DecidableEq, Repr

/-- A hardware-loop level (R179); its counter stands with the registers. -/
structure Loop where
  act : Bool := false
  s : Pc := 0
  e : Pc := 0
  rc : Word := 0
  deriving DecidableEq, Repr

/-- A bound stream (R184 to R188): the descriptor, rows popped or pushed, rows fetched ahead or written. -/
structure Stream where
  write : Bool
  space : Bool
  shape : RowShape
  tag : Tag
  base : Word
  count0 : Nat
  stride0 : Int
  count1 : Nat
  stride1 : Int
  count2 : Nat
  stride2 : Int
  pos : Nat := 0
  done : Nat := 0
  deriving DecidableEq, Repr

/-- What LOOP, LOOPS or LBRK asks at the end of its bundle (R180, R181). -/
inductive LoopOp
  | set (lvl : BitVec 2) (count : Word) (len : BitVec 12)
  | brk (lvl : BitVec 2)
  deriving DecidableEq, Repr

/-- What performed slots leave for the end of their bundle (R154, R166, R168, R182, R186, R279, R319, R407): kept while a reissue
is pending. -/
structure Carry where
  target : Option Pc := none
  halt : Bool := false
  after : Option Trap := none
  loop : Option LoopOp := none
  binds : List (BitVec 3 × Option Stream) := []
  take : Option (BitVec 3 × Nat) := none
  fences : List (BitVec 8 × BitVec 8 × Scope) := []
  cost : Nat := 0
  eret : Bool := false
  deriving DecidableEq, Repr

/-- A store to local memory, performed at the end of its bundle (R222): shared SRAM or scratchpad, and its bytes. -/
structure LocalStore where
  shared : Bool
  cells : List (Nat × Byte)
  deriving DecidableEq, Repr

/-- What the header of a bundle asks for (R100, R101). -/
inductive HeadKind
  | normal
  | sync (g : Group)
  | lock (pairs : BitVec 8) (count : BitVec 4)
  | xph
  deriving DecidableEq, Repr

structure Head where
  np : BitVec 5 := 0
  op : Option (BitVec 3) := none
  pop : BitVec 8 := 0
  kind : HeadKind := .normal
  deriving DecidableEq, Repr

/-- A bulk tag (R268). -/
structure BulkTag where
  isOpen : Bool := false
  promise : Nat := 0
  missed : Bool := false
  deriving DecidableEq, Repr

/-- The bundle that is being issued: the model's own record. `slot` is the word now performed and `more` counts the
words still to perform after it; `perf` and `faults` build CTL.REPLAY (R404); `pushes` are the write streams that rows of
the bundle will go to (R227), and `tags` the bulk tags as the bundle found them (R99, R268). The banks are those of its accesses of the
scratchpad by C0 and C1, and of the rows that its matrix command takes there (R220); `sharedUse` tells of one of the shared SRAM. -/
structure Issue where
  tags : Vector BulkTag 16 := Vector.replicate 16 {}
  isOpen : Bool := false
  slot : Nat := 0
  more : Nat := 0
  head : Head := {}
  perf : BitVec 8 := 0
  faults : List (Nat × Trap) := []
  stores : List LocalStore := []
  pushes : List (BitVec 3) := []
  banks : List (List Nat) := []
  rowBanks : List (List Nat) := []
  sharedUse : Bool := false
  deriving DecidableEq, Repr

/-- Why a core is frozen before issue (R132). -/
inductive Freeze
  | sync (g : Group)
  | landing
  | commit
  | stream (q : BitVec 3)
  | queue (c : BitVec 12)
  | tokens
  | lease
  | power
  | sleep
  | promise (tag : BitVec 4)
  | scOrder
  | fetch
  | walk
  | verdict
  | buffer
  | fence
  | phase
  | commands
  deriving DecidableEq, Repr

/-- Context that a trap holds for ERET (R138, R405). -/
structure TrapSave where
  pc : Pc := 0
  count : Word := 0
  loops : Vector Loop 4 := Vector.replicate 4 {}
  lc : Vector Word 4 := Vector.replicate 4 0
  lockN : BitVec 4 := 0
  lockP : BitVec 8 := 0
  rnd : Word := 0
  pending : List Pending := []
  carry : Carry := {}
  deriving DecidableEq, Repr

/-! ## Memory accesses, engines and translations of a core -/

/-- A translated page (R241): its flags, the first 64 KiB page of the address space it covers, their number, and the
domain physical address of the first. -/
structure Leaf where
  asid : BitVec 12
  vpn : Nat
  pages : Nat
  base : Nat
  w : Bool
  x : Bool
  u : Bool
  sc : Bool
  cn : Bool
  rhp : Bool
  msc : Bool
  deriving DecidableEq, Repr

/-- The atomics (R271), CNSWAP left aside. -/
inductive AtomicOp
  | add | max | min | maxn | minn | and | or | xor | xchg | cas | fadd | fmax | amax | ld | st
  deriving DecidableEq, Repr

/-- What a queued access does (R355 to R358). A load fills `len` bytes of its pending result from byte `at_`. A local access
stands in the queue only where a fence or an acquire holds it (R279, R361), or an earlier one of its bytes. -/
inductive MemKind
  | load (at_ : Nat) (scalar : Option (Size × Bool)) (rh : Bool)
  | store (data : Nat)
  | atomic (op : AtomicOp) (v c : Nat)
  /-- A contribution: its window, value and index. -/
  | contrib (w : BitVec 4) (v : Nat) (idx : BitVec 24)
  | fence (pred succ : BitVec 8) (sc : Scope)
  /-- A remote scratchpad read of the cluster (R233): the owner's core number, the shape and the offset. -/
  | remote (owner : Nat) (shape : RowShape)
  /-- A load of the scratchpad or the shared SRAM, the bytes at the given offsets. -/
  | localLoad (shared : Bool) (offs : List Nat) (scalar : Option (Size × Bool))
  /-- A store to the scratchpad or the shared SRAM. -/
  | localStore (shared : Bool) (cells : List (Nat × Byte))
  /-- A lookup of the content-named pool: the class and the data (R346). -/
  | look (cls : BitVec 8) (data : Line)
  deriving DecidableEq, Repr

/-- An entry of the load and store queues (R358), in issue order; `bun` numbers the bundles of the core, and `engine` marks the maximum of a
drain, to which the order of the queues does not apply (R358, R367). -/
structure MemOp where
  id : Nat
  bun : Nat
  kind : MemKind
  pa : Nat := 0
  len : Nat := 0
  acq : Bool := false
  rel : Bool := false
  scope : Scope := .core
  scPage : Bool := false
  engine : Bool := false
  deriving DecidableEq, Repr

/-- Where an engine write goes: a line part of HBM, or a row of a storage behind a window page, by address; or bytes of the core's own
scratchpad. -/
inductive OutDest
  | line (pa : Nat) (bytes : List Byte)
  | spad (cells : List (Nat × Byte))
  deriving DecidableEq, Repr

/-- A write that an engine has issued and that is not performed yet (R355, R357): the transfer that it belongs to, or none for
MDRAINS, its bundle, where it goes, and whether it is an access of MDRAINS to SC pages (R366). -/
structure OutWrite where
  bulk : Option Nat
  bun : Nat
  dest : OutDest
  sc : Bool
  deriving DecidableEq, Repr

/-- The kinds of bulk transfer (R263, R350). -/
inductive BulkKind
  | get | put | getsh | putsh
  | cnout (root : BitVec 128) (depth : Nat)
  deriving DecidableEq, Repr

/-- A bulk transfer under way (R265): its shape, the page translations taken at issue, whether one of them is an SC page
(R366), and how far it is: the next row, the line parts of that row read so far and their bytes; for CNOUT the subtrees still to
be written, each with its depth, and the pool's setting that it belongs to (R331, R350). -/
structure Bulk where
  id : Nat
  bun : Nat
  tag : BitVec 4
  kind : BulkKind
  shape : RowShape
  g : Word
  l : Word
  gstride : Int
  lstride : Int
  rows : Nat
  pages : List (Nat × Nat)
  sc : Bool := false
  next : Nat := 0
  part : Nat := 0
  acc : Nat := 0
  work : List (Option (BitVec 128) × Nat) := []
  epoch : Nat := 0
  promise : Nat
  deriving DecidableEq, Repr

/-- A content-named request awaiting or holding its verdict (R344). -/
inductive CnReq
  | put (cls : BitVec 8) (data : Line)
  | get (name : BitVec 128)
  | ref (name : BitVec 128)
  | drop (name : BitVec 128)
  | swap (pa : Nat) (exp new : BitVec 128) (sc : Scope)
  | out (root : BitVec 128)
  deriving DecidableEq, Repr

/-- A request and its verdict: a fault, found before the directory was asked or by it, or the name, line or old root that it gives;
for CNOUT the pages of its destination, and whether one is an SC page. -/
structure CnVerdict where
  slot : Nat
  req : CnReq
  done : Bool := false
  fault : Option Trap := none
  name : BitVec 128 := 0
  data : Line := 0
  pages : List (Nat × Nat) := []
  sc : Bool := false
  deriving DecidableEq, Repr

/-! ## The matrix side of a core -/

/-- The kind of an accumulator row (R299). -/
inductive RowKind
  | Z | F | I
  deriving DecidableEq, Repr

/-- Where the rows of a drain go (R326, R327): under a drain tag, or to memory, and there whether to an SC page (R366). -/
inductive DrainTo
  | buffer (tag : BitVec 4) (id : Nat)
  | spad (off : Nat) (col : Bool)
  | global (pas : List Nat) (sc : Bool)
  deriving DecidableEq, Repr

/-- An entry of the command buffer (R301, R311). A product holds its activation rows, or what fetches them at their
owner (core, offsets still to read, column size), under SR its seed, slice and counter, and which rows were of kind Z when it issued (R299). A load holds, for each macro, the
stretches of memory of its image; a drain with AMX the entry of the queues that its maximum becomes (R325). MSWAP is performed at
issue and needs no entry. -/
inductive Cmd
  | product (np : BitVec 5) (nr : Nat) (split : Nat) (mode : AccMode) (tag : Tag) (geom : Nat)
      (rows : List RowBits) (rnd : Option (Word × Nat × Word)) (fetch : Option (Nat × List Nat × RowShape)) (zeros : BitVec 32)
  | load (geom : BitVec 2) (wfmt : WFmt) (images : List (Nat × List (Nat × Nat)))
  | inval (mask : BitVec 8)
  | zero
  | drain (nr : Nat) (fmt : DrainFmt) (kinds : List RowKind) (amax : Nat) (amx : Option MemOp) (dest : DrainTo)
  deriving DecidableEq, Repr

/-- A queued command with its bundle and, for an array command, the number of the grant it belongs to; whether it reaches an SC page
(R366); for a load, the bytes of its images read so far, whether one of those lines has been written since, and the macros whose burst has failed
(R307). -/
structure Queued where
  bun : Nat
  grant : Option Nat
  cmd : Cmd
  sc : Bool := false
  got : List Byte := []
  stale : Bool := false
  failed : BitVec 8 := 0
  deriving DecidableEq, Repr

/-- A row that a drain has queued under a tag, once it is there (R326). -/
structure DrainRow where
  tag : BitVec 4
  id : Nat
  row : Option TRow
  fmtTag : Tag
  deriving DecidableEq, Repr

/-- The lease states of R300. -/
inductive Lease
  | idle
  | wait (n : Nat)
  | held (n : Nat) (start : Nat) (grant : Nat)
  deriving DecidableEq, Repr

/-- Key of a macro's planes (R303): the physical address of the image, the stretches of memory (first address and length)
that hold it, and what R303 names besides. -/
structure PlaneKey where
  pa : Nat
  pages : List (Nat × Nat)
  geom : BitVec 2
  wfmt : WFmt
  node : Nat
  watch : Bool
  deriving DecidableEq, Repr

/-- One plane set of a macro (R284, R305): 256 × 128 weights of 8 bits, 512 exponent codes, its key. -/
structure Planes where
  w : BitVec 262144 := 0
  codes : BitVec 4096 := 0
  key : Option PlaneKey := none
  burst : Bool := false
  inval : Bool := false
  deriving DecidableEq, Repr

/-- A macro (R284). -/
structure Macro where
  active : Planes := {}
  shadow : Planes := {}
  deriving DecidableEq, Repr

/-! ## A core -/

/-- The registers of R143. -/
structure Regs where
  s : Vector Word 32 := Vector.replicate 32 0
  a : Vector Word 16 := Vector.replicate 16 0
  k : Vector Word 64 := Vector.replicate 64 0
  lc : Vector Word 4 := Vector.replicate 4 0
  t : Vector RowBits 128 := Vector.replicate 128 0
  tTag : Vector Tag 16 := Vector.replicate 16 .EMPTY
  o : Vector TRow 8 := Vector.replicate 8 {}
  p : Vector Pred 4 := Vector.replicate 4 0
  lv0 : TRow := {}
  lv1 : TRow := {}
  lc0 : TRow := {}
  lc1 : TRow := {}
  lm : TRow := {}
  ls : Word := 0
  deriving DecidableEq, Repr

/-- The control registers of a core (R148). -/
structure Ctl where
  lockN : BitVec 4 := 0
  lockP : BitVec 8 := 0
  settle : Bool := false
  opTgt : BitVec 3 := 2
  opCur : BitVec 3 := 2
  settleLeft : Nat := 0
  handler : Bool := false
  priv : Bool := false
  rndCount : Word := 0
  rngSeed : Word := 0
  clip : Word := 0
  xcoll : Word := 0
  bal : Nat := 1024
  cls : BitVec 3 := 0
  winIdx : BitVec 24 := 0
  trapVec : Word := 0
  trapCause : Word := 0
  trapPc : BitVec 47 := 0
  trapAddr : Word := 0
  replay : BitVec 16 := 0
  asid : BitVec 12 := 0
  opLimit : BitVec 3 := 7
  timerPassed : Bool := false
  deriving DecidableEq, Repr

/-- The waits of one kind of a core (R440): how many there have been, how many when the counter of that kind was last written and
when CTL 0x101 was, and what was written to the former. The periods of each wait are free values. -/
structure Waits where
  n : Nat := 0
  own : Nat := 0
  all : Nat := 0
  base : Word := 0
  deriving DecidableEq, Repr

/-- Performance counters of a core (R440). -/
structure Counters where
  issue : Word := 0
  frozen : Word := 0
  sync : Waits := {}
  land : Waits := {}
  bank : Waits := {}
  tok : Waits := {}
  other : Waits := {}
  arrayCmd : Word := 0
  chargeCmd : Word := 0
  deriving DecidableEq, Repr

/-- What a core runs (R92, R93): the node, its place in the gangs, and the slice. -/
structure Run where
  node : Nat
  gang : Nat
  core : Nat
  slice : Nat
  ord : Nat
  begin : Nat
  end_ : Nat
  nodeId : BitVec 32
  stage : Word
  vwidth : Nat
  g : Nat
  d : Nat
  entry : Word
  halted : Bool := false
  last : Bool := false
  ended : Bool := false
  restore : Bool := false
  deriving DecidableEq, Repr

/-- The flow of a core: its context (R131, R179, R132) and the model's record of the bundle in progress. `synced` says that the bundle at
the PC does not wait for its group, `restarted` that this is so because the group has restarted while the core waited, and not by
CTL.REPLAY (R375, R407). `words` holds a bundle whose requests to the directory have been sent (R344). -/
structure Flow where
  pc : Pc := 0
  count : Word := 0
  loops : Vector Loop 4 := Vector.replicate 4 {}
  pending : List Pending := []
  carry : Carry := {}
  save : Option TrapSave := none
  issue : Issue := {}
  frozen : Option Freeze := none
  causes : List Trap := []
  signal : Bool := false
  monitor : Option (Nat × Bool) := none
  sleepWoken : Option Nat := none
  sleepArmed : Bool := false
  sleepFault : Option Trap := none
  synced : Bool := false
  restarted : Bool := false
  arrived : Option Group := none
  power : Option (BitVec 3) := none
  leased : Bool := false
  bun : Nat := 0
  nextId : Nat := 1
  fetched : Bool := true
  words : List Nat := []
  redo : BitVec 16 := 0
  deriving DecidableEq, Repr

/-- A store of a core to its scratchpad that remote reads do not see yet (R223): cycles until they do, its bundle, and the bytes it
replaced, none for one that nothing had written. -/
structure Unseen where
  left : Nat
  bun : Nat
  old : List (Nat × Option Byte)
  deriving DecidableEq, Repr

/-- A release of a narrow scope whose value may be read before the accesses that it orders are performed (R363): its line, core, number,
bundle and scope. -/
structure NarrowRelease where
  line : Nat
  core : Nat
  id : Nat
  bun : Nat
  scope : Scope
  deriving DecidableEq, Repr

/-- The memory side of a core. A scratchpad byte that nothing has written is the free byte of the filling `epoch`
(R60); `written` has a bit for each byte that something has. `owed` holds the releases of a narrow scope whose value the core has
read while accesses before them were outstanding (R359, R363). -/
structure Local where
  epoch : Nat := 0
  spad : Memory := []
  written : BitVec 262144 := 0
  streams : SMap Stream := []
  memq : List MemOp := []
  unseen : List Unseen := []
  owed : List NarrowRelease := []
  bulk : List Bulk := []
  outs : List OutWrite := []
  tags : Vector BulkTag 16 := Vector.replicate 16 {}
  tlb : List Leaf := []
  cn : List CnVerdict := []
  deriving DecidableEq, Repr

/-- The matrix side of a core (R291, R299 to R301, R326). -/
structure Matrix where
  bank : Vector BankRow 32 := Vector.replicate 32 0
  comp : Vector BankRow 32 := Vector.replicate 32 0
  kinds : Vector RowKind 32 := Vector.replicate 32 .Z
  drains : List DrainRow := []
  cmds : List Queued := []
  lease : Lease := .idle
  deriving DecidableEq, Repr

structure Core where
  regs : Regs := {}
  ctl : Ctl := {}
  flow : Flow := {}
  mem : Local := {}
  mat : Matrix := {}
  perf : Counters := {}
  run : Option Run := none
  deriving DecidableEq, Repr

/-! ## A cluster -/

/-- A line of a read cache, or on its way to one, with the instant it was read at home (R246, R365). -/
structure CacheLine where
  line : Nat
  data : Line
  stamp : Nat
  deriving DecidableEq, Repr

structure Cluster where
  sram : Memory := []
  cache : List CacheLine := []
  fills : List CacheLine := []
  tlb : List Leaf := []
  macros : Vector Macro 8 := Vector.replicate 8 {}
  claim : Option Nat := none
  lastHolder : Option Nat := none
  hits : Word := 0
  deriving DecidableEq, Repr

/-! ## A die -/

/-- Where a launch came from (R66). -/
inductive Source
  | host | spawn | queue
  deriving DecidableEq, Repr

/-- A graph in the launch FIFO (R66): its word, handle, and the accesses it must wait for (core, bundle; R73). -/
structure Launch where
  word : Word
  handle : Word
  after : Option (Nat × Nat)
  deriving DecidableEq, Repr

/-- What the serai of a die is asked for (R69, R80, R410, R176, R177): by a core, CANCEL and NODEST with handle and index, SPAWN with its
launch word and bundle; by the host or the supervisor, a write of a request register. -/
inductive AskKind
  | cancel (handle : Word) (idx : Nat)
  | query (handle : Word) (idx : Nat)
  | launch (w : Word) (bun : Nat)
  | hostCancel (v : Word)
  | hostQuery (v : Word)
  | kill (v : Word)
  | preempt (v : Word)
  deriving DecidableEq, Repr

/-- A request that has reached a serai and that its next cycle serves (R82, R465): the core that waits for the answer, the number of
the result, and the address space that an unprivileged request is bound to. -/
structure Ask where
  core : Nat := 0
  id : Nat := 0
  own : Option (BitVec 12) := none
  kind : AskKind
  deriving DecidableEq, Repr

/-- A reservation under way (R86): node, gang size, the gangs held, the hold whose answer is due, the dies tried so far, the
dies whose power answer is due and those that have granted it, the tick of the last request or answer, and that of the last request. -/
structure Reservation where
  node : Nat
  g : Nat
  gangs : List (Nat × Nat)
  holds : List (Nat × Nat)
  tried : Nat
  powers : List Nat
  granted : List Nat
  since : Nat
  asked : Nat
  deriving DecidableEq, Repr

/-- An entry of the affinity table (R89). -/
structure Affinity where
  base : Nat
  g : Nat
  deriving DecidableEq, Repr

/-- A completion post that waits for room (R438). -/
structure Post where
  node : Nat
  words : List Word
  deriving DecidableEq, Repr

/-- The Stoker's grant to a die (R453, R454). -/
structure Grant where
  budget : Nat := 0
  rate : Nat := 16
  cap : Nat := 1024
  fsafe : Bool := false
  last : Option Nat := none
  deriving DecidableEq, Repr

/-- A value on a road (R378, R379): road, lane, strip, the 64 bytes, the cores that sent it, and whether values met. -/
structure RoadValue where
  west : Bool
  lane : BitVec 3
  strip : Nat
  wait : Nat
  data : BitVec 512
  from_ : List Nat
  met : Bool
  deriving DecidableEq, Repr

/-- An open caravan phase (R376, R377): its gang, the members in lockstep, those that have issued in this cycle, and whether a trap
ends it with this cycle (R384). -/
structure Phase where
  node : Nat
  gang : Nat
  members : List Nat
  issued : List Nat
  ending : Bool := false
  deriving DecidableEq, Repr

structure Die where
  fifo : List Launch := []
  seqHost : BitVec 32 := 0
  seqSpawn : BitVec 32 := 0
  seqQueue : BitVec 32 := 0
  lost : Bool := false
  lcResult : Word := 0
  lqResult : Word := 0
  ack : List Word := []
  h2d : List Word := []
  d2h : List Word := []
  asks : List Ask := []
  cycle : Option Nat := none
  queueAt : Option Nat := none
  pushAt : Option Nat := none
  pushes : Nat := 0
  posted : Nat := 0
  rise : Bool := false
  aside : List Nat := []
  mbLost : Bool := false
  qmsg : List Word := []
  qerr : List Word := []
  qerrLost : BitVec 32 := 0
  affinity : SMap Affinity := []
  resv : Option Reservation := none
  busy : SMap Nat := []
  posts : List Post := []
  kResult : Word := 0
  pResult : Word := 0
  timers : SMap Word := []
  saveArea : Word := 0
  frames : List Nat := []
  grant : Grant := {}
  roads : List RoadValue := []
  phase : Option Phase := none
  preempting : Option Nat := none
  preemptWaits : List Word := []
  alone : Option Nat := none
  withheld : Bool := false
  counters : SMap Word := []
  countFrom : SMap Nat := []
  deriving DecidableEq, Repr

/-! ## Nodes and graphs -/

/-- The node states (R75). -/
inductive NodeState
  | waiting | ready | reserving | running | preempted | retiring | done | cancelled | killed | rejected
  deriving DecidableEq, Repr

/-- The fields of a node record (R53). -/
structure NodeRec where
  entry : Word := 0
  nodeId : BitVec 32 := 0
  stage : BitVec 8 := 0
  prio : BitVec 2 := 0
  pclass : BitVec 3 := 0
  spread : Bool := false
  post : Bool := false
  inst : BitVec 32 := 0
  vwidth : Nat := 1
  gang : Nat := 15
  dies : Nat := 1
  tiles : Nat := 1
  seed : Word := 0
  args : List Word := []
  bases : List Word := []
  nsucc : Nat := 0
  npred : Nat := 0
  succs : List Nat := []
  deriving DecidableEq, Repr

/-- A context saved by a pre-emption (R414 to R416): gang, core of the gang, the first frame and the number of frames of
the node's home pool, and what the frame's last region holds; for the lowest core of a cluster, the planes of the node there, how many of
them have come back, what has been read of the image of the next, and whether all of them and the shared SRAM have come back. -/
structure SavedCore where
  gang : Nat
  core : Nat
  frame : Nat
  nframes : Nat
  ctx : Core
  keys : List (Nat × Macro)
  reloaded : Nat := 0
  got : List Byte := []
  loaded : Bool := false
  deriving DecidableEq, Repr

/-- A node held by a serai. -/
structure Node where
  id : Nat
  die : Nat
  idx : Nat
  handle : Word
  record : NodeRec
  state : NodeState
  preds : Nat
  ranOnce : Bool := false
  level : Nat := 0
  readyTick : Nat := 0
  conflicts : Nat := 0
  backoff : Option Nat := none
  commitTick : Nat := 0
  g : Nat := 0
  gangs : List (Nat × Nat) := []
  haltedSlices : Nat := 0
  stopping : Bool := false
  saved : List SavedCore := []
  postWaits : Bool := false
  deriving DecidableEq, Repr

/-- A graph held by a serai (R61, R72, R75). -/
structure Graph where
  handle : Word
  die : Nat
  asn : BitVec 12
  hdr : Word
  nnodes : Nat
  finalAt : Option Nat
  deriving DecidableEq, Repr

/-! ## Module -/

/-- The units present (R14 to R20): clusters and slices per die as bits, charge domain, bypassed routers (two bits a
strip, R24); and the SHA-256 digest of the firmware key, fused in the part (R460). -/
structure Part where
  clusters : Vector (BitVec 64) 8 := Vector.replicate 8 (BitVec.allOnes 64)
  slices : Vector (BitVec 64) 8 := Vector.replicate 8 (BitVec.allOnes 64)
  charge : Bool := true
  keyDigest : BitVec 256 := 0x66687aadf862bd776c8fc18b8e9f8e20089714856ee233b3902a591d0d5f2925
  routers : Vector (BitVec 64) 8 := Vector.replicate 8 0
  deriving DecidableEq, Repr

/-- The wear-state entry (R24, R25, R458, R459): generation, marks, the guard-band step of each core domain and the wear level of each
core, slice and router, by number; what a major slot's tests have found and its end will apply; and the flue's repair marks. -/
structure Wear where
  generation : Word := 0
  clusters : Vector (BitVec 64) 8 := Vector.replicate 8 0
  slices : Vector (BitVec 64) 8 := Vector.replicate 8 0
  strips : Vector (BitVec 24) 8 := Vector.replicate 8 0
  step : SMap Nat := []
  coreLevel : SMap (BitVec 8) := []
  sliceLevel : SMap (BitVec 8) := []
  routerLevel : SMap (BitVec 8) := []
  below : Bool := false
  repair : Vector Bool 8 := Vector.replicate 8 false
  routers : Vector (BitVec 64) 8 := Vector.replicate 8 0
  found : Option Config.Findings := none
  flueLost : List (Nat × Nat) := []
  flueRepair : Vector Bool 8 := Vector.replicate 8 false
  deriving DecidableEq, Repr

/-- A reduction window (R386): registers, status, and the partial sets (element address, index, value). -/
structure Window where
  base : Word := 0
  cfg : Word := 0
  done : Word := 0
  rounds : BitVec 32 := 0
  discard : BitVec 16 := 0
  partials : List (Nat × List (Nat × Nat)) := []
  deriving DecidableEq, Repr

/-- An addition to a completion word that a completed round has left (R391): its address, and the core whose contribution completed the round
with the node that it ran. -/
structure DoneAdd where
  pa : Nat
  who : Option (Nat × Nat)
  deriving DecidableEq, Repr

/-- The kinds of maintenance slot (R419). -/
inductive SlotKind
  | minor | major
  deriving DecidableEq, Repr

/-- Where the calendar stands (R419, R420): the next slot that has not begun, the one in progress, and the hold. -/
structure Calendar where
  nextSlot : Nat := 1
  now : Option (Nat × SlotKind) := none
  hold : Bool := false
  deriving DecidableEq, Repr

/-- The content-named pool (R330, R331), and how many times it has been put into service. -/
structure Pool where
  base : Word := 0
  size : Word := 0
  setting : Bool := false
  epoch : Nat := 0
  deriving DecidableEq, Repr

/-- MSI-X (R447). -/
structure Msix where
  mask : BitVec 64 := BitVec.allOnes 64
  pending : BitVec 64 := 0
  level : BitVec 64 := 0
  table : SMap Word := []
  sent : List Nat := []
  deriving DecidableEq, Repr

/-- Attestation (R463). -/
structure Attest where
  nonce : BitVec 256 := 0
  busy : Bool := false
  done : Bool := false
  inProgress : List Byte := []
  report : List Byte := []
  deriving DecidableEq, Repr

/-- A write that takes effect at a later tick (R240, R330, R386). -/
structure LateWrite where
  at_ : Nat
  creg : BitVec 12
  v : Word
  die : Nat
  deriving DecidableEq, Repr

/-- A signal on its way (R170): the sender's core and bundle, the node, and the target. -/
structure SignalMsg where
  core : Nat
  bun : Nat
  node : Nat
  gang : Nat
  target : Nat
  deriving DecidableEq, Repr

/-- A replica of a line (R249): the node that made it, die and slice that hold it. -/
structure Replica where
  line : Nat
  node : Nat
  slice : Nat
  data : Line
  deriving DecidableEq, Repr

/-- A request of the translation block not yet counted (R245): for each core with accesses on their way, the bundle up to
which they must be performed. -/
structure Tinv where
  marks : List (Nat × Nat)
  deriving DecidableEq, Repr

/-- A request of the host (R441 to R444): to the local physical address that it names through the memory window, of which a read holds the
bytes got so far, an atomic operation there, or an access of so many bytes to the control window. -/
inductive HostReq
  | read (pa len : Nat) (got : List Byte)
  | write (pa : Nat) (data : List Byte)
  | atomic (pa len : Nat) (op : AtomicOp) (v c : Nat)
  | readReg (off len : Nat)
  | writeReg (off len : Nat) (v : Word)
  /-- The mask of an MSI-X vector cleared. -/
  | unmask (vec : Nat)
  deriving DecidableEq, Repr

/-- A request that waits at the host's bridge: its traffic class, and whether requests of other classes may go before it (R444). -/
structure BridgeReq where
  tc : BitVec 3
  slow : Bool
  req : HostReq
  deriving DecidableEq, Repr

/-- A request that has come over the Grizan links (R352, R371, R450): a contribution to a switch-homed window with the sending module's
configuration, or an access of a core of a peer module to a line of this one. -/
inductive LinkReq
  | contrib (w : BitVec 4) (pa : Nat) (idx : BitVec 24) (v peerCfg : Word)
  | load (pa len : Nat)
  | store (pa : Nat) (data : List Byte)
  | atomic (op : AtomicOp) (pa len v c : Nat)
  deriving DecidableEq, Repr

/-- What acts next: the model's own. -/
inductive Act
  | run (core : Nat)
  | tick
  | event (i : Instr)
  | bulkRow (core i : Nat)
  /-- Engine write `i` of a core reaches its home (R355). -/
  | engineWrite (core i : Nat)
  /-- A request comes over the links (R352, R371, R450). -/
  | link (r : LinkReq)
  /-- The host sends its next requests in a traffic class; the requests of the classes of a mask take their time (R444). -/
  | hostClass (t : BitVec 3)
  | hostSlow (mask : BitVec 8)
  /-- The host accesses its first address range, in any size (R441). -/
  | barRead (off len : Nat)
  | barWrite (off len : Nat) (v : Word)
  /-- Request `i` at the host's bridge is performed. -/
  | hostServe (i : Nat)
  /-- The fabric assigns a place in the domain, from the next reset on (R448). -/
  | fabric (size : BitVec 16) (mod : BitVec 11)
  /-- The home module of a switch-homed window has this configuration (R450). -/
  | homeCfg (w : BitVec 4) (cfg done : Word)
  /-- The supervisor sets a core aside, or gives it back (R86). -/
  | aside (core : Nat) (on : Bool)
  /-- An access of a core or of the host met an uncorrectable line (R426), or a module that has become unreachable (R449). -/
  | lineError (core : Option Nat) (pa : Nat)
  deriving DecidableEq, Repr

/-- The answer to the host's last read or request. -/
inductive Reply
  | none
  | word (v : Word)
  | bytes (l : List Byte)
  | abort
  | unsupported
  deriving DecidableEq, Repr

structure State where
  now : Nat := 0
  cores : SMap Core := []
  clusters : SMap Cluster := []
  dies : Vector Die 8 := Vector.replicate 8 {}
  hbm : Memory := []
  lineSeq : SMap Word := []
  stamp : Nat := 0
  replicas : List Replica := []
  part : Part := {}
  wear : Wear := {}
  service : Bool := false
  bootOk : Bool := false
  bootFailed : Bool := false
  fwDigest : BitVec 256 := 0
  stopped : Bool := false
  ptBase : Word := 0
  pool : Pool := {}
  late : List LateWrite := []
  windows : Vector Window 16 := Vector.replicate 16 {}
  switchParts : List (Nat × Nat × List (Nat × Nat)) := []
  reaping : List (Nat × Nat) := []
  tinvs : List Tinv := []
  tdone : BitVec 32 := 0
  mwbase : Word := 0
  domSize : BitVec 16 := 1
  domMod : BitVec 11 := 0
  fabric : BitVec 16 × BitVec 11 := (1, 0)
  attest : Attest := {}
  msix : Msix := {}
  zones : SMap Word := []
  calendar : Calendar := {}
  calEpoch : Nat := 0
  hot : List (Nat × Nat) := []
  hostQ : List BridgeReq := []
  hostTc : BitVec 3 := 0
  hostSlow : BitVec 8 := 0
  linkQ : List LinkReq := []
  homeCfgs : SMap (Word × Word) := []
  doneAdds : List DoneAdd := []
  nodes : List Node := []
  graphs : List Graph := []
  signals : List SignalMsg := []
  badLines : List Nat := []
  badPlaces : SMap Nat := []
  releases : List NarrowRelease := []
  lostModules : List Nat := []
  lastHold : Option (Nat × Nat) := none
  cur : Nat := 0
  turnFrom : Nat := 0
  agenda : List Act := []
  fresh : Nat := 0
  grants : Nat := 0
  nextNode : Nat := 1
  resets : Nat := 0
  reply : Reply := .none
  deriving DecidableEq, Repr

/-- The machine right after reset (R14, R27, R143 to R155 and the reset columns of the field maps). -/
def State.reset : State := {}

end Sys2Proof.Machine
end

