-- ==== Sys2Proof/Machine/Base.lean ====
section
/-! DEFINITION. Machine/Base.lean: access to the parts of the state by number, bytes of the memories, the hardware
queues with the error log and MSI-X, and the numbering of units. -/

namespace Sys2Proof.Machine

/-! ## Sparse maps -/

/-- What a map holds at a number, its default where nothing is listed. -/
def mapGet {α : Type} (d : α) (k : Nat) : SMap α → α
  | [] => d
  | (j, v) :: t => if k = j then v else mapGet d k t

/-- The map with another value at a number. -/
def mapSet {α : Type} (k : Nat) (v : α) : SMap α → SMap α
  | [] => [(k, v)]
  | (j, w) :: t => if k < j then (k, v) :: (j, w) :: t else if k = j then (k, v) :: t else (j, w) :: mapSet k v t

/-- The map without a number. -/
def mapDel {α : Type} (k : Nat) (m : SMap α) : SMap α := m.filter fun p => p.1 != k

/-! ## Lists -/

/-- An element placed after those that may precede it. -/
def insertBy {α : Type} (le : α → α → Bool) (a : α) : List α → List α
  | [] => [a]
  | b :: t => if le b a then b :: insertBy le a t else a :: b :: t

/-- A list in order, those of one rank as they stood. -/
def sortBy {α : Type} (le : α → α → Bool) (l : List α) : List α := l.foldl (fun r a => insertBy le a r) []

/-- Lexicographic order. -/
def lexLe : List Nat → List Nat → Bool
  | a :: s, b :: t => decide (a < b) || (a == b && lexLe s t)
  | _, _ => true

/-! ## Parts of the state -/

def State.core (s : State) (c : Nat) : Core := mapGet {} c s.cores
def State.modCore (s : State) (c : Nat) (f : Core → Core) : State := { s with cores := mapSet c (f (s.core c)) s.cores }

/-- The acting core. -/
def State.me (s : State) : Core := s.core s.cur
def State.modMe (s : State) (f : Core → Core) : State := s.modCore s.cur f

def State.cluster (s : State) (k : Nat) : Cluster := mapGet {} k s.clusters
def State.modCluster (s : State) (k : Nat) (f : Cluster → Cluster) : State :=
  { s with clusters := mapSet k (f (s.cluster k)) s.clusters }

def State.die (s : State) (d : Nat) : Die := s.dies.get (Fin.ofNat 8 d)
def State.modDie (s : State) (d : Nat) (f : Die → Die) : State :=
  { s with dies := s.dies.set (d % 8) (f (s.die d)) (Nat.mod_lt d (by decide)) }

def Core.modRegs (c : Core) (f : Regs → Regs) : Core := { c with regs := f c.regs }
def Core.modCtl (c : Core) (f : Ctl → Ctl) : Core := { c with ctl := f c.ctl }
def Core.modFlow (c : Core) (f : Flow → Flow) : Core := { c with flow := f c.flow }
def Core.modMem (c : Core) (f : Local → Local) : Core := { c with mem := f c.mem }
def Core.modMat (c : Core) (f : Matrix → Matrix) : Core := { c with mat := f c.mat }
def Core.modIssue (c : Core) (f : Issue → Issue) : Core := c.modFlow fun w => { w with issue := f w.issue }

/-- The next number of a free value, and the state that has taken it. -/
def State.take (s : State) : Nat × State := (s.fresh, { s with fresh := s.fresh + 1 })

/-- A fresh word, of which nothing is known. -/
def State.takeWord (s : State) : Word × State := (Config.freeWord s.fresh, { s with fresh := s.fresh + 1 })

/-! ## Numbering of units (R15, R16) -/

def coreKey (die idx : Nat) : Nat := die * 512 + idx
def dieOf (c : Nat) : Nat := c / 512
def coreIdx (c : Nat) : Nat := c % 512

/-- The logical cluster of a core, and the core's position in it: deconfiguration is by whole clusters (R20). -/
def clusterOf (c : Nat) : Nat := dieOf c * 64 + coreIdx c / 8
def laneOf (c : Nat) : Nat := c % 8
def coreOfCluster (k lane : Nat) : Nat := k / 64 * 512 + k % 64 * 8 + lane

/-- Positions of the set bits, ascending. -/
def bitsOf (w : Nat) (b : BitVec w) : List Nat := (List.range w).filter fun i => b.getLsbD i

def Part.clusterBits (p : Part) (d : Nat) : BitVec 64 := p.clusters.get (Fin.ofNat 8 d)
def Part.sliceBits (p : Part) (d : Nat) : BitVec 64 := p.slices.get (Fin.ofNat 8 d)
def Part.routerBits (p : Part) (d : Nat) : BitVec 64 := p.routers.get (Fin.ofNat 8 d)

/-- The routers of a die that are bypassed now, two bits a strip (R18). -/
def Wear.routerBits (w : Wear) (d : Nat) : BitVec 64 := w.routers.get (Fin.ofNat 8 d)
def Part.clusterCount (p : Part) (d : Nat) : Nat := (bitsOf 64 (p.clusterBits d)).length
def Part.coreCount (p : Part) (d : Nat) : Nat := 8 * p.clusterCount d

/-- The largest gang of a die (R21). -/
def Part.maxGang (p : Part) (d : Nat) : Nat := 2 ^ (p.coreCount d).log2

/-- The physical cluster (0 to 63) of a logical one. -/
def State.physCluster (s : State) (k : Nat) : Nat := (bitsOf 64 (s.part.clusterBits (k / 64))).getD (k % 64) 0

/-- The physical strip number of a core (R15): compute strip j is physical strip 3⌊j/2⌋ + j mod 2. -/
def State.stripOf (s : State) (c : Nat) : Nat :=
  let j := s.physCluster (clusterOf c) / 4
  3 * (j / 2) + j % 2

/-! ## Bytes (R2) -/

/-- The number that a list of bytes spells, the first lowest. -/
def bytesNat : List Byte → Nat
  | [] => 0
  | b :: t => b.toNat + 256 * bytesNat t

/-- The `n` bytes of a number, lowest first. -/
def natBytes (n v : Nat) : List Byte := (List.range n).map fun i => BitVec.ofNat 8 (v >>> (8 * i))

/-- A byte of a memory whose unlisted addresses read as zero. -/
def memGet (m : Memory) (a : Nat) : Byte :=
  match m with
  | [] => 0
  | (j, v) :: t => if a < j then 0 else if a = j then v else memGet t a

/-- A byte written: a zero removes the entry. -/
def memSet (m : Memory) (a : Nat) (b : Byte) : Memory :=
  match m with
  | [] => if b = 0 then [] else [(a, b)]
  | (j, v) :: t =>
    if a < j then (if b = 0 then (j, v) :: t else (a, b) :: (j, v) :: t)
    else if a = j then (if b = 0 then t else (a, b) :: t)
    else (j, v) :: memSet t a b

/-- The bytes written in order. -/
def memSetAll (m : Memory) (cells : List (Nat × Byte)) : Memory := cells.foldl (fun m p => memSet m p.1 p.2) m

/-- A block of bytes written from `a` on, in one pass. -/
def memBlock (m : Memory) (a : Nat) (l : List Byte) : Memory :=
  (m.filter fun p => decide (p.1 < a)) ++
    ((l.zipIdx.map fun p => (a + p.2, p.1)).filter fun p => p.2 != 0) ++
    m.filter fun p => decide (a + l.length ≤ p.1)

/-- The canonical form: addresses above `lo` strictly rising, no entry zero. -/
def memOk (lo : Nat) : Memory → Bool
  | [] => true
  | (j, v) :: t => decide (lo ≤ j) && v != 0 && memOk (j + 1) t

/-- A memory is well formed when it is canonical. -/
def Memory.wf (m : Memory) : Bool := memOk 0 m

def memRead (m : Memory) (a n : Nat) : Nat := bytesNat ((List.range n).map fun i => memGet m (a + i))
def memWrite (m : Memory) (a n v : Nat) : Memory :=
  memSetAll m ((natBytes n v).zipIdx.map fun p => (a + p.2, p.1))

/-! ## Local memories (R215 to R218, R229) -/

def spadSize : Nat := 262144
def sramSize : Nat := 2097152

/-- A scratchpad byte; what nothing has written since the node began is a free byte (R60). -/
def State.spadByte (s : State) (c off : Nat) : Byte :=
  let m := (s.core c).mem
  if m.written.getLsbD off then memGet m.spad off else Config.undefSpad ((s.resets * 2 ^ 64 + m.epoch) * 4096 + c) off

def State.sramByte (s : State) (k off : Nat) : Byte := memGet (s.cluster k).sram off

def Local.store (m : Local) (cells : List (Nat × Byte)) : Local :=
  { m with spad := memSetAll m.spad cells
           written := cells.foldl (fun w p => w ||| (BitVec.ofNat 262144 1 <<< p.1)) m.written }

/-- What remote reads do not see yet, without the bytes that another party has written since. -/
def Local.forget (m : Local) (cells : List (Nat × Byte)) : Local :=
  if m.unseen.isEmpty then m
  else { m with unseen := m.unseen.map fun u => { u with old := u.old.filter fun o => !(cells.any fun p => p.1 == o.1) } }

/-- A store of another party, or of an engine, to a scratchpad. -/
def State.spadStore (s : State) (c : Nat) (cells : List (Nat × Byte)) : State :=
  s.modCore c fun x => x.modMem fun m => (m.store cells).forget cells

/-- Domain physical address of a byte of a scratchpad, or of a shared SRAM, in its window (R236). -/
def State.spadAddr (s : State) (c off : Nat) : Nat := s.domMod.toNat * 2 ^ 48 + 0xC100000000 + c * 2 ^ 18 + off
def State.sramAddr (s : State) (k off : Nat) : Nat := s.domMod.toNat * 2 ^ 48 + 0xC200000000 + k * 2 ^ 21 + off

/-- The scratchpad bytes that stores replace, none for those that nothing has written. -/
def Local.oldBytes (m : Local) (cells : List (Nat × Byte)) : List (Nat × Option Byte) :=
  cells.map fun p => (p.1, if m.written.getLsbD p.1 then some (memGet m.spad p.1) else none)

/-- A store of a core to its own scratchpad, which remote reads see from issue + 4 onward (R223). -/
def State.ownStore (s : State) (c bun : Nat) (cells : List (Nat × Byte)) : State :=
  s.modCore c fun x => x.modMem fun m => ({ m with unseen := m.unseen ++ [⟨4, bun, m.oldBytes cells⟩] } : Local).store cells

/-- A cycle of a core passes for what remote reads do not see yet. -/
def Local.age (m : Local) : Local :=
  { m with unseen := (m.unseen.map fun u => { u with left := u.left - 1 }).filter fun u => u.left != 0 }

/-- A scratchpad byte as a remote read finds it (R223). -/
def State.remoteByte (s : State) (c off : Nat) : Byte :=
  match (s.core c).mem.unseen.findSome? fun u => u.old.lookup off with
  | some (some b) => b
  | some none => Config.undefSpad ((s.resets * 2 ^ 64 + (s.core c).mem.epoch) * 4096 + c) off
  | none => s.spadByte c off

def State.sramStore (s : State) (k : Nat) (cells : List (Nat × Byte)) : State :=
  s.modCluster k fun x => { x with sram := memSetAll x.sram cells }

def widthBytes : RowWidth → Nat
  | .w512 => 512
  | .w256 => 256
  | .w128 => 128
  | .w64 => 64
  | .w32 => 32

def elemBytes : ElemSize → Nat
  | .e1 => 1
  | .e2 => 2
  | .e4 => 4

/-- Bytes that an access moves: a row's width, or 512 for a column (R217, R218). -/
def shapeBytes : RowShape → Nat
  | .row w => widthBytes w
  | .col _ => 512

/-- The byte offsets of an access in register order (R217, R218). -/
def shapeOffsets (sh : RowShape) (off : Nat) : List Nat :=
  match sh with
  | .row w => (List.range (widthBytes w)).map (off + ·)
  | .col e => (List.range 512).map fun i => off + i / elemBytes e * 512 + i % elemBytes e

/-- Range and alignment of an access to a storage of `size` bytes (R216 to R218). -/
def shapeOk (size : Nat) (sh : RowShape) (off : Nat) : Bool :=
  match sh with
  | .row w => off % widthBytes w == 0 && decide (off + widthBytes w ≤ size)
  | .col e => decide (off < size) && off / 512 % 32 == 0 && off % elemBytes e == 0 &&
      decide (off / 512 + 512 / elemBytes e ≤ 512)

/-- The bank of a scratchpad byte (R215). -/
def bankOf (off : Nat) : Nat := (off % 512 / 32) ^^^ (off / 512 / 32 % 16)

/-- The banks that an access touches (R219). -/
def shapeBanks (sh : RowShape) (off : Nat) : List Nat :=
  let x := off % 512
  let y := off / 512
  match sh with
  | .row w => (List.range (widthBytes w / 32)).map fun i => (x / 32 + i) ^^^ (y / 32)
  | .col e => (List.range (16 / elemBytes e)).map fun i => (x / 32) ^^^ (y / 32 + i)

/-- The banks of a stretch of bytes, block by block. -/
def spanBanks (off len : Nat) : List Nat :=
  (List.range ((off + len - 1) / 32 + 1 - off / 32)).map fun i => bankOf (32 * (off / 32 + i))

/-- The row that an access reads, zeros above its bytes. -/
def readShape (byte : Nat → Byte) (sh : RowShape) (off : Nat) : RowBits :=
  BitVec.ofNat 4096 (bytesNat ((shapeOffsets sh off).map byte))

/-- The bytes that an access stores of a row. -/
def shapeCells (sh : RowShape) (off : Nat) (r : RowBits) : List (Nat × Byte) :=
  (shapeOffsets sh off).zipIdx.map fun p => (p.1, r.extractLsb' (8 * p.2) 8)

/-! ## Bank lock (R105, R235) -/

/-- Whether a core is frozen on SYNC, a hardware queue, SLEEP, MLEASE, PWRACQ or a remote read of its own: its lock holds nothing
then. -/
def Core.lockIdle (x : Core) : Bool :=
  match x.flow.frozen with
  | some (.sync _) | some (.queue _) | some .sleep | some .lease | some .power => true
  | some .landing => x.flow.pending.any fun p => p.remote && p.left == 0 && !(p.ready && p.need == 0)
  | _ => false

/-- Whether a core's lock makes an access to banks of its scratchpad wait (R235). -/
def Core.lockHolds (x : Core) (banks : List Nat) : Bool :=
  x.ctl.lockN != 0 && !x.lockIdle && banks.any fun b => x.ctl.lockP.getLsbD (b / 2)

/-! ## MSI-X (R447) -/

/-- A condition of vector `v` has become true: the message is sent, or the pending bit set. -/
def State.signalVector (s : State) (v : Nat) : State :=
  if s.msix.mask.getLsbD v then { s with msix := { s.msix with pending := s.msix.pending ||| (1#64 <<< v) } }
  else { s with msix := { s.msix with sent := s.msix.sent ++ [v] } }

/-- A change of a die after which its error log may have become non-empty (R447). -/
def State.modDieMsix (s : State) (d : Nat) (f : Die → Die) : State :=
  let t := s.modDie d f
  if (s.die d).qerr.isEmpty && !(t.die d).qerr.isEmpty then t.signalVector (8 * (d % 8) + 1) else t

/-! ## Hardware queues and the error log (R151, R466) -/

/-- The entry of kind 0xFF that carries the discard count. -/
def discardEntry (n : BitVec 32) : Word := (n.setWidth 64 <<< 32) ||| 0xFF

/-- A discard count owed goes in as soon as a word is free. -/
def Die.payDiscard (d : Die) : Die :=
  if d.qerrLost ≠ 0 ∧ d.qerr.length < 256 then { d with qerr := d.qerr ++ [discardEntry d.qerrLost], qerrLost := 0 }
  else d

def satInc32 (n : BitVec 32) : BitVec 32 := if n = BitVec.allOnes 32 then n else n + 1

/-- A hardware entry, pushed whole or discarded and counted. -/
def Die.pushEntry (d : Die) (ws : List Word) : Die :=
  let d := d.payDiscard
  if d.qerr.length + ws.length ≤ 256 then { d with qerr := d.qerr ++ ws } else { d with qerrLost := satInc32 d.qerrLost }

/-- An error-log entry of a kind with its following words (R151). -/
def State.logError (s : State) (die : Nat) (kind : BitVec 8) (following : List Word) : State :=
  s.modDieMsix die fun d =>
    d.pushEntry ((kind.setWidth 64 ||| (BitVec.ofNat 64 following.length <<< 8)) :: following)

/-! ## Addresses -/

/-- Last byte address of local HBM (R236), plus one. -/
def hbmSize : Nat := 0xC000000000

/-- Module number and local address of a domain physical address (R238). -/
def modOf (pa : Nat) : Nat := pa / 2 ^ 48
def localOf (pa : Nat) : Nat := pa % 2 ^ 48

/-- The parts of the local physical address space (R236). -/
inductive Region
  | hbm
  | control (off : Nat)
  | spad (core off : Nat)
  | sram (cluster off : Nat)
  | reserved
  deriving DecidableEq, Repr

/-- What a local physical address names (R236); windows of units that are not present are reserved. -/
def State.region (s : State) (pa : Nat) : Region :=
  if pa < hbmSize then .hbm
  else if 0xC000000000 ≤ pa ∧ pa < 0xC001000000 then .control (pa - 0xC000000000)
  else if 0xC100000000 ≤ pa ∧ pa < 0xC140000000 then
    let o := pa - 0xC100000000
    if o / 2 ^ 18 % 512 < s.part.coreCount (o / 2 ^ 27) then .spad (o / 2 ^ 18) (o % 2 ^ 18) else .reserved
  else if 0xC200000000 ≤ pa ∧ pa < 0xC240000000 then
    let o := pa - 0xC200000000
    if o / 2 ^ 21 % 64 < s.part.clusterCount (o / 2 ^ 27) then .sram (o / 2 ^ 21) (o % 2 ^ 21) else .reserved
  else .reserved

/-- The home slice (die, physical slice) of a line of HBM (R248). -/
def State.homeOf (s : State) (pa : Nat) : Nat × Nat :=
  let l := localOf pa / 128
  let h := (l % 512) ^^^ (l / 2 ^ 9 % 512) ^^^ (l / 2 ^ 18 % 512) ^^^ (l / 2 ^ 27 % 512) ^^^ (l / 2 ^ 36 % 32)
  let d := h / 64
  let sl := bitsOf 64 (s.part.sliceBits d)
  (d, sl.getD (h % 64 % sl.length) 0)

end Sys2Proof.Machine
end

