-- ==== Sys2Proof/Machine/Translate.lean ====
section
/-! DEFINITION. Machine/Translate.lean: from a virtual address to a physical one: the walk over the page tables, the
caches of translations, and the checks of a leaf against an access (spec 11, R236 to R244). -/

namespace Sys2Proof.Machine

/-- A fault of a walk: the cause, and the physical address that an error-log entry of kind 0x21 names. -/
structure WalkFault where
  code : BitVec 8
  log : Option Nat := none
  deriving DecidableEq, Repr

/-- Eight bytes of HBM, as a number. -/
def State.pte (s : State) (pa : Nat) : Nat := memRead s.hbm (s.domMod.toNat * 2 ^ 48 + pa) 8

/-- A field of an entry. -/
def bitsAt (e lo len : Nat) : Nat := e / 2 ^ lo % 2 ^ len

/-- The index of a virtual address at a level (R239). -/
def vaIndex (lvl va : Nat) : Nat := va / 2 ^ (52 - 9 * lvl) % 512

/-- Whether an entry at a level is a table entry (R242). -/
def isTableEntry (lvl e : Nat) : Bool := decide (lvl < 3) || (lvl == 3 && bitsAt e 43 2 == 0)

/-- 64 KiB or 32 MiB in units of 4 KiB. -/
def pieceUnit (lvl : Nat) : Nat := if lvl = 3 then 8192 else 16

/-- Whether an entry is malformed (R242), at position `i` of its group. -/
def badEntry (lvl i e : Nat) : Bool :=
  let ps := bitsAt e 43 2
  let addr := bitsAt e 0 36
  bitsAt e 36 7 != 0 || ps == 3 || (lvl == 3 && ps == 1) || (lvl == 4 && ps == 2) || (decide (lvl < 3) && ps != 0) ||
  (if isTableEntry lvl e then bitsAt e 45 18 != 0 || decide (hbmSize ≤ addr * 4096)
   else
     addr % pieceUnit lvl != 0 ||
     (ps == 1 && (decide (addr < 16 * i) || (addr - 16 * i) % 512 != 0)) ||
     (ps == 2 && (decide (addr < 8192 * i) || (addr - 8192 * i) % 2 ^ 18 != 0)))

/-- The first entry of a group of 32 that differs from what `e`, at position `i`, requires (R242): its position. -/
def groupDiffers (lvl i e : Nat) (g : List Nat) : Option Nat :=
  let unit := pieceUnit lvl
  (List.range 32).find? fun j =>
    let f := g.getD j 0
    bitsAt f 36 28 != bitsAt e 36 28 || bitsAt f 0 36 + i * unit != bitsAt e 0 36 + j * unit

/-- The leaf of an entry: the first page of its address range and the physical address there. -/
def leafOf (asid : BitVec 12) (lvl i va e : Nat) : Leaf :=
  let ps := bitsAt e 43 2
  let pages := if ps = 0 then 1 else if ps = 1 then 32 else 16384
  let pieces := if ps = 0 then 0 else i
  { asid := asid, vpn := va / 65536 / pages * pages, pages := pages
    base := bitsAt e 45 11 * 2 ^ 48 + (bitsAt e 0 36 - pieces * pieceUnit lvl) * 4096
    w := bitsAt e 62 1 == 1, x := bitsAt e 61 1 == 1, u := bitsAt e 60 1 == 1, sc := bitsAt e 59 1 == 1
    cn := bitsAt e 58 1 == 1, rhp := bitsAt e 57 1 == 1, msc := bitsAt e 56 1 == 1 }

/-- Whether the page of a leaf may be translated to: no reserved part, no absent module (R237, R238). -/
def State.leafAllowed (s : State) (l : Leaf) : Bool :=
  let m := modOf l.base
  let lo := localOf l.base
  let inHbm := decide (lo + l.pages * 65536 ≤ hbmSize)
  if m = s.domMod.toNat then
    inHbm || (List.range l.pages).all fun i => s.region (lo + i * 65536) != .reserved
  else decide (m < 1152) && decide (m < s.domSize.toNat) && inHbm

/-- The walk from table `t` at level `lvl`, with `fuel` levels to go (R242). -/
def State.walkFrom (s : State) (asid : BitVec 12) (va : Nat) : Nat → Nat → Nat → Except WalkFault Leaf
  | 0, _, _ => .error { code := 0x09 }
  | fuel + 1, lvl, t =>
    let idx := vaIndex lvl va
    let pa := t + 8 * idx
    let e := s.pte pa
    if bitsAt e 63 1 = 0 then .error { code := 0x08 }
    else if badEntry lvl (idx % 32) e then .error { code := 0x09, log := some pa }
    else if isTableEntry lvl e then s.walkFrom asid va fuel (lvl + 1) (bitsAt e 0 36 * 4096)
    else
      let first := t + 8 * (idx / 32 * 32)
      let bad := if bitsAt e 43 2 = 0 then none
        else groupDiffers lvl (idx % 32) e ((List.range 32).map fun j => s.pte (first + 8 * j))
      match bad with
      | some j => .error { code := 0x09, log := some (first + 8 * j) }
      | none =>
        let l := leafOf asid lvl (idx % 32) va e
        if s.leafAllowed l then .ok l else .error { code := 0x09 }

/-- The walk of an address under an address-space number (R240, R242). -/
def State.walk (s : State) (asid : BitVec 12) (va : Nat) : Except WalkFault Leaf :=
  let pa := s.ptBase.toNat + 8 * asid.toNat
  if hbmSize ≤ pa then .error { code := 0x09, log := some pa }
  else
    let e := s.pte pa
    if bitsAt e 63 1 = 0 then .error { code := 0x08 }
    else if bitsAt e 48 15 != 0 || bitsAt e 0 12 != 0 || decide (hbmSize ≤ bitsAt e 12 36 * 4096) then
      .error { code := 0x09, log := some pa }
    else s.walkFrom asid va 4 1 (bitsAt e 12 36 * 4096)

/-- The addresses of the entries that a walk from table `t` reads, with `fuel` levels to go. -/
def State.walkReads (s : State) (va : Nat) : Nat → Nat → Nat → List Nat
  | 0, _, _ => []
  | fuel + 1, lvl, t =>
    let idx := vaIndex lvl va
    let pa := t + 8 * idx
    let e := s.pte pa
    if bitsAt e 63 1 = 0 || badEntry lvl (idx % 32) e then [pa]
    else if isTableEntry lvl e then pa :: s.walkReads va fuel (lvl + 1) (bitsAt e 0 36 * 4096)
    else if bitsAt e 43 2 = 0 then [pa]
    else [t + 8 * (idx / 32 * 32), t + 8 * (idx / 32 * 32) + 128]

/-- The lines that the walk of an address reads and that hold an uncorrectable error (R426). -/
def State.walkErrors (s : State) (asid : BitVec 12) (va : Nat) : List Nat :=
  let pa := s.ptBase.toNat + 8 * asid.toNat
  let l := if hbmSize ≤ pa then []
    else
      let e := s.pte pa
      pa :: if bitsAt e 63 1 = 0 || bitsAt e 48 15 != 0 || bitsAt e 0 12 != 0 || decide (hbmSize ≤ bitsAt e 12 36 * 4096) then []
        else s.walkReads va 4 1 (bitsAt e 12 36 * 4096)
  ((l.map fun p => (s.domMod.toNat * 2 ^ 48 + p) / 128).filter fun n => s.badLines.contains n).dedup

def State.firstAct (s : State) (a : Act) : State := { s with agenda := a :: s.agenda }

/-- Uncorrectable lines met by a core or, with none, by the host: each is acted on in a step of its own (R426). -/
def State.lineErrors (s : State) (who : Option Nat) (lines : List Nat) : State :=
  lines.foldl (fun s l => s.firstAct (.lineError who (l * 128))) s

/-! ## Cached translations (R244) -/

def Leaf.covers (l : Leaf) (asid : BitVec 12) (va : Nat) : Bool :=
  l.asid == asid && decide (l.vpn ≤ va / 65536) && decide (va / 65536 < l.vpn + l.pages)

def Leaf.pa (l : Leaf) (va : Nat) : Nat := l.base + (va - l.vpn * 65536)

/-- The cached leaf for an address, from the core's entries or its cluster's. -/
def State.tlbFind (s : State) (c : Nat) (asid : BitVec 12) (va : Nat) : Option Leaf :=
  ((s.core c).mem.tlb ++ (s.cluster (clusterOf c)).tlb).find? fun l => l.covers asid va

/-- A leaf installed in both; the oldest entries leave. -/
def State.tlbInstall (s : State) (c : Nat) (l : Leaf) : State :=
  let s := s.modCore c fun x => x.modMem fun m => { m with tlb := (l :: m.tlb).take 64 }
  s.modCluster (clusterOf c) fun k => { k with tlb := (l :: k.tlb).take 1024 }

/-- The address-space number of a core's translations: that of the handler while one runs (R405). -/
def Core.activeAsid (c : Core) : BitVec 12 :=
  if c.ctl.handler then c.ctl.trapVec.extractLsb' 52 12 else c.ctl.asid

/-- Translation of an address for a core: cached, or walked now and installed; a fault is logged by R242. -/
def State.translate (s : State) (c : Nat) (va : Word) : State × Except Trap Leaf :=
  let asid := (s.core c).activeAsid
  if 2 ^ 52 ≤ va.toNat then (s, .error ⟨0x09, va⟩)
  else
    match s.tlbFind c asid va.toNat with
    | some l => (s, .ok l)
    | none =>
      let s := s.lineErrors (some c) (s.walkErrors asid va.toNat)
      match s.walk asid va.toNat with
      | .ok l => (s.tlbInstall c l, .ok l)
      | .error f =>
        ((match f.log with
          | some pa => s.logError (dieOf c) 0x21 [BitVec.ofNat 64 pa]
          | none => s), .error ⟨f.code, va⟩)

/-- Whether an address needs a walk: what a maintenance slot holds (R420). -/
def State.needsWalk (s : State) (c : Nat) (va : Word) : Bool :=
  decide (va.toNat < 2 ^ 52) && (s.tlbFind c (s.core c).activeAsid va.toNat).isNone

/-! ## Checks of a leaf (R237, R243) -/

/-- What an access asks of its page. -/
inductive Need
  | read | write | fetch
  /-- An atomic that writes, or one that only reads (R272). -/
  | atomic | atomicRead
  /-- The global side of a bulk transfer: read or written; windows are permitted, other parts are not (R266). -/
  | bulkRead | bulkWrite
  /-- A drain, CNOUT, a root entry of CNSWAP, a weight image, a contribution. -/
  | engineWrite | root | image | window
  deriving DecidableEq, Repr

/-- Offsets of the control window that only the host may access (R69, R463). -/
def hostOnly (off : Nat) : Bool :=
  (decide (0x8000 ≤ off) && decide (off < 0x8800)) || (decide (0x40000 ≤ off) && decide (off < 0x45800))

/-- The capability list (R22, R24). -/
def inCapabilities (off : Nat) : Bool := decide (0x10000 ≤ off) && decide (off < 0x10130)

/-- The fault of an access of `len` bytes at physical address `pa` under a leaf, if any (R237, R243, R266, R272). -/
def State.leafFault (s : State) (c : Nat) (n : Need) (l : Leaf) (pa len : Nat) : Option (BitVec 8) :=
  let store := match n with
    | .write | .atomic | .bulkWrite | .engineWrite | .root | .window => true
    | _ => false
  let region := if modOf pa = s.domMod.toNat then s.region (localOf pa) else .hbm
  let hbm := region == .hbm
  if store && !l.w then some 0x09
  else if n == .fetch && !l.x then some 0x09
  else if !(s.core c).ctl.priv && !l.u then some 0x09
  else match n with
    | .read | .write | .fetch =>
      if n == .write && l.cn then some 0x09
      else match region with
        | .control off =>
          if len ≠ 8 then some 0x0A
          else if l.u then some 0x09
          else if hostOnly off || (n == .write && inCapabilities off) then some 0x09
          else none
        | .reserved => some 0x09
        | _ => none
    | .atomic => if !hbm || l.cn then some 0x09 else none
    | .atomicRead => if !hbm then some 0x09 else none
    | .bulkRead | .bulkWrite =>
      if l.cn then some 0x09
      else match region with
        | .control _ | .reserved => some 0x09
        | .spad _ off => if spadSize < off + len then some 0x09 else none
        | .sram _ off => if sramSize < off + len then some 0x09 else none
        | .hbm => none
    | .engineWrite => if l.cn || !hbm then some 0x09 else none
    | .root => if !l.cn || !hbm || modOf pa ≠ s.domMod.toNat then some 0x09 else none
    | .image | .window => if !hbm then some 0x09 else none

/-- Translation and check of one access: the leaf and the physical address, or the trap (R239, R243). -/
def State.access (s : State) (c : Nat) (n : Need) (va : Word) (len : Nat) : State × Except Trap (Leaf × Nat) :=
  match s.translate c va with
  | (s, .error t) => (s, .error t)
  | (s, .ok l) =>
    match s.leafFault c n l (l.pa va.toNat) len with
    | some code => (s, .error ⟨code, va⟩)
    | none => (s, .ok (l, l.pa va.toNat))

end Sys2Proof.Machine
end

