-- ==== Sys2Proof/Machine/Control.lean ====
section
/-! DEFINITION. Machine/Control.lean: the control window (spec 01 R22 to R25; 04 R66 to R71; 11 R245; 19 R410; 22 R441 to
R448; 23 R457, R463): launch FIFOs, the capability list, mailboxes, and its registers as reads and writes. A write of a
request register (a kill, a cancel) puts the request before the serai of the die, whose next cycle serves it. -/

namespace Sys2Proof.Machine

/-! ## Launches (R66 to R71) -/

/-- Node states that hold no serai entry (R75). -/
def NodeState.isFinal : NodeState → Bool
  | .done | .cancelled | .killed | .rejected => true
  | _ => false

/-- Free serai entries of a die (R70, R75). -/
def State.seraiFree (s : State) (d : Nat) : Nat :=
  4096 - (s.nodes.filter fun n => n.die == d && !n.state.isFinal).length

def sourceCode : Source → Nat
  | .host => 0
  | .spawn => 1
  | .queue => 2

def Die.seq (d : Die) : Source → BitVec 32
  | .host => d.seqHost
  | .spawn => d.seqSpawn
  | .queue => d.seqQueue

def Die.bumpSeq (d : Die) : Source → Die
  | .host => { d with seqHost := d.seqHost + 1 }
  | .spawn => { d with seqSpawn := d.seqSpawn + 1 }
  | .queue => { d with seqQueue := d.seqQueue + 1 }

/-- A graph handle (R68). -/
def graphHandle (src : Source) (die : Nat) (seq : BitVec 32) : Word :=
  BitVec.ofNat 64 (sourceCode src * 2 ^ 35 + die % 8 * 2 ^ 32 + seq.toNat)

/-- Whether the module accepts graphs (R71). -/
def State.accepts (s : State) : Bool := s.service && !s.stopped

/-- Whether a die's launch FIFO takes a graph now. -/
def State.launchRoom (s : State) (d : Nat) : Bool := s.accepts && decide ((s.die d).fifo.length < 16)

/-- A launch into the FIFO of a die with room: the handle it receives (R68). -/
def State.enqueueLaunch (s : State) (d : Nat) (src : Source) (w : Word) (after : Option (Nat × Nat)) : State × Word :=
  let h := graphHandle src d ((s.die d).seq src)
  (s.modDie d fun x => { x.bumpSeq src with fifo := x.fifo ++ [⟨w, h, after⟩] }, h)

/-- The host's launch (R67, R71). -/
def State.hostLaunch (s : State) (d : Nat) (w : Word) : State :=
  if s.launchRoom d then (s.enqueueLaunch d .host w none).1
  else
    (s.modDie d fun x => { x with lost := true }).modDieMsix d fun x =>
      x.pushEntry [BitVec.ofNat 64 (0x11 + 0x100 + d % 8 * 2 ^ 32), w]

/-- LSTAT (R70). -/
def State.lstatWord (s : State) (d : Nat) : Word :=
  let x := s.die d
  BitVec.ofNat 64 (x.seqHost.toNat * 2 ^ 32 + (if x.lost then 2 ^ 31 else 0) + (16 - x.fifo.length) * 2 ^ 16 +
    s.seraiFree d)

/-- MBSTAT (R445). -/
def State.mbstatWord (s : State) (d : Nat) : Word :=
  let x := s.die d
  BitVec.ofNat 64 ((if x.mbLost then 2 ^ 63 else 0) + (256 - x.h2d.length) * 2 ^ 32 + x.d2h.length)

/-- A read of LSTAT, which clears LOST. -/
def State.readLstat (s : State) (d : Nat) : State × Word :=
  (s.modDie d fun x => { x with lost := false }, s.lstatWord d)

/-- A read of MBSTAT, which clears LOST. -/
def State.readMbstat (s : State) (d : Nat) : State × Word :=
  (s.modDie d fun x => { x with mbLost := false }, s.mbstatWord d)

/-- The entries at the end of a die's device-to-host mailbox that cores have pushed in this tick: a post of the same tick goes before them
(R446). -/
def State.newPushes (s : State) (d : Nat) : Nat := if (s.die d).pushAt = some s.now then (s.die d).pushes else 0

/-- The words of posts that have entered the mailbox in this tick. -/
def State.newPosted (s : State) (d : Nat) : Nat := if (s.die d).pushAt = some s.now then (s.die d).posted else 0

/-- A read of MBPOP (R445): the pop takes an old head, and what has entered in the same tick follows it (R446). -/
def State.readMbpop (s : State) (d : Nat) : State × Word :=
  match (s.die d).d2h with
  | [] => (s, 0)
  | w :: t => if t.length < s.newPushes d + s.newPosted d then (s, 0) else (s.modDie d fun x => { x with d2h := t }, w)

/-- What has entered the mailbox in this tick: its message is sent with the next tick, when it can be read (R447). -/
def Die.entered (x : Die) (now pushes posted : Nat) : Die :=
  { x with pushAt := some now, pushes := pushes, posted := posted, rise := x.rise || x.d2h.isEmpty }

/-- A word that a core pushes to the device-to-host mailbox. -/
def State.pushMailbox (s : State) (d : Nat) (w : Word) : State :=
  s.modDie d fun x => { x.entered s.now (s.newPushes d + 1) (s.newPosted d) with d2h := x.d2h ++ [w] }

/-- A post of three words that enters the mailbox. -/
def State.postMailbox (s : State) (d : Nat) (ws : List Word) : State :=
  s.modDie d fun x =>
    let n := x.d2h.length - s.newPushes d
    { x.entered s.now (s.newPushes d) (s.newPosted d + ws.length) with d2h := x.d2h.take n ++ ws ++ x.d2h.drop n }

/-- The message of a mailbox that has become non-empty is sent (R447). -/
def State.announce (s : State) (d : Nat) : State :=
  if (s.die d).rise then (s.modDie d fun x => { x with rise := false }).signalVector (8 * (d % 8)) else s

/-- The message of a result register whose DONE becomes set (R447). -/
def State.signalDone (s : State) (old : Word) (v : Nat) : State := if old.getLsbD 63 then s else s.signalVector v

/-- A write of MBPUSH (R445). -/
def State.writeMbpush (s : State) (d : Nat) (w : Word) : State :=
  s.modDie d fun x => if x.h2d.length < 256 then { x with h2d := x.h2d ++ [w] } else { x with mbLost := true }

/-! ## The capability list (R22 to R25) -/

/-- The header of an entry; the last entry has no next. -/
def capHeader (type len : Nat) (last : Bool) : List Byte :=
  natBytes 8 (type + 0x100 + len * 2 ^ 16 + (if last then 0 else len) * 2 ^ 32)

def eight {α : Type} (f : Nat → α) : List α := (List.range 8).map f

def popNat (w : Nat) (b : BitVec w) : Nat := (bitsOf w b).length

/-- The greatest value of a map on the numbers from `lo` on, `n` of them. -/
def worstOf (m : List (Nat × Nat)) (lo n : Nat) : Nat :=
  (m.filter fun p => decide (lo ≤ p.1) && decide (p.1 < lo + n)).foldl (fun a p => max a p.2) 0

/-- The worst guard-band step and the worst wear level of a die (R24, R458). -/
def Wear.worstStep (w : Wear) (d : Nat) : Nat := worstOf w.step (512 * d) 512
def Wear.worstLevel (w : Wear) (d : Nat) : Nat :=
  let v (m : SMap (BitVec 8)) : List (Nat × Nat) := m.map fun p => (p.1, p.2.toNat)
  max (worstOf (v w.coreLevel) (512 * d) 512) (max (worstOf (v w.sliceLevel) (64 * d) 64) (worstOf (v w.routerLevel) (48 * d) 48))

/-- The bytes of the list as it stands. The wear-state entry shows a floor that is breached on every die (log entry 60), and counts the
marks of clusters and slices apart from those of strips (log entry 61). -/
def State.capabilities (s : State) : List Byte :=
  let z (n : Nat) : List Byte := List.replicate n 0
  let b (v : Nat) : Byte := BitVec.ofNat 8 v
  capHeader 1 48 false ++ [0xFF] ++ eight (fun d => b (s.part.clusterCount d)) ++
    eight (fun d => b (popNat 64 (s.part.sliceBits d))) ++ eight (fun d => b (s.part.coreCount d).log2) ++ z 15 ++
  capHeader 2 16 false ++ natBytes 4 0xFF ++ z 4 ++
  capHeader 3 16 false ++ [if s.part.charge then 1 else 0, 7, 3, 7] ++ z 4 ++
  capHeader 4 16 false ++ [1, 128, 16] ++ z 5 ++
  capHeader 5 16 false ++ [16, 3] ++ z 6 ++
  capHeader 6 80 false ++ [8, 64] ++ z 6 ++ (eight fun d => natBytes 8 (s.part.routerBits d).toNat).flatten ++
  capHeader 7 32 false ++ natBytes 8 (8 * 2 ^ 30) ++ natBytes 8 hbmSize ++ z 8 ++
  capHeader 8 80 true ++ natBytes 8 s.wear.generation.toNat ++
    (eight fun d =>
      [b (popNat 64 (s.wear.clusters.get (Fin.ofNat 8 d))), b (popNat 64 (s.wear.slices.get (Fin.ofNat 8 d))),
       b (popNat 24 (s.wear.strips.get (Fin.ofNat 8 d))), b (s.wear.worstStep d), b (s.wear.worstLevel d),
       if s.wear.below then 1 else 0,
       if s.wear.repair.get (Fin.ofNat 8 d) then 1 else 0, 0]).flatten

/-! ## Attestation (R463) -/

/-- ATSTAT. -/
def State.atstat (s : State) : Word :=
  BitVec.ofNat 64 ((if s.bootOk then 2 ^ 63 else 0) + (if s.attest.busy then 2 ^ 62 else 0) +
    (if s.attest.done then 2 ^ 61 else 0))

/-- A write of eight bytes of NONCE. -/
def Attest.writeNonce (a : Attest) (k : Nat) (v : Word) : Attest :=
  let mask : BitVec 256 := (BitVec.allOnes 64).setWidth 256 <<< (64 * k)
  { a with nonce := (a.nonce &&& ~~~mask) ||| (v.setWidth 256 <<< (64 * k)), done := false }

/-! ## Registers of the window -/

/-- A word of the MSI-X table or pending-bit array (R447): mask bits stand in bit 32 of the odd words. -/
def State.msixRead (s : State) (off : Nat) : Word :=
  if off = 0xD800 then s.msix.pending
  else if off < 0xD400 then
    let k := (off - 0xD000) / 8
    let w := mapGet 0 k s.msix.table
    if k % 2 = 1 then (w &&& ~~~(1#64 <<< 32)) ||| (if s.msix.mask.getLsbD (k / 2) then 1#64 <<< 32 else 0) else w
  else 0

/-- The condition of a vector as it stands (R447): the results of requests count while their DONE is set. -/
def State.vectorHolds (s : State) (v : Nat) : Bool :=
  let d := s.die (v / 8)
  match v % 8 with
  | 0 => !d.d2h.isEmpty
  | 1 => !d.qerr.isEmpty
  | 2 => d.lcResult.getLsbD 63 || d.lqResult.getLsbD 63
  | 3 => d.kResult.getLsbD 63 || d.pResult.getLsbD 63
  | _ => false

/-- A vector unmasked: a message that was held is sent if its condition still holds (R447). -/
def State.unmask (s : State) (v : Nat) : State :=
  let m := { s.msix with mask := s.msix.mask &&& ~~~(1#64 <<< v) }
  if m.pending.getLsbD v then
    let m := { m with pending := m.pending &&& ~~~(1#64 <<< v) }
    if s.vectorHolds v then { s with msix := { m with sent := m.sent ++ [v] } } else { s with msix := m }
  else { s with msix := m }

/-- The bits that an odd word of the table holds: message data, and of Vector Control the mask bit alone, which stands in `mask`. -/
def msixMask : Word := 0xFFFFFFFF

def State.msixWrite (s : State) (off : Nat) (v : Word) : State :=
  if off < 0xD400 then
    let k := (off - 0xD000) / 8
    let s := { s with msix := { s.msix with table := mapSet k (if k % 2 = 1 then v &&& msixMask else v) s.msix.table } }
    if k % 2 = 1 then
      if v.getLsbD 32 then { s with msix := { s.msix with mask := s.msix.mask ||| (1#64 <<< (k / 2)) } }
      else s.unmask (k / 2)
    else s
  else s

/-- DOMAIN (R448). -/
def State.domainWord (s : State) : Word := (s.domSize.setWidth 64 <<< 32) ||| s.domMod.setWidth 64

/-- An aligned eight-byte read of the control window, with what the read changes. -/
def State.controlRead (s : State) (off : Nat) : State × Word :=
  if 0x8000 ≤ off ∧ off < 0x8800 then
    let d := (off - 0x8000) / 0x100
    match off % 0x100 with
    | 0x08 => s.readLstat d
    | 0x18 => (s, (s.die d).lcResult)
    | 0x28 => (s, (s.die d).lqResult)
    | _ => (s, 0)
  else if off = 0xA008 then (s, s.tdone.setWidth 64)
  else if off = 0xB000 then (s, s.mwbase)
  else if off = 0xB008 then (s, s.domainWord)
  else if 0xC000 ≤ off ∧ off < 0xC200 then
    let d := (off - 0xC000) / 0x40
    match off % 0x40 with
    | 0x08 => s.readMbpop d
    | 0x10 => s.readMbstat d
    | _ => (s, 0)
  else if 0xD000 ≤ off ∧ off < 0xE000 then (s, s.msixRead off)
  else if 0xE000 ≤ off ∧ off < 0xE400 then (s, mapGet 0 ((off - 0xE000) / 8) s.zones)
  else if 0x10000 ≤ off ∧ off < 0x10130 then
    (s, BitVec.ofNat 64 (bytesNat ((s.capabilities.drop (off - 0x10000)).take 8)))
  else if 0x20000 ≤ off ∧ off < 0x30000 then
    let d := (off - 0x20000) / 0x2000
    let r := off % 0x2000
    if r = 0x008 then (s, (s.die d).kResult)
    else if r = 0x018 then (s, (s.die d).pResult)
    else if 0x1000 ≤ r then (s, mapGet 0 ((r - 0x1000) / 8) (s.die d).timers)
    else (s, 0)
  else if off = 0x40028 then (s, s.atstat)
  else if 0x41000 ≤ off ∧ off < 0x45800 ∧ s.attest.done then
    (s, BitVec.ofNat 64 (bytesNat ((s.attest.report.drop (off - 0x41000)).take 8)))
  else (s, 0)

/-- A result register with DONE cleared. -/
def clearDone (w : Word) : Word := w &&& ~~~(1#64 <<< 63)

/-- A request put before the serai of a die (R69, R410). -/
def State.ask (s : State) (d : Nat) (a : Ask) : State := s.modDie d fun x => { x with asks := x.asks ++ [a] }

/-- The timer entry of a core (R410). -/
def State.timerEntry (s : State) (c : Nat) : Word := mapGet 0 (coreIdx c) (s.die (dieOf c)).timers

/-- The entry of a timer whose cause is taken returns to 0 (R412). -/
def State.clearTimer (s : State) (c : Nat) : State :=
  (s.modDie (dieOf c) fun d => { d with timers := mapDel (coreIdx c) d.timers }).modCore c fun x =>
    x.modCtl fun t => { t with timerPassed := false }

/-- TIMER_DEADLINE: a deadline that has passed makes 0x31 pending where a node runs, and is discarded elsewhere (R412). -/
def State.timerDeadline (s : State) (c : Nat) : State :=
  let t := s.timerEntry c
  if t ≠ 0 ∧ t.toNat ≤ s.now ∧ ¬(s.core c).ctl.timerPassed then
    if (s.core c).run.isSome then s.modCore c fun x => x.modCtl fun u => { u with timerPassed := true }
    else s.clearTimer c
  else s

/-- The deadlines that a new tick brings (R412). -/
def State.timerDeadlines (s : State) : State :=
  (List.range 8).foldl (fun (s : State) d =>
    (s.die d).timers.foldl (fun (s : State) p => s.timerDeadline (coreKey d p.1)) s) s

/-- A timer entry set (R410, R412): entries of cores that are not present are ignored. -/
def State.setTimer (s : State) (d c : Nat) (v : Word) : State :=
  if c < s.part.coreCount d then
    let s := s.modDie d fun x => { x with timers := if v = 0 then mapDel c x.timers else mapSet c v x.timers }
    let s := if (s.core (coreKey d c)).ctl.timerPassed then
        s.modCore (coreKey d c) fun x => x.modCtl fun t => { t with timerPassed := false }
      else s
    s.timerDeadline (coreKey d c)
  else s

/-! ## The translation block (R245) -/

/-- Whether a request names a cached leaf. -/
def tinvNames (v : Word) (l : Leaf) : Bool :=
  match bitsAt v.toNat 0 2 with
  | 0 => l.covers (v.extractLsb' 52 12) (bitsAt v.toNat 16 36 * 65536)
  | 1 => l.asid == v.extractLsb' 52 12
  | _ => true

/-- A core with accesses that may have used a cached translation. -/
def Core.inFlight (x : Core) : Bool :=
  !x.mem.memq.isEmpty || !x.mem.bulk.isEmpty || !x.mem.outs.isEmpty || !x.mat.cmds.isEmpty || !x.mem.cn.isEmpty

/-- TINV: the leaves that it names are dropped, and the request waits for the accesses on their way. -/
def State.writeTinv (s : State) (die : Nat) (v : Word) : State :=
  if bitsAt v.toNat 2 14 != 0 || bitsAt v.toNat 0 2 == 3 then s.logError die 0x22 [v]
  else
    { s with
      tinvs := s.tinvs ++ [⟨(s.cores.filter fun p => p.2.inFlight).map fun p => (p.1, p.2.flow.bun)⟩]
      cores := s.cores.map fun p => (p.1, p.2.modMem fun m => { m with tlb := m.tlb.filter fun l => !tinvNames v l })
      clusters := s.clusters.map fun p => (p.1, { p.2 with tlb := p.2.tlb.filter fun l => !tinvNames v l }) }

/-- Whether everything that a core had on its way in bundles up to `bun` is performed. -/
def Core.doneUpTo (x : Core) (bun : Nat) : Bool :=
  x.mem.memq.all (fun m => decide (bun < m.bun)) && x.mem.bulk.all (fun b => decide (bun < b.bun)) &&
    x.mem.outs.all (fun o => decide (bun < o.bun)) && x.mat.cmds.all (fun q => decide (bun < q.bun)) &&
    (x.mem.cn.isEmpty || decide (bun < x.flow.bun))

/-- TINV_COMPLETION: TDONE counts the request at the head. -/
def State.tinvComplete (s : State) : State :=
  match s.tinvs with
  | [] => s
  | r :: t =>
    if r.marks.all fun m => (s.core m.1).doneUpTo m.2 then { s with tinvs := t, tdone := s.tdone + 1 } else s

/-- An aligned eight-byte write of the control window, by a core of a die or (0) the host; AGO, which only the host reaches, is served at
its bridge. -/
def State.controlWrite (s : State) (die off : Nat) (v : Word) : State :=
  if 0x8000 ≤ off ∧ off < 0x8800 then
    let d := (off - 0x8000) / 0x100
    match off % 0x100 with
    | 0x00 => s.hostLaunch d v
    | 0x10 => (s.modDie d fun x => { x with lcResult := clearDone x.lcResult }).ask d { kind := .hostCancel v }
    | 0x20 => (s.modDie d fun x => { x with lqResult := clearDone x.lqResult }).ask d { kind := .hostQuery v }
    | _ => s
  else if off = 0xA000 then
    s.writeTinv die v
  else if off = 0xB000 then { s with mwbase := BitVec.ofNat 64 (bitsAt v.toNat 30 18 * 2 ^ 30) }
  else if 0xC000 ≤ off ∧ off < 0xC200 then
    if off % 0x40 = 0 then s.writeMbpush ((off - 0xC000) / 0x40) v else s
  else if 0xD000 ≤ off ∧ off < 0xE000 then s.msixWrite off v
  else if 0x20000 ≤ off ∧ off < 0x30000 then
    let d := (off - 0x20000) / 0x2000
    let r := off % 0x2000
    if r = 0x000 then (s.modDie d fun x => { x with kResult := clearDone x.kResult }).ask d { kind := .kill v }
    else if r = 0x010 then
      (s.modDie d fun x => { x with pResult := clearDone x.pResult }).ask d { kind := .preempt v }
    else if 0x1000 ≤ r then s.setTimer d ((r - 0x1000) / 8) v
    else s
  else if 0x40000 ≤ off ∧ off < 0x40020 then
    { s with attest := s.attest.writeNonce ((off - 0x40000) / 8) v }
  else s

end Sys2Proof.Machine
end

