-- ==== Sys2Proof/Machine/Home.lean ====
section
/-! DEFINITION. Machine/Home.lean: where accesses are performed: bytes at home, read caches, replicas, sequence numbers,
monitors and watches, the load and store queues of a core with their order, atomics and reduction windows (spec 11, R246
to R250; spec 12, R271 to R281; spec 16; spec 17, R386 to R394; spec 22, R450). -/

namespace Sys2Proof.Machine

/-! ## What a write at home reaches -/

def PlaneKey.covers (k : PlaneKey) (line : Nat) : Bool :=
  k.pages.any fun p => decide (p.1 / 128 ≤ line) && decide (line * 128 < p.1 + p.2)

/-- The watch state of planes whose image holds the line ends (R304). -/
def Planes.unwatch (line : Nat) (p : Planes) : Planes :=
  match p.key with
  | some k => if k.covers line then { p with key := some { k with watch := false } } else p
  | none => p

def Macro.unwatch (line : Nat) (m : Macro) : Macro := ⟨m.active.unwatch line, m.shadow.unwatch line⟩

/-- A SLEEP monitor sees a write of another party to its line (R169). -/
def Flow.seen (line : Nat) (f : Flow) : Flow :=
  match f.monitor with
  | some (l, _) => if l = line then { f with monitor := some (l, true) } else f
  | none => f

/-- Lines of an image that a weight load is reading are written, those from `lo` up to `hi` (R304). -/
def Queued.seen (lo hi : Nat) (q : Queued) : Queued :=
  match q.cmd with
  | .load _ _ images =>
    if !q.got.isEmpty && images.any fun im => im.2.any fun p => decide (p.1 / 128 < hi) && decide (lo * 128 < p.1 + p.2) then
      { q with stale := true }
    else q
  | _ => q

def Core.seen (lo hi : Nat) (x : Core) : Core :=
  if x.mat.cmds.isEmpty then x else x.modMat fun m => { m with cmds := m.cmds.map (Queued.seen lo hi) }

/-- A write to a line by a core, its engines, or (`none`) the host or a peer has been performed. -/
def State.lineWritten (s : State) (who : Option Nat) (line : Nat) : State :=
  { s with
    clusters := s.clusters.map fun p => (p.1, { p.2 with macros := p.2.macros.map (·.unwatch line) })
    cores := s.cores.map fun p => (p.1, if some p.1 = who then p.2.seen line (line + 1) else (p.2.seen line (line + 1)).modFlow (·.seen line)) }

/-- The watch state of planes ends whose image reaches into a stretch of HBM (R304). -/
def Planes.unwatchRange (lo hi : Nat) (p : Planes) : Planes :=
  match p.key with
  | some k =>
    if k.pages.any fun r => decide (r.1 < hi) && decide (lo < r.1 + r.2) then { p with key := some { k with watch := false } } else p
  | none => p

/-- A SLEEP monitor sees a write to one of the lines from `lo` up to `hi` (R169). -/
def Flow.seenRange (lo hi : Nat) (f : Flow) : Flow :=
  match f.monitor with
  | some (n, _) => if lo ≤ n ∧ n < hi then { f with monitor := some (n, true) } else f
  | none => f

/-- The lines from `lo` up to `hi` have been written by the module itself (R169, R304). -/
def State.linesWritten (s : State) (lo hi : Nat) : State :=
  { s with
    clusters := s.clusters.map fun p =>
      (p.1, { p.2 with macros := p.2.macros.map fun m => ⟨m.active.unwatchRange (128 * lo) (128 * hi), m.shadow.unwatchRange (128 * lo) (128 * hi)⟩ })
    cores := s.cores.map fun p => (p.1, (p.2.seen lo hi).modFlow (·.seenRange lo hi)) }

/-- A line leaves a cluster read cache; a fill in flight will not be installed (R247). -/
def Cluster.dropLine (k : Cluster) (line : Nat) : Cluster :=
  { k with cache := k.cache.filter fun e => e.line != line, fills := k.fills.filter fun e => e.line != line }

def State.dropLine (s : State) (k line : Nat) : State := s.modCluster k fun c => c.dropLine line

/-- The lines of several stretches leave the read cache of a core's cluster: a write of an engine is about to leave (R247). -/
def State.dropRuns (s : State) (c : Nat) (l : List (Nat × Nat)) : State :=
  let out (line : Nat) : Bool := !(l.any fun r => decide (r.1 / 128 ≤ line) && decide (line * 128 < r.1 + r.2))
  s.modCluster (clusterOf c) fun k =>
    { k with cache := k.cache.filter (fun e => out e.line), fills := k.fills.filter fun e => out e.line }

/-- Lines that an access of `len` bytes touches. -/
def linesOf (pa len : Nat) : List Nat :=
  (List.range ((pa + len - 1) / 128 + 1 - pa / 128)).map fun i => pa / 128 + i

/-- Lines that the bytes from `pa` on cover only in part. -/
def partLines (pa len : Nat) : List Nat :=
  (linesOf pa len).filter fun l => decide (l * 128 < pa) || decide (pa + len < l * 128 + 128)

/-- The core whose access goes to a module that has become unreachable, if one does (R449). -/
def State.lostFor (s : State) (who : Option Nat) (pa : Nat) : Option Nat :=
  if s.lostModules.contains (modOf pa) then who else none

/-- Such an access is not performed; what follows is a step of its own. -/
def State.loses (s : State) (c pa : Nat) : State := s.firstAct (.lineError (some c) pa)

/-- Bytes written to HBM at home. A line that is uncorrectable is replaced by a write of all its bytes and is not
changed by a partial one (R426). -/
def State.hbmStore (s : State) (who : Option Nat) (pa : Nat) (bytes : List Byte) : State :=
  let bad := (partLines pa bytes.length).filter fun l => s.badLines.contains l
  let cells := (bytes.zipIdx.map fun p => (pa + p.2, p.1)).filter fun p => !bad.contains (p.1 / 128)
  let s := { s with hbm := memSetAll s.hbm cells
                    badLines := s.badLines.filter fun l => bad.contains l || !(linesOf pa bytes.length).contains l }
  let s := s.lineErrors who bad
  let s := (linesOf pa bytes.length).foldl (fun s l => s.lineWritten who l) s
  match who with
  | some c => (linesOf pa bytes.length).foldl (fun s l => s.dropLine (clusterOf c) l) s
  | none => s

def State.hbmWrite (s : State) (who : Option Nat) (pa : Nat) (bytes : List Byte) : State :=
  match s.lostFor who pa with
  | some c => s.loses c pa
  | none => s.hbmStore who pa bytes

/-- Bytes read from HBM at home, as a number; reading an uncorrectable line is acted on by R426. -/
def State.hbmRead (s : State) (who : Option Nat) (pa len : Nat) : State × Nat :=
  let bad := (linesOf pa len).filter fun l => s.badLines.contains l
  match s.lostFor who pa with
  | some c => (s.loses c pa, memRead s.hbm pa len)
  | none => (s.lineErrors who bad, memRead s.hbm pa len)

/-- The part of the address space that a domain physical address names; of another module only HBM (R238). -/
def State.place (s : State) (pa : Nat) : Region :=
  if modOf pa = s.domMod.toNat then s.region (localOf pa) else .hbm

/-- A read at the place of an address: home, control block, or the owning local storage, where the owner's latest stores are not seen yet
by others (R223, R237, R356). -/
def State.physRead (s : State) (who : Option Nat) (pa len : Nat) : State × Nat :=
  match s.place pa with
  | .hbm => s.hbmRead who pa len
  | .control off => ((s.controlRead off).1, (s.controlRead off).2.toNat)
  | .spad c off => (s, bytesNat ((List.range len).map fun i => if who = some c then s.spadByte c (off + i) else s.remoteByte c (off + i)))
  | .sram k off => (s, bytesNat ((List.range len).map fun i => s.sramByte k (off + i)))
  | .reserved => (s, 0)

/-- A write at the place of an address. -/
def State.physWrite (s : State) (who : Option Nat) (pa : Nat) (bytes : List Byte) : State :=
  match s.place pa with
  | .hbm => s.hbmWrite who pa bytes
  | .control off => s.controlWrite (match who with | some c => dieOf c | none => 0) off (BitVec.ofNat 64 (bytesNat bytes))
  | .spad c off => s.spadStore c (bytes.zipIdx.map fun p => (off + p.2, p.1))
  | .sram k off => s.sramStore k (bytes.zipIdx.map fun p => (off + p.2, p.1))
  | .reserved => s

/-! ## Read caches and replicas (R246 to R249, R365) -/

/-- Capacity of the content-named pool, in lines (R330, R331). -/
def Pool.lines (p : Pool) : Nat :=
  let u := p.size.toNat % 2 ^ 20
  4096 * (if u = 0 then 2 ^ 20 else u)

def Pool.base' (p : Pool) : Nat := p.base.toNat / 2 ^ 20 % 2 ^ 28 * 2 ^ 20

/-- Whether a line holds data of the content-named pool (R247, R341). -/
def State.poolLine (s : State) (line : Nat) : Bool :=
  s.pool.base.getLsbD 0 && modOf (line * 128) == s.domMod.toNat &&
  decide (s.pool.base' ≤ localOf (line * 128)) && decide (localOf (line * 128) < s.pool.base' + 128 * s.pool.lines)

/-- The invalidation of an acquire of scope die or wider, or of a commit (R247, R436). -/
def State.clearCache (s : State) (k : Nat) : State :=
  s.modCluster k fun c =>
    { c with cache := c.cache.filter fun e => s.poolLine e.line, fills := c.fills.filter fun e => s.poolLine e.line }

/-- A fill arrives: installed unless the cache holds a younger copy (R365). -/
def Cluster.install (k : Cluster) (e : CacheLine) : Cluster :=
  if k.cache.any fun x => x.line == e.line && decide (e.stamp < x.stamp) then k
  else { k with cache := (e :: k.cache.filter fun x => x.line != e.line).take 2048 }

/-- CACHE_FILL: fill `i` in flight arrives. -/
def State.cacheFill (s : State) (k i : Nat) : State :=
  s.modCluster k fun c =>
    match c.fills[i]? with
    | none => c
    | some e => { c.install e with fills := c.fills.eraseIdx i }

/-- The nearest slice of a core (R249): die and physical slice, when it is present. -/
def State.nearestSlice (s : State) (c : Nat) : Option Nat :=
  let p := s.physCluster (clusterOf c)
  let q := 8 * (p / 8) + 2 * (p % 4) + laneOf c / 4
  if (s.part.sliceBits (dieOf c)).getLsbD q then some (dieOf c * 64 + q) else none

/-- The node that a core runs. -/
def State.nodeOf (s : State) (c : Nat) : Option Nat := (s.core c).run.map (·.node)

def State.replicaFor (s : State) (c line : Nat) : Option Replica :=
  match s.nodeOf c, s.nearestSlice c with
  | some n, some q => s.replicas.find? fun r => r.line == line && r.node == n && r.slice == q
  | _, _ => none

/-- Bytes of a line. -/
def linePart (l : Line) (pa len : Nat) : Nat := (l.toNat >>> (8 * (pa % 128))) % 2 ^ (8 * len)

/-- The whole line at home. -/
def State.homeLine (s : State) (line : Nat) : Line := BitVec.ofNat 1024 (memRead s.hbm (line * 128) 128)

/-- A fill taken at home for a cluster (R246). One of the same line that is still on its way is older than what has now been read, and is
not installed any more (R365). -/
def State.takeFill (s : State) (k line : Nat) : State :=
  let e : CacheLine := ⟨line, s.homeLine line, s.stamp⟩
  { s.modCluster k (fun c => { c with fills := c.fills.filter (fun f => f.line != line) ++ [e] }) with stamp := s.stamp + 1 }

/-- A replica made for the core's node, when its nearest slice is present and the line is of this module (R249). -/
def State.takeReplica (s : State) (c line : Nat) : State :=
  match s.nodeOf c, s.nearestSlice c with
  | some n, some q =>
    if modOf (line * 128) = s.domMod.toNat ∧ (s.replicaFor c line).isNone then
      { s with replicas := s.replicas ++ [⟨line, n, q, s.homeLine line⟩] }
    else s
  | _, _ => s

/-- A counter of a die that counts up (R440). -/
def State.countDie (s : State) (d n : Nat) : State :=
  s.modDie d fun x => { x with counters := mapSet n (mapGet 0 n x.counters + 1) x.counters }

/-- The copy of a line that a cluster's read cache holds. -/
def State.cacheHit (s : State) (k line : Nat) : Option CacheLine := (s.cluster k).cache.find? fun e => e.line == line

/-- A part read from a copy in the read cache. -/
def State.hitRead (s : State) (k pa len : Nat) (e : CacheLine) : State × Nat :=
  (s.modCluster k fun x => { x with hits := x.hits + 1 }, linePart e.data pa len)

/-- A part read at home, with a fill for the cluster, and a replica where one is asked for; an uncorrectable line leaves no copy
(R246, R249, R426). -/
def State.fillRead (s : State) (c pa len : Nat) (rh : Bool) : State × Nat :=
  let r := s.hbmRead (some c) pa len
  if s.badLines.contains (pa / 128) then r
  else
    let s := r.1.takeFill (clusterOf c) (pa / 128)
    (if rh then s.takeReplica c (pa / 128) else s, r.2)

/-- The value of an LDG or LDSG part on an ordinary HBM page (R356): read cache, replica, or home with a fill. -/
def State.cachedRead (s : State) (c pa len : Nat) (rh first : Bool) : State × Nat :=
  match s.cacheHit (clusterOf c) (pa / 128) with
  | some e => s.hitRead (clusterOf c) pa len e
  | none =>
    match s.replicaFor c (pa / 128) with
    | some r => (if first then s.countDie (dieOf c) 0x122 else s, linePart r.data pa len)
    | none => s.fillRead c pa len rh

/-- The line that a present name has: a replica serves no content-named operation (R246, R249). -/
def State.nameRead (s : State) (c pa : Nat) : State × Nat :=
  match s.cacheHit (clusterOf c) (pa / 128) with
  | some e => s.hitRead (clusterOf c) pa 128 e
  | none => s.fillRead c pa 128 false

/-! ## Results of accesses (R139, R273) -/

def fillPending (id part : Nat) (f : Result → Result) (p : Pending) : Pending :=
  if p.id = id ∧ p.part = part ∧ id ≠ 0 then { p with res := f p.res, need := p.need - 1 } else p

/-- A part of the data of a pending result is fixed, in the running context or in the interrupted one. -/
def State.fill (s : State) (c id part : Nat) (f : Result → Result) : State :=
  s.modCore c fun x => x.modFlow fun w =>
    { w with pending := w.pending.map (fillPending id part f)
             save := w.save.map fun t => { t with pending := t.pending.map (fillPending id part f) } }

/-- Bytes placed into a result at byte `at_`, with the extension of a scalar load (R258, R260). -/
def Result.place (at_ : Nat) (scalar : Option (Size × Bool)) (v : Nat) : Result → Result
  | .scalar r ls w =>
    match scalar with
    | none => .scalar r ls (BitVec.ofNat 64 v)
    | some (z, sx) =>
      let n := match z with | .b1 => 8 | .b2 => 16 | .b4 => 32 | .b8 => 64
      .scalar r ls (if sx then BitVec.ofNat 64 (wrap 64 (signedVal n v)) else w ||| BitVec.ofNat 64 v)
  | .row d b t l => .row d (b ||| (BitVec.ofNat 4096 v <<< (8 * at_))) t l
  | x => x

/-! ## The queues of a core and their order (R278 to R281, R358 to R361, R366) -/

def MemOp.isFence (m : MemOp) : Bool :=
  match m.kind with
  | .fence _ _ _ => true
  | _ => false

/-- The fence class of an entry, as a bit of the masks (R278). -/
def MemOp.cls (m : MemOp) : Nat :=
  match m.kind with
  | .load _ _ _ | .remote _ _ | .localLoad _ _ _ => 0
  | .store _ | .localStore _ _ => 1
  | .atomic _ _ _ | .contrib _ _ _ => 2
  | .look _ _ => 7
  | .fence _ _ _ => 8

/-- Whether an entry writes, in class ST or AT. -/
def MemOp.isWrite (m : MemOp) : Bool :=
  match m.kind with
  | .store _ | .localStore _ _ | .contrib _ _ _ => true
  | .atomic op _ _ => op != .ld
  | _ => false

/-- Whether entry `e` holds later accesses of class `cls` in bundle `bun` back: an acquire, or a fence that names the
class (R279, R361). -/
def MemOp.holds (e : MemOp) (bun cls : Nat) : Bool :=
  decide (e.bun < bun) && (e.acq || (match e.kind with | .fence _ succ _ => succ.getLsbD cls | _ => false))

/-- Whether `e` holds a later write in bundle `bun` back: a fence that names ST or AT is a release for the writes of both (R359). -/
def MemOp.holdsWrite (e : MemOp) (bun : Nat) : Bool := e.holds bun 1 || e.holds bun 2

/-- Whether `e` holds the later entry `m` back. -/
def MemOp.holdsOp (e m : MemOp) : Bool := e.holds m.bun m.cls || (m.isWrite && e.holdsWrite m.bun)

/-- Whether an entry stays within the cluster, where no line of HBM is reached. -/
def MemOp.isLocal (m : MemOp) : Bool :=
  match m.kind with
  | .remote _ _ | .localLoad _ _ _ | .localStore _ _ => true
  | _ => false

def MemOp.isLocalStore (m : MemOp) : Bool :=
  match m.kind with
  | .localStore _ _ => true
  | _ => false

def MemOp.isLook (m : MemOp) : Bool :=
  match m.kind with
  | .look _ _ => true
  | _ => false

def MemOp.sameLine (e m : MemOp) : Bool :=
  !e.isFence && !m.isFence && !e.isLocal && !m.isLocal && !e.isLook && !m.isLook && !e.engine && !m.engine && e.pa / 128 == m.pa / 128

/-- The offsets that a queued local access touches: in the shared SRAM or the scratchpad, and whether it stores. -/
def MemOp.localBytes (m : MemOp) : Option (Bool × Bool × List Nat) :=
  match m.kind with
  | .localLoad sh offs _ => some (sh, false, offs)
  | .localStore sh cells => some (sh, true, cells.map (·.1))
  | _ => none

/-- Whether a queued local access meets another of the core, one of the two a store: the earlier goes first (R222). -/
def MemOp.meetsLocal (e : MemOp) (shared store : Bool) (offs : List Nat) : Bool :=
  match e.localBytes with
  | some (sh, st, l) => sh == shared && (st || store) && l.any offs.contains
  | none => false

/-- Scopes that reach beyond the die: a release waits there for everything before it (R360); at the others it orders only what the
parties of its scope acquire (R363). -/
def farScope : Scope → Bool
  | .module | .domain => true
  | _ => false

/-- Whether an earlier entry keeps `m` from being performed. -/
def MemOp.blocks (e m : MemOp) : Bool :=
  e.sameLine m || e.holdsOp m || (m.rel && farScope m.scope && !e.isFence) || (m.scPage && e.scPage && e.id != m.id) ||
  (match m.localBytes with | some (sh, st, l) => e.meetsLocal sh st l | none => false)

/-- Reaping that follows from content-named operations of the core (R351). -/
def State.reapingOf (s : State) (c : Nat) : Bool := s.reaping.any fun p => p.2 == c

def Queued.isMr (q : Queued) : Bool :=
  match q.cmd with
  | .load _ _ _ => true
  | .product _ _ _ _ _ _ _ _ (some (_, _ :: _, _)) _ => true
  | _ => false

def Queued.isMw (q : Queued) : Bool :=
  match q.cmd with
  | .drain _ _ _ _ _ (.spad _ _) => true
  | .drain _ _ _ _ _ (.global _ _) => true
  | _ => false

def Queued.isAmx (q : Queued) : Bool :=
  match q.cmd with
  | .drain _ _ _ _ (some _) _ => true
  | _ => false

def Bulk.isOut (b : Bulk) : Bool :=
  match b.kind with
  | .cnout _ _ => true
  | _ => false

/-- Whether every row of a transfer has been moved, or its writes issued. -/
def Bulk.moved (b : Bulk) : Bool := if b.isOut then b.work.isEmpty else decide (b.rows ≤ b.next)

/-- Bytes of one row of a transfer. -/
def Bulk.width (b : Bulk) : Nat := if b.isOut then 128 else shapeBytes b.shape

/-- Line parts of a row. -/
def Bulk.parts (b : Bulk) : Nat := (b.width + 127) / 128

/-- Whether every byte that a transfer reads has been read. -/
def Bulk.readDone (b : Bulk) : Bool := b.moved || (!b.isOut && decide (b.rows ≤ b.next + 1) && decide (b.parts ≤ b.part))

/-- A row that a write stream is still to take. -/
def Pending.isPush (p : Pending) : Bool :=
  match p.res with
  | .row (.stream _) _ _ _ => !p.pushed
  | _ => false

/-- The pending results of a core, those of an interrupted context first. -/
def Core.results (x : Core) : List Pending := (match x.flow.save with | some t => t.pending | none => []) ++ x.flow.pending

/-- Rows of bundles up to `bun` that a core will push to its write streams. -/
def Core.pushesDue (x : Core) (bun : Nat) : Bool := x.results.any fun p => p.isPush && decide (p.bun ≤ bun)

/-- Replies of atomics of bundles up to `bun` that have not arrived (R357). -/
def Core.repliesDue (x : Core) (bun : Nat) : Bool := x.results.any fun p => p.reply && !p.ready && decide (p.bun ≤ bun)

/-- Whether a write to an address is performed at core scope only where it is served: all but one to HBM (R357). -/
def State.served (s : State) (pa : Nat) : Bool := s.place pa != .hbm

/-- Whether an engine write is. -/
def State.outServed (s : State) (o : OutWrite) : Bool :=
  match o.dest with
  | .line pa _ => s.served pa
  | .spad _ => true

/-- Whether a store of a bundle up to `bun` is not performed at a scope: one in the queue, at core scope only one that is still to be served
or that something before it holds (R281, R357), one to the scratchpad that others do not see yet (R223), or a row of a write stream. -/
def State.storesDue (s : State) (c bun : Nat) (sc : Scope) : Bool :=
  let x := s.core c
  let q := x.mem.memq
  (q.zipIdx.any fun p => decide (p.1.bun ≤ bun) && p.1.cls == 1 &&
    (sc != .core || p.1.isLocal || s.served p.1.pa || (q.take p.2).any fun e => e.holdsOp p.1)) ||
  (sc != .core && x.mem.unseen.any fun u => decide (u.bun ≤ bun)) || x.pushesDue bun

/-- Whether every access of the PRED classes up to bundle `bun` is performed (R278, R279, R351, R357). -/
def State.predsDone (s : State) (c bun : Nat) (pred : BitVec 8) (sc : Scope) : Bool :=
  let x := s.core c
  let queued (cls : Nat) : Bool := x.mem.memq.any fun m => decide (m.bun ≤ bun) && m.cls == cls
  let cmds (f : Queued → Bool) : Bool := x.mat.cmds.any fun q => decide (q.bun ≤ bun) && f q
  let bulk (f : Bulk → Bool) : Bool := x.mem.bulk.any fun b => decide (b.bun ≤ bun) && f b
  let outs (own : Bool) : Bool := x.mem.outs.any fun o => decide (o.bun ≤ bun) && o.bulk.isNone == own && (sc != .core || s.outServed o)
  !(pred.getLsbD 0 && queued 0) &&
  !(pred.getLsbD 1 && s.storesDue c bun sc) &&
  !(pred.getLsbD 2 && (queued 2 || x.repliesDue bun || cmds (·.isAmx))) &&
  !(pred.getLsbD 3 && bulk fun b => !b.readDone) &&
  !(pred.getLsbD 4 && (bulk (fun b => !b.moved) || outs false)) &&
  !(pred.getLsbD 5 && cmds (·.isMr)) && !(pred.getLsbD 6 && (cmds (·.isMw) || outs true)) &&
  !(pred.getLsbD 7 && (s.reapingOf c || queued 7 || bulk (·.isOut)))

/-- An entry joins the queues of a core behind those of its bundle and of earlier ones. -/
def State.enterOp (s : State) (c : Nat) (m : MemOp) : State :=
  s.modCore c fun x => x.modMem fun l =>
    { l with memq := (l.memq.filter fun e => decide (e.bun ≤ m.bun)) ++ m :: l.memq.filter fun e => decide (m.bun < e.bun) }

/-- Whether the core has an access to an SC page on its way (R366). -/
def Core.scBusy (x : Core) : Bool :=
  x.mem.memq.any (·.scPage) || x.mem.bulk.any (·.sc) || x.mem.outs.any (·.sc) || x.mat.cmds.any (·.sc)

/-! ## Scopes (R353, R359, R363) -/

/-- Whether core `d` lies in the instance of a scope for core `c`. -/
def inScope (sc : Scope) (c d : Nat) : Bool :=
  match sc with
  | .core => c == d
  | .cluster => clusterOf c == clusterOf d
  | .die => dieOf c == dieOf d
  | .module | .domain => true

/-- Whether a release in bundle `bun` orders something that is not in the queue and not performed: content-named operations, absolute
maxima, replies of atomics, scratchpad stores and rows of write streams (R351, R357, R360). -/
def State.releaseWaits (s : State) (c bun : Nat) : Bool :=
  let x := s.core c
  s.reapingOf c || (x.mat.cmds.any fun q => decide (q.bun < bun) && q.isAmx) ||
  (x.mem.unseen.any fun u => decide (u.bun < bun)) || (0 < bun && (x.pushesDue (bun - 1) || x.repliesDue (bun - 1))) ||
  x.mem.bulk.any fun b => b.isOut && decide (b.bun < bun)

/-- Whether something that a release of a narrow scope orders is still to be performed. -/
def State.outstanding (s : State) (r : NarrowRelease) : Bool :=
  ((s.core r.core).mem.memq.any fun m => decide (m.id < r.id) && !m.isFence) || s.releaseWaits r.core r.bun

/-- The releases of a narrow scope on a line whose scope holds core `d`, with accesses still to be performed. -/
def State.narrowOn (s : State) (d line : Nat) : List NarrowRelease :=
  s.releases.filter fun r => r.line == line && r.core != d && inScope r.scope r.core d && s.outstanding r

/-- Whether an acquire of core `d` at a scope, on a line, waits for what a release of a narrow scope there orders (R361, R363). -/
def State.acquireWaits (s : State) (d line : Nat) (sc : Scope) : Bool := (s.narrowOn d line).any fun r => inScope sc d r.core

/-- A core has read a line: the releases there whose scope holds it are noted, for an acquire fence (R363). -/
def State.noteRead (s : State) (d line : Nat) : State :=
  match s.narrowOn d line with
  | [] => s
  | l => s.modCore d fun x => x.modMem fun m => { m with owed := m.owed ++ l }

/-- A release of a narrow scope is performed on some lines before everything that it orders is. -/
def State.noteRelease (s : State) (c : Nat) (m : MemOp) (lines : List Nat) : State :=
  let l := lines.map fun line => (⟨line, c, m.id, m.bun, m.scope⟩ : NarrowRelease)
  if m.rel && !farScope m.scope && l.any s.outstanding then { s with releases := s.releases.filter s.outstanding ++ l } else s

/-- The slice of a window's home that can hold no further set of partials (R393). -/
def setLimit : Nat := 4096

/-- The home of a window that no switch merges: the home slice of its first line (R386). -/
def State.windowHome (s : State) (x : Window) : Nat × Nat := s.homeOf (bitsAt x.base.toNat 7 52 * 128)

/-- Whether a contribution waits in its queue: it would open a set of partials where its window's home holds 4,096 (R393). -/
def State.setsFull (s : State) (m : MemOp) : Bool :=
  match m.kind with
  | .contrib w _ _ =>
    let x := s.windows.get w.toFin
    !x.cfg.getLsbD 57 && !(x.partials.any fun p => p.1 == m.pa) &&
    decide (setLimit ≤ (s.windows.toList.map fun y =>
      if !y.cfg.getLsbD 57 && s.windowHome y == s.windowHome x then y.partials.length else 0).sum)
  | _ => false

/-- Whether an access goes to a module that has become unreachable (R449). -/
def State.lostOp (s : State) (m : MemOp) : Bool :=
  !m.isLocal && !m.isLook && !m.isFence && s.lostModules.contains (modOf m.pa)

/-- Whether a lock holds the scratchpad bytes behind an address (R235). -/
def State.lockedAt (s : State) (pa len : Nat) : Bool :=
  match s.place pa with
  | .spad o off => (s.core o).lockHolds (spanBanks off len)
  | _ => false

/-- Whether a read of an address pops a device-to-host mailbox: a supervisor that reads a post so acquires what its retirement has released
(R436). -/
def State.readsPost (s : State) (pa : Nat) : Bool :=
  match s.place pa with
  | .control off => decide (0xC000 ≤ off) && decide (off < 0xC200) && off % 0x40 == 8
  | _ => false

/-- Entry `i` of the queues of a core, when it may be performed now; a maintenance slot holds what is not local (R420), a lock of the
owner remote reads of its banks and accesses of them through a window (R235, R237). -/
def State.eligible (s : State) (c i : Nat) : Option MemOp :=
  let q := (s.core c).mem.memq
  match q[i]? with
  | none => none
  | some m =>
    if m.isFence || (s.calendar.hold && !m.isLocal) || s.lostOp m || (s.pool.setting && m.isLook) || (q.take i).any (fun e => e.blocks m) ||
        (m.rel && farScope m.scope && s.releaseWaits c m.bun) ||
        (m.acq && s.acquireWaits c (m.pa / 128) m.scope) || s.setsFull m ||
        (match m.kind with
          | .remote o sh => (s.core o).lockHolds (shapeBanks sh m.pa)
          | .load _ _ _ | .store _ => s.lockedAt m.pa m.len
          | _ => false) then none
    else some m

/-- Scopes whose acquire clears the read cache (R247, R280). -/
def wideScope : Scope → Bool
  | .die | .module | .domain => true
  | _ => false

/-- Whether everything that a fence waits for is performed; an acquire fence also waits for what the releases that its core has read
order (R363). -/
def MemOp.fenceDone (s : State) (c : Nat) (m : MemOp) : Bool :=
  match m.kind with
  | .fence pred _ sc =>
    s.predsDone c m.bun pred sc &&
    (!m.acq || (s.core c).mem.owed.all fun r => !(inScope sc c r.core && s.outstanding r))
  | _ => false

def State.dropOp (s : State) (c i : Nat) : State :=
  s.modCore c fun x => x.modMem fun m => { m with memq := m.memq.eraseIdx i }

/-- Fences whose earlier accesses are performed leave, up to `fuel` of them; an acquire fence of a wide scope clears the
read cache (R280). -/
def State.endFencesN (s : State) (c : Nat) : Nat → State
  | 0 => s
  | fuel + 1 =>
    match (s.core c).mem.memq.findIdx? fun m => m.fenceDone s c with
    | none => s
    | some i =>
      let acq := match (s.core c).mem.memq[i]? with
        | some m => m.acq && wideScope m.scope
        | none => false
      let s := s.dropOp c i
      (if acq then s.clearCache (clusterOf c) else s).endFencesN c fuel

def State.endFences (s : State) (c : Nat) : State := s.endFencesN c (s.core c).mem.memq.length

/-! ## Performing (R273, R355 to R357) -/

/-- What follows an access that has been performed: an acquire of a wide scope clears the read cache, and fences are looked at. -/
def State.afterOp (s : State) (c : Nat) (m : MemOp) : State :=
  (if m.acq && wideScope m.scope then s.clearCache (clusterOf c) else s).endFences c

/-- A part of a load is performed. -/
def State.loadStep (s : State) (c i : Nat) (m : MemOp) (at_ : Nat) (z : Option (Size × Bool)) (rh : Bool) : State :=
  let r := if m.scPage || s.served m.pa then s.physRead (some c) m.pa m.len
    else s.cachedRead c m.pa m.len rh (at_ == 0)
  (((r.1.noteRead c (m.pa / 128)).dropOp c i).fill c m.id 0 (Result.place at_ z r.2)).afterOp c m

/-- HOME_LOAD. -/
def State.homeLoad (s : State) (c i : Nat) : State :=
  match s.eligible c i with
  | none => s
  | some m =>
    match m.kind with
    | .load at_ z rh => s.loadStep c i m at_ z rh
    | _ => s

/-- A part of a store is performed. -/
def State.storeStep (s : State) (c i : Nat) (m : MemOp) (v : Nat) : State :=
  ((s.dropOp c i).physWrite (some c) m.pa (natBytes m.len v)).endFences c

/-- HOME_STORE. -/
def State.homeStore (s : State) (c i : Nat) : State :=
  match s.eligible c i with
  | none => s
  | some m =>
    match m.kind with
    | .store v => s.storeStep c i m v
    | _ => s

/-- A remote read is served. -/
def State.remoteStep (s : State) (c i : Nat) (m : MemOp) (owner : Nat) (sh : RowShape) : State :=
  ((s.dropOp c i).fill c m.id 0 (Result.place 0 none (readShape (s.remoteByte owner) sh m.pa).toNat)).endFences c

/-- REMOTE_READ_SERVICE (R233). -/
def State.remoteRead (s : State) (c i : Nat) : State :=
  match s.eligible c i with
  | none => s
  | some m =>
    match m.kind with
    | .remote owner sh => s.remoteStep c i m owner sh
    | _ => s

/-- A local load or store that was held is served. -/
def State.localStep (s : State) (c i : Nat) (m : MemOp) : State :=
  match m.kind with
  | .localLoad sh offs z =>
    let byte := if sh then s.sramByte (clusterOf c) else s.spadByte c
    ((s.dropOp c i).fill c m.id 0 (Result.place 0 z (bytesNat (offs.map byte)))).endFences c
  | .localStore sh cells =>
    let s := s.dropOp c i
    (if sh then s.sramStore (clusterOf c) cells else s.ownStore c m.bun cells).endFences c
  | _ => s

def State.serveLocal (s : State) (c i : Nat) : State :=
  match s.eligible c i with
  | none => s
  | some m => s.localStep c i m

/-- The new memory value of an atomic of `w` bits (R271). -/
def atomicNew (op : AtomicOp) (w m v c : Nat) : Nat :=
  match op with
  | .add => (m + v) % 2 ^ w
  | .max => if signedVal w m < signedVal w v then v else m
  | .min => if signedVal w v < signedVal w m then v else m
  | .maxn => if m < v then v else m
  | .minn => if v < m then v else m
  | .and => m &&& v
  | .or => m ||| v
  | .xor => m ^^^ v
  | .xchg => v
  | .cas => if m = c then v else m
  | .fadd => fAdd fp32 m v
  | .fmax => fMax fp32 m v
  | .amax => rne fp32 (valMax (valAbs (decodeFloat fp32 m)) (valAbs (decodeFloat fp32 v)))
  | .ld => m
  | .st => v

/-- One atomic step on HBM: the old value and the new sequence number (R273, R275). ALD leaves memory as it is. -/
def State.atomicStep (s : State) (who : Option Nat) (op : AtomicOp) (pa len v c : Nat) : State × Nat × Word :=
  let old := memRead s.hbm pa len
  let s := if op = .ld then (s.hbmRead who pa len).1
    else s.hbmWrite who pa (natBytes len (atomicNew op (8 * len) old v c))
  let q := mapGet 0 (pa / 128) s.lineSeq + 1
  ({ s with lineSeq := mapSet (pa / 128) q s.lineSeq }, old, q)

/-- A part of a scalar result set. -/
def Result.setScalar (v : Word) : Result → Result
  | .scalar r ls _ => .scalar r ls v
  | x => x

/-- An atomic is performed: the returned value is part 0, the high half of a pair part 1, the sequence number part 2. -/
def State.atomicOp (s : State) (c i : Nat) (m : MemOp) (op : AtomicOp) (v x : Nat) : State :=
  let r := (((s.noteRead c (m.pa / 128)).noteRelease c m [m.pa / 128]).dropOp c i).atomicStep (some c) op m.pa m.len v x
  let s := ((r.1.fill c m.id 0 (Result.setScalar (BitVec.ofNat 64 r.2.1))).fill c m.id 1
    (Result.setScalar (BitVec.ofNat 64 (r.2.1 / 2 ^ 64)))).fill c m.id 2 (Result.setScalar r.2.2)
  (s.dropLine (clusterOf c) (m.pa / 128)).afterOp c m

/-- HOME_ATOMIC. -/
def State.homeAtomic (s : State) (c i : Nat) : State :=
  match s.eligible c i with
  | none => s
  | some m =>
    match m.kind with
    | .atomic op v x => s.atomicOp c i m op v x
    | _ => s

/-! ## Reduction windows (R386 to R394, R450) -/

def State.window (s : State) (w : Nat) : Window := s.windows.get (Fin.ofNat 16 w)
def State.modWindow (s : State) (w : Nat) (f : Window → Window) : State :=
  { s with windows := s.windows.set (w % 16) (f (s.window w)) (Nat.mod_lt w (by decide)) }

def Window.en (w : Window) : Bool := w.cfg.getLsbD 63
def Window.op (w : Window) : Nat := bitsAt w.cfg.toNat 60 3
def Window.etype (w : Window) : Nat := bitsAt w.cfg.toNat 58 2
def Window.atSwitch (w : Window) : Bool := w.cfg.getLsbD 57
def Window.ncontrib (w : Window) : Nat := bitsAt w.cfg.toNat 24 24
def Window.lines (w : Window) : Nat := bitsAt w.cfg.toNat 0 16 + 1
def Window.first (w : Window) : Nat := bitsAt w.base.toNat 7 52 * 128
def Window.last (w : Window) : Nat := w.first + w.lines * 128
def Window.doneAt (w : Window) : Nat := bitsAt w.done.toNat 3 56 * 8
def Window.size (w : Window) : Nat := if w.etype = 2 then 8 else 4

/-- Op of R391. -/
def Window.combine (w : Window) (m v : Nat) : Nat :=
  let n := 8 * w.size
  match w.op with
  | 0 => (m + v) % 2 ^ n
  | 1 => fAdd fp32 m v
  | _ =>
    match w.etype with
    | 1 => if m < v then v else m
    | 3 => fMax fp32 m v
    | _ => if signedVal n m < signedVal n v then v else m

/-- A discarded contribution is counted (R392). -/
def State.countDiscard (s : State) (w : Nat) : State :=
  s.modWindow w fun x => { x with discard := if x.discard = 0xFFFF then x.discard else x.discard + 1 }

/-- A discarded contribution (R392): its entry goes to the die of the core that sent it; for a core of a peer module that is a die of
the peer (R466). -/
def State.discardContrib (s : State) (who : Option Nat) (w : Nat) (idx : BitVec 24) : State :=
  match who with
  | some c => (s.countDiscard w).logError (dieOf c) 0x51 [BitVec.ofNat 64 (w * 2 ^ 40 + idx.toNat)]
  | none => s.countDiscard w

/-- The partial set of an element. -/
def partialSet (l : List (Nat × List (Nat × Nat))) (pa : Nat) : List (Nat × Nat) := mapGet [] pa l

/-- The fold of a completed round, in ascending contributor index (R391). -/
def foldRound (w : Window) (set : List (Nat × Nat)) (m : Nat) : Nat :=
  (List.range w.ncontrib).foldl (fun m i => w.combine m ((set.lookup i).getD 0)) m

/-- Partials of window `w`: at the home slice, or at the fabric switch (R450). -/
def State.partials (s : State) (w : Nat) : List (Nat × List (Nat × Nat)) :=
  if (s.window w).atSwitch then (s.switchParts.filter fun p => p.1 == w).map (·.2) else (s.window w).partials

def State.setPartials (s : State) (w : Nat) (l : List (Nat × List (Nat × Nat))) : State :=
  if (s.window w).atSwitch then
    { s with switchParts := s.switchParts.filter (fun p => p.1 != w) ++ l.map fun p => (w, p.1, p.2) }
  else s.modWindow w fun x => { x with partials := l }

/-- Bytes at home are read and written as one access (R391): those in a line that is uncorrectable, or in a module that is lost, stay as
they are (R426, R449). -/
def State.mergeAt (s : State) (who : Option Nat) (pa n : Nat) (f : Nat → Nat) : State :=
  let bad := (linesOf pa n).filter s.badLines.contains
  match s.lostFor who pa with
  | some c => s.loses c pa
  | none => if bad.isEmpty then s.hbmStore none pa (natBytes n (f (memRead s.hbm pa n))) else s.lineErrors who bad

/-- The configuration that governs the merge of a window: that of the home module, where the window is merged by the switch and its home
is another module whose registers are known (R450). -/
def State.governing (s : State) (w : Nat) : Window :=
  let x := s.window w
  if x.atSwitch && modOf x.first != s.domMod.toNat then
    match s.homeCfgs.lookup w with
    | some (cfg, done) => { x with cfg := (cfg &&& ~~~(1#64 <<< 63)) ||| (x.cfg &&& (1#64 <<< 63)), done := done }
    | none => x
  else x

/-- COMPLETION_WORD: an addition to a completion word that a completed round has left is performed (R391). -/
def State.addDone (s : State) (i : Nat) : State :=
  match s.doneAdds[i]? with
  | none => s
  | some a =>
    if s.calendar.hold then s
    else
      let s : State := { s with doneAdds := s.doneAdds.eraseIdx i }
      let who := match a.who with | some (c, n) => if s.nodeOf c = some n then some c else none | none => none
      if s.lostModules.contains (modOf a.pa) then s else s.mergeAt who a.pa 8 (· + 1)

/-- The home handles one contribution of a core, or of a peer (R391). At the end of a round the merged value is written; the addition to
the completion word follows as a write of its own (R355). -/
def State.contribute (s : State) (who : Option Nat) (w pa v : Nat) (idx : BitVec 24) : State :=
  let x := s.governing w
  let set := partialSet (s.partials w) pa
  if !x.en || decide (x.ncontrib ≤ idx.toNat) || set.any (fun p => p.1 == idx.toNat) then s.discardContrib who w idx
  else
    let set := set ++ [(idx.toNat, v)]
    if set.length < x.ncontrib then s.setPartials w (mapSet pa set (s.partials w))
    else
      let s := (s.mergeAt who pa x.size (foldRound x set)).setPartials w (mapDel pa (s.partials w))
      let add : DoneAdd := ⟨x.doneAt, who.bind fun c => (s.nodeOf c).map fun n => (c, n)⟩
      ({ s with doneAdds := s.doneAdds ++ [add] } : State).modWindow w fun y => { y with rounds := y.rounds + 1 }

/-- Whether two configurations of a switch-homed window agree in OP, ETYPE and NCONTRIB (R450). -/
def Window.agrees (x : Window) (cfg : Word) : Bool :=
  let y : Window := { x with cfg := cfg }
  y.op == x.op && y.etype == x.etype && y.ncontrib == x.ncontrib

/-- Whether the home module of a window refuses what this one sends there (R450). -/
def State.homeRefuses (s : State) (w : Nat) : Bool := !(s.governing w).agrees (s.window w).cfg

/-- A contribution of a core reaches its home (R391); one that the home module's configuration does not admit is discarded by R392, with an
entry of kind 0x52 besides on this module (R450). -/
def State.sendContrib (s : State) (c w pa v : Nat) (idx : BitVec 24) : State :=
  if s.homeRefuses w then (s.discardContrib (some c) w idx).logError (dieOf c) 0x52 []
  else s.contribute (some c) w pa v idx

/-- A contribution is handled. Where it is a release, it is so by the merged value and by the completion word (R391, R393). -/
def State.contribStep (s : State) (c i : Nat) (m : MemOp) (w : BitVec 4) (v : Nat) (idx : BitVec 24) : State :=
  (((s.noteRelease c m [m.pa / 128, (s.governing w.toNat).doneAt / 128]).dropOp c i).sendContrib c w.toNat m.pa v idx).endFences c

/-- WINDOW_CONTRIBUTION: entry `i` of a core's queue, a contribution, is handled. -/
def State.homeContrib (s : State) (c i : Nat) : State :=
  match s.eligible c i with
  | none => s
  | some m =>
    match m.kind with
    | .contrib w v idx => s.contribStep c i m w v idx
    | _ => s

/-- A contribution of a peer module to a switch-homed window that this one has as well (R450). A peer whose OP, ETYPE or NCONTRIB differs
from those of the home module is discarded; its log entry is on the peer. -/
def State.mergePeer (s : State) (w : BitVec 4) (pa : Nat) (idx : BitVec 24) (v : Word) (peerCfg : Word) : State :=
  let x := s.governing w.toNat
  if !x.en || !x.atSwitch || decide (pa < x.first) || decide (x.last ≤ pa) || pa % x.size != 0 then s
  else if !x.agrees peerCfg then s.countDiscard w.toNat
  else s.contribute none w.toNat pa (v.toNat % 2 ^ (8 * x.size)) idx

/-- A request that has come over the links is performed at its home, in order with every other access there (R352, R371). What a peer
reads shows in no state of this module. -/
def State.linkServe (s : State) (r : LinkReq) : State :=
  match r with
  | .contrib w pa idx v cfg => s.mergePeer w pa idx v cfg
  | .load pa len => (s.hbmRead none pa len).1
  | .store pa data => s.hbmWrite none pa data
  | .atomic op pa len v c => (s.atomicStep none op pa len v c).1

/-- A request over the links arrives: it is performed, or waits while a maintenance slot holds the links, or behind one that does
(R420, R448). -/
def State.link (s : State) (r : LinkReq) : State :=
  if s.calendar.hold || !s.linkQ.isEmpty then { s with linkQ := s.linkQ ++ [r] } else s.linkServe r

/-- The first request that waited at the links is performed. -/
def State.serveLink (s : State) : State :=
  match s.linkQ with
  | r :: t => if s.calendar.hold then s else { s with linkQ := t }.linkServe r
  | [] => s

/-- SWITCH_MERGE: the fabric switch merges a contribution of a peer module. -/
def State.switchMerge (s : State) (w : BitVec 4) (pa : Nat) (idx : BitVec 24) (v : Word) (peerCfg : Word) : State :=
  s.link (.contrib w pa idx v peerCfg)

/-- The window whose range holds an address, of those in service. -/
def State.windowAt (s : State) (pa : Nat) : Option Nat :=
  (List.range 16).find? fun w => (s.window w).en && decide ((s.window w).first ≤ pa) && decide (pa < (s.window w).last)

/-- Whether a range of addresses lies in HBM of a module of the domain. -/
def State.inHbm (s : State) (pa len : Nat) : Bool :=
  decide (modOf pa < s.domSize.toNat) && decide (modOf pa < 1152) && decide (localOf pa + len ≤ hbmSize)

/-- The refusals of R387 when EN is set. -/
def State.windowRefused (s : State) (w : Nat) (x : Window) : Bool :=
  decide (2 < x.op) ||
  !((x.op == 0 && decide (x.etype < 3)) || (x.op == 1 && x.etype == 3) || x.op == 2) ||
  x.ncontrib == 0 || !s.inHbm x.first (x.lines * 128) || !s.inHbm x.doneAt 8 || modOf x.doneAt != modOf x.first ||
  (!x.atSwitch && modOf x.first != s.domMod.toNat) ||
  (List.range 16).any fun v => v != w && (s.window v).en && decide (x.first < (s.window v).last) &&
    decide ((s.window v).first < x.last)

/-- The writable bits of CTL.WBASE, WCFG and WDONE (R386). -/
def wbaseMask : Word := 0x07FFFFFFFFFFFF80
def wcfgMask : Word := 0xFE00FFFFFF00FFFF
def wdoneMask : Word := 0x07FFFFFFFFFFFFF8

/-- Partials thrown away when EN is cleared (R387). -/
def State.dropPartials (s : State) (w : Nat) : State :=
  let n := ((s.partials w).map fun p => p.2.length).sum
  (s.setPartials w []).modWindow w fun x => { x with discard := BitVec.ofNat 16 (min 65535 (x.discard.toNat + n)) }

/-- WINDOW_ENABLE: a write of CTL.WCFG with EN set takes effect (R387). -/
def State.windowEnable (s : State) (die w : Nat) (v : Word) : State :=
  let x := s.window w
  if x.en then s
  else
    let y := { x with cfg := v &&& wcfgMask }
    if s.windowRefused w y then s.logError die 0x50 []
    else s.modWindow w fun _ => { y with rounds := 0, partials := [] }

/-- WINDOW_DISABLE: a write of CTL.WCFG with EN clear takes effect (R387). -/
def State.windowDisable (s : State) (w : Nat) (v : Word) : State :=
  let x := s.window w
  if x.en then (s.dropPartials w).modWindow w fun y => { y with cfg := y.cfg &&& ~~~(1#64 <<< 63) }
  else s.modWindow w fun y => { y with cfg := v &&& wcfgMask }

/-- CTL.WSTAT (R386). -/
def State.wstat (s : State) (w : Nat) : Word :=
  let x := s.window w
  BitVec.ofNat 64 (x.rounds.toNat * 2 ^ 32 + x.discard.toNat * 2 ^ 16 + min 65535 (s.partials w).length)

end Sys2Proof.Machine
end

