-- ==== Sys2Proof/Machine/Directory.lean ====
section
/-! DEFINITION. Machine/Directory.lean: content-named memory (spec 15): SHA-256, names, the directory in HBM, the verdicts
that it gives and the reaper. -/

namespace Sys2Proof.Machine

/-! ## SHA-256 -/

def rotr32 (x n : Nat) : Nat := (x >>> n ||| x <<< (32 - n)) % 2 ^ 32

/-- The first 32 bits after the point of the `k`-th root of a number below 2^9, bit by bit. -/
def rootBits (k n : Nat) : Nat :=
  (List.range 42).foldr (fun i r => if (r + 2 ^ i) ^ k ≤ n * 2 ^ (32 * k) then r + 2 ^ i else r) 0 % 2 ^ 32

/-- The primes below 312: 64 of them. -/
def shaPrimes : List Nat := (List.range 312).filter fun n => decide (2 ≤ n) && (List.range n).all fun d => decide (d < 2) || n % d != 0

/-- The round constants of SHA-256, from the cube roots of the first 64 primes, and its starting words, from the square roots of the
first eight. -/
def shaK : List Nat := shaPrimes.map (rootBits 3)
def shaInit : List Nat := (shaPrimes.take 8).map (rootBits 2)

/-- The next word of a message schedule, of which the last sixteen words stand newest first. -/
def shaNext (w : List Nat) : Nat :=
  let a := w.getD 1 0
  let b := w.getD 14 0
  let s0 := rotr32 b 7 ^^^ rotr32 b 18 ^^^ (b >>> 3)
  let s1 := rotr32 a 17 ^^^ rotr32 a 19 ^^^ (a >>> 10)
  (w.getD 15 0 + s0 + w.getD 6 0 + s1) % 2 ^ 32

/-- The schedule of a block, newest word first, extended by `n` words. -/
def shaExtend : Nat → List Nat → List Nat
  | 0, w => w
  | n + 1, w => shaExtend n (shaNext w :: w)

/-- One round on the eight working words. -/
def shaRound (h : List Nat) (k w : Nat) : List Nat :=
  match h with
  | [a, b, c, d, e, f, g, x] =>
    let s1 := rotr32 e 6 ^^^ rotr32 e 11 ^^^ rotr32 e 25
    let ch := (e &&& f) ^^^ ((2 ^ 32 - 1 - e) &&& g)
    let t1 := (x + s1 + ch + k + w) % 2 ^ 32
    let s0 := rotr32 a 2 ^^^ rotr32 a 13 ^^^ rotr32 a 22
    let t2 := s0 + ((a &&& b) ^^^ (a &&& c) ^^^ (b &&& c))
    [(t1 + t2) % 2 ^ 32, a, b, c, (d + t1) % 2 ^ 32, e, f, g]
  | l => l

/-- The compression of one block of sixteen words. -/
def shaBlock (h : List Nat) (words : List Nat) : List Nat :=
  let w := (shaExtend 48 words.reverse).reverse
  let r := List.foldl (fun (x : List Nat) (p : Nat × Nat) => shaRound x p.1 p.2) h (List.zip shaK w)
  List.zipWith (fun a b => (a + b) % 2 ^ 32) h r

/-- Big-endian words of bytes. -/
def shaWords : List Byte → List Nat
  | a :: b :: c :: d :: t => (((a.toNat * 256 + b.toNat) * 256 + c.toNat) * 256 + d.toNat) :: shaWords t
  | _ => []

/-- The words in blocks of sixteen, `n` of them, compressed in turn. -/
def shaBlocks : Nat → List Nat → List Nat → List Nat
  | 0, h, _ => h
  | n + 1, h, w => shaBlocks n (shaBlock h (w.take 16)) (w.drop 16)

/-- The padding of a message of `n` bytes. -/
def shaPad (n : Nat) : List Byte :=
  0x80 :: List.replicate ((119 - n % 64) % 64) 0 ++ (natBytes 8 (8 * n)).reverse

/-- SHA-256, as a number with digest byte 0 highest. -/
def sha256 (m : List Byte) : Nat :=
  let p := m ++ shaPad m.length
  List.foldl (fun a w => a * 2 ^ 32 + w) 0 (shaBlocks (p.length / 64) shaInit (shaWords p))

/-! ## Names (R332 to R334) -/

abbrev Name := BitVec 128

/-- PREFIX of a line of a class (R332). -/
def namePrefix (cls : BitVec 8) (data : Line) : BitVec 96 :=
  BitVec.ofNat 96 (sha256 (0x43 :: cls :: natBytes 128 data.toNat) / 2 ^ 160)

def makeName (pre : BitVec 96) (dis : BitVec 16) (cls : BitVec 8) : Name :=
  (pre.setWidth 128 <<< 32) ||| (dis.setWidth 128 <<< 16) ||| (cls.setWidth 128 <<< 8)

def Name.pre (n : Name) : BitVec 96 := n.extractLsb' 32 96
def Name.dis (n : Name) : BitVec 16 := n.extractLsb' 16 16
def Name.cls (n : Name) : BitVec 8 := n.extractLsb' 8 8
def Name.wellFormed (n : Name) : Bool := n.extractLsb' 0 8 == 0 && decide (Name.cls n ≤ 1)

/-- The children of an interior line (R334). -/
def children (l : Line) : List Name := (List.range 8).map fun k => l.extractLsb' (128 * k) 128

/-! ## The directory (R331, R336, R337) -/

structure DirEntry where
  name : Name
  count : BitVec 32
  state : BitVec 8
  deriving DecidableEq, Repr

/-- Domain physical address of the pool's base. -/
def State.poolBase (s : State) : Nat := s.domMod.toNat * 2 ^ 48 + s.pool.base'
def State.poolEn (s : State) : Bool := s.pool.base.getLsbD 0
def State.slotAddr (s : State) (i : Nat) : Nat := s.poolBase + 128 * i
def State.entryAddr (s : State) (i : Nat) : Nat := s.poolBase + 128 * s.pool.lines + 32 * i

def State.dirEntry (s : State) (i : Nat) : DirEntry :=
  let v := memRead s.hbm (s.entryAddr i) 32
  ⟨BitVec.ofNat 128 (v / 2 ^ 128), BitVec.ofNat 32 (v / 2 ^ 96), BitVec.ofNat 8 v⟩

def State.setEntry (s : State) (who : Option Nat) (i : Nat) (e : DirEntry) : State :=
  s.hbmWrite who (s.entryAddr i) (natBytes 32 (e.name.toNat * 2 ^ 128 + e.count.toNat * 2 ^ 96 + e.state.toNat))

/-- The probe range of a start value, in probe order. -/
def State.probe (s : State) (start : BitVec 32) : List Nat :=
  let n := s.pool.lines / 4
  (List.range 64).map fun j => 4 * ((start.toNat % n + j / 4) % n) + j % 4

/-- Bits [63:32] of a name. -/
def nameStart (n : Name) : BitVec 32 := n.extractLsb' 32 32

/-- The slot of a present name (R336). -/
def State.findName (s : State) (n : Name) : Option Nat :=
  (s.probe (nameStart n)).find? fun i => (s.dirEntry i).state == 1 && (s.dirEntry i).name == n

def State.slotLine (s : State) (i : Nat) : Line := BitVec.ofNat 1024 (memRead s.hbm (s.slotAddr i) 128)

/-- The entry that holds exactly the data under its class (R338, R346). -/
def State.findData (s : State) (cls : BitVec 8) (data : Line) : Option Nat :=
  let p := namePrefix cls data
  (s.probe (p.extractLsb' 0 32)).find? fun i =>
    let e := s.dirEntry i
    e.state == 1 && Name.pre e.name == p && Name.cls e.name == cls && s.slotLine i == data

/-! ## Counts (R339) -/

/-- +1 on the count of a slot. -/
def State.incSlot (s : State) (who : Option Nat) (i : Nat) : State :=
  let e := s.dirEntry i
  s.setEntry who i { e with count := satInc32 e.count }

/-- −1 on the count of a slot, on behalf of a core's operation. -/
def State.decSlot (s : State) (c i : Nat) : State :=
  let e := s.dirEntry i
  if e.count = BitVec.allOnes 32 then s
  else if 1 < e.count.toNat then s.setEntry (some c) i { e with count := e.count - 1 }
  else if Name.cls e.name = 1 then
    { s.setEntry (some c) i { e with count := 0, state := 2 } with reaping := s.reaping ++ [(i, c)] }
  else s.setEntry (some c) i { e with count := 0, state := 0 }

def State.incName (s : State) (who : Option Nat) (n : Name) : State :=
  match s.findName n with
  | some i => s.incSlot who i
  | none => s

def State.decName (s : State) (c : Nat) (n : Name) : State :=
  match s.findName n with
  | some i => s.decSlot c i
  | none => s

/-- REAPER: the children of a REAPING entry lose their references and the entry becomes FREE (R340). -/
def State.reaper (s : State) (slot : Nat) : State :=
  match s.reaping.find? fun p => p.1 == slot with
  | none => s
  | some (i, c) =>
    let kids := (children (s.slotLine i)).filter fun n => n != 0
    let s := { s with reaping := s.reaping.filter fun p => p.1 != i }
    let s := kids.foldl (fun s n => s.decName c n) s
    (s.setEntry (some c) i { s.dirEntry i with state := 0 }).endFences c

/-! ## Verdicts (R338, R344 to R350) -/

def cnFault (code : BitVec 8) (a : Nat) : Trap := ⟨code, BitVec.ofNat 64 a⟩

/-- The first child of an interior line that is not present. -/
def State.missingChild (s : State) (data : Line) : Option Nat :=
  (List.range 8).find? fun k => (children data).getD k 0 != 0 && (s.findName ((children data).getD k 0)).isNone

/-- The smallest disambiguator held by no entry of the range with the prefix and class (R338): of 64 entries. -/
def State.freeDis (s : State) (p : BitVec 96) (cls : BitVec 8) : Option Nat :=
  let held := (s.probe (p.extractLsb' 0 32)).filterMap fun i =>
    let e := s.dirEntry i
    if (e.state == 1 || e.state == 2) && Name.pre e.name == p && Name.cls e.name == cls then some (Name.dis e.name).toNat
    else none
  (List.range 65).find? fun d => !held.contains d

/-- CNPUT at the directory (R338). -/
def State.cnPut (s : State) (c : Nat) (cls : BitVec 8) (data : Line) : State × Except Trap Name :=
  let p := namePrefix cls data
  match s.findData cls data with
  | some i => (s.incSlot (some c) i, .ok (s.dirEntry i).name)
  | none =>
    match s.freeDis p cls with
    | none => (s, .error (cnFault 0x14 2))
    | some d =>
      match (s.probe (p.extractLsb' 0 32)).find? fun i => (s.dirEntry i).state == 0 with
      | none => (s, .error (cnFault 0x14 1))
      | some f =>
        match if cls = 1 then s.missingChild data else none with
        | some k => (s, .error (cnFault 0x13 (8 + k)))
        | none =>
          let line := s.slotAddr f / 128
          let s := { s with clusters := s.clusters.map fun (k : Nat × Cluster) => (k.1, k.2.dropLine line) }
          let n := makeName p (BitVec.ofNat 16 d) cls
          let s := s.hbmWrite (some c) (s.slotAddr f) (natBytes 128 data.toNat)
          let s := s.setEntry (some c) f ⟨n, 1, 1⟩
          let kids := if cls = 1 then (children data).filter fun n => n != 0 else []
          (kids.foldl (fun s n => s.incName (some c) n) s, .ok n)

/-- CNSWAP at the root line's home (R349): the old root, or the fault. -/
def State.cnSwap (s : State) (c pa : Nat) (exp new : Name) : State × Except Trap Name :=
  let r := s.hbmRead (some c) pa 16
  let cur : Name := BitVec.ofNat 128 r.2
  let s := r.1
  if cur = exp ∧ new ≠ 0 ∧ (s.findName new).isNone then (s, .error (cnFault 0x13 0))
  else
    let q := mapGet 0 (pa / 128) s.lineSeq + 1
    let s := { s with lineSeq := mapSet (pa / 128) q s.lineSeq }
    if cur = exp then
      let s := s.hbmWrite (some c) pa (natBytes 16 new.toNat)
      let s := if new = 0 then s else s.incName (some c) new
      (if cur = 0 then s else s.decName c cur, .ok cur)
    else (s, .ok cur)

/-- Whether a request needs the directory (R331). -/
def CnReq.needsDir : CnReq → Bool
  | .put _ data => data != 0
  | .get n | .ref n | .drop n | .out n => n != 0
  | .swap _ exp new _ => exp != 0 || new != 0

/-- What the directory answers to a request. -/
def State.cnServe (s : State) (c : Nat) (v : CnVerdict) : State × CnVerdict :=
  if v.req.needsDir && !s.poolEn then (s, { v with done := true, fault := some (cnFault 0x14 3) })
  else
    let missing := { v with done := true, fault := some (cnFault 0x13 0) }
    match v.req with
    | .put cls data =>
      if data = 0 then (s, { v with done := true })
      else match s.cnPut c cls data with
        | (s, .ok n) => (s, { v with done := true, name := n })
        | (s, .error t) => (s, { v with done := true, fault := some t })
    | .get n =>
      if n = 0 then (s, { v with done := true })
      else match s.findName n with
        | some i =>
          let r := s.nameRead c (s.slotAddr i)
          (r.1, { v with done := true, data := BitVec.ofNat 1024 r.2 })
        | none => (s, missing)
    | .ref n =>
      if n = 0 then (s, { v with done := true })
      else match s.findName n with
        | some i => (s.incSlot (some c) i, { v with done := true })
        | none => (s, missing)
    | .drop n =>
      if n = 0 then (s, { v with done := true })
      else match s.findName n with
        | some i => (s.decSlot c i, { v with done := true })
        | none => (s, missing)
    | .swap pa exp new sc =>
      match s.cnSwap c pa exp new with
      | (s, .ok n) => (if wideScope sc then s.clearCache (clusterOf c) else s, { v with done := true, name := n })
      | (s, .error t) => (s, { v with done := true, fault := some t })
    | .out root =>
      if root = 0 then (s, { v with done := true })
      else match s.findName root with
        | some i => (s.incSlot (some c) i, { v with done := true })
        | none => (s, missing)

def CnReq.isSwap : CnReq → Bool
  | .swap _ _ _ _ => true
  | _ => false

/-- Whether a CNSWAP waits, as an acquire, for what a release on its root's line orders (R361, R363). -/
def State.swapWaits (s : State) (c : Nat) : CnReq → Bool
  | .swap pa _ _ sc => s.acquireWaits c (pa / 128) sc
  | _ => false

/-- Whether a core's request may be performed: the pool is not being set, nothing earlier holds it, a CNSWAP has the
core's earlier accesses behind it and acquires what it has to, and C0 goes before C1 (R254, R331, R360, R361, R363). -/
def State.cnReady (s : State) (c : Nat) (v : CnVerdict) : Bool :=
  let x := s.core c
  !v.done && !s.pool.setting && !s.calendar.hold &&
  !(x.mem.memq.any fun e => e.holds x.flow.bun 7) &&
  !(v.req.isSwap && (!x.mem.memq.all (·.isFence) || s.releaseWaits c x.flow.bun)) && !s.swapWaits c v.req &&
  !(v.slot == 6 && x.mem.cn.any fun u => u.slot == 5 && !u.done)

/-- CN_DIRECTORY_VERDICT: the request of C0 (or C1) of a frozen core is performed. -/
def State.cnVerdict (s : State) (c : Nat) (second : Bool) : State :=
  let slot := if second then 6 else 5
  match (s.core c).mem.cn.find? fun v => v.slot == slot with
  | none => s
  | some v =>
    if s.cnReady c v then
      let r := s.cnServe c v
      r.1.modCore c fun x => x.modMem fun m => { m with cn := m.cn.map fun u => if u.slot == slot then r.2 else u }
    else s

/-- The name of the present line that holds the data, 0 where there is none (R346). -/
def State.lookName (s : State) (cls : BitVec 8) (data : Line) : Name :=
  if data = 0 then 0
  else match s.findData cls data with
    | some i => (s.dirEntry i).name
    | none => 0

/-- A lookup is performed. -/
def State.lookStep (s : State) (c i : Nat) (m : MemOp) (cls : BitVec 8) (data : Line) : State :=
  let n := s.lookName cls data
  (((s.dropOp c i).fill c m.id 0 (Result.setScalar (n.extractLsb' 0 64))).fill c m.id 1
    (Result.setScalar (n.extractLsb' 64 64))).endFences c

/-- A lookup that waited is performed. -/
def State.serveLook (s : State) (c i : Nat) : State :=
  match s.eligible c i with
  | none => s
  | some m =>
    match m.kind with
    | .look cls data => s.lookStep c i m cls data
    | _ => s

/-! ## The pool's registers (R330, R331) -/

def cnBaseMask : Word := 0x0000FFFFFFF00001
def cnSizeMask : Word := 0x00000000000FFFFF

/-- Whether the pool fits into HBM. -/
def poolFits (base size : Word) : Bool :=
  let p : Pool := { base := base, size := size }
  decide (p.base' + 160 * p.lines ≤ hbmSize)

/-- Every directory entry of the pool becomes FREE (R331): their lines are written, which the watches and monitors see (R169, R304). -/
def State.freeEntries (s : State) : State :=
  let lo := s.entryAddr 0
  let hi := s.entryAddr s.pool.lines
  ({ s with hbm := s.hbm.filter fun c => !(decide (lo ≤ c.1) && decide (c.1 < hi) && (c.1 - lo) % 32 == 0) } : State).linesWritten
    (lo / 128) (hi / 128)

/-- A write of CTL.CNPOOLBASE takes effect, made by a core of a die. Out of service, the pool's lines and what was to be reaped are
abandoned. -/
def State.writePoolBase (s : State) (die : Nat) (v : Word) : State :=
  let w := v &&& cnBaseMask
  if s.poolEn then
    if v.getLsbD 0 then s
    else { s with pool := { s.pool with base := s.pool.base &&& ~~~1, setting := false }, reaping := [] }
  else if v.getLsbD 0 then
    if poolFits w s.pool.size then
      ({ s with pool := { s.pool with base := w, setting := true, epoch := s.pool.epoch + 1 } } : State).freeEntries
    else
      { s.logError die 0x40 [v, s.pool.size] with pool := { s.pool with base := w &&& ~~~1 } }
  else { s with pool := { s.pool with base := w } }

/-- A write of CTL.CNPOOLSIZE takes effect. -/
def State.writePoolSize (s : State) (v : Word) : State :=
  if s.poolEn then s else { s with pool := { s.pool with size := v &&& cnSizeMask } }

end Sys2Proof.Machine
end

