-- ==== Sys2Proof/Machine/Transfer.lean ====
section
/-! DEFINITION. Machine/Transfer.lean: the bulk engines: rows of bulk transfers and the leaves of CNOUT, their order and
their completion (spec 12, R263 to R268; spec 15, R350). -/

namespace Sys2Proof.Machine

/-- Wrap(64, base + i·stride). -/
def strideAddr (base : Word) (i : Nat) (stride : Int) : Nat := wrap 64 ((base.toNat : Int) + i * stride)

def Bulk.global (b : Bulk) (i : Nat) : Nat := strideAddr b.g i b.gstride
def Bulk.loc (b : Bulk) (i : Nat) : Nat := strideAddr b.l i b.lstride

/-- Physical address of a virtual one under the translations that a transfer holds. -/
def Bulk.pa (b : Bulk) (va : Nat) : Nat := mapGet 0 (va / 65536) b.pages + va % 65536

/-! ## What a transfer touches (R265, R267) -/

/-- The stretches of physical memory on the global side of rows `i` on, `n` of them. -/
def Bulk.globalRuns (b : Bulk) (n : Nat) : List (Nat × Nat) :=
  if b.isOut then b.pages.map fun p =>
    let lo := max b.g.toNat (p.1 * 65536)
    let hi := min (b.g.toNat + b.rows * 128) (p.1 * 65536 + 65536)
    (p.2 + (lo - p.1 * 65536), hi - lo)
  else (List.range n).map fun i => (b.pa (b.global i), b.width)

def Bulk.shared (b : Bulk) : Bool :=
  match b.kind with
  | .getsh | .putsh => true
  | _ => false

/-- Whether a transfer writes its global side. -/
def Bulk.puts (b : Bulk) : Bool :=
  match b.kind with
  | .put | .putsh | .cnout _ _ => true
  | .get | .getsh => false

/-- The stretches of a row in its storage. -/
def shapeRuns (sh : RowShape) (off : Nat) : List (Nat × Nat) :=
  match sh with
  | .row w => [(off, widthBytes w)]
  | .col e => (List.range (512 / elemBytes e)).map fun k => (off + 512 * k, elemBytes e)

/-- The stretches of the local side, as addresses of the windows of the storages. -/
def State.localRuns (s : State) (c : Nat) (b : Bulk) : List (Nat × Nat) :=
  if b.isOut then []
  else (List.range b.rows).flatMap fun i =>
    (shapeRuns b.shape (b.loc i)).map fun r =>
      (if b.shared then s.sramAddr (clusterOf c) r.1 else s.spadAddr c r.1, r.2)

def runsMeet (l m : List (Nat × Nat)) : Bool :=
  l.any fun a => m.any fun b => decide (a.1 < b.1 + b.2) && decide (b.1 < a.1 + a.2)

def State.targetRuns (s : State) (c : Nat) (b : Bulk) : List (Nat × Nat) :=
  if b.puts then b.globalRuns b.rows else s.localRuns c b

def State.sourceRuns (s : State) (c : Nat) (b : Bulk) : List (Nat × Nat) :=
  if b.puts then s.localRuns c b else b.globalRuns b.rows

/-- Whether the target of one of two transfers of a core overlaps the source or target of the other, wherever their pages and windows
put them: then they are performed in issue order (R267). -/
def State.bulksMeet (s : State) (c : Nat) (a b : Bulk) : Bool :=
  let ta := s.targetRuns c a
  let tb := s.targetRuns c b
  runsMeet ta tb || runsMeet ta (s.sourceRuns c b) || runsMeet tb (s.sourceRuns c a)

/-! ## Moving (R221, R265, R350, R355) -/

/-- Whether a fence or an acquire holds a transfer: as reads, as writes, or as a content-named operation (R278, R279, R361). -/
def Bulk.heldBy (b : Bulk) (e : MemOp) : Bool := e.holds b.bun 3 || e.holds b.bun 4 || (b.isOut && e.holds b.bun 7)

/-- Transfer `i` of a core, when the order of transfers and fences lets it go on (R267, R279, R361, R366). -/
def State.bulkOrdered (s : State) (c i : Nat) : Option Bulk :=
  let m := (s.core c).mem
  match m.bulk[i]? with
  | none => none
  | some b =>
    if (m.bulk.take i).any (fun a => s.bulksMeet c a b) || m.memq.any b.heldBy ||
        (b.sc && m.outs.any fun o => o.bulk == some b.id) then none
    else some b

/-- Whether the next access of a transfer waits for a bank that a lock holds. -/
def State.bulkLocked (s : State) (c : Nat) (b : Bulk) : Bool :=
  let own := !b.shared && (s.core c).lockHolds (shapeBanks b.shape (b.loc b.next))
  match b.kind with
  | .cnout _ _ => false
  | .put | .putsh => own
  | .get | .getsh => if b.part < b.parts then s.lockedAt (b.pa (b.global b.next)) b.width else own

/-- Where row `i` of a transfer lies on its global side. -/
def Bulk.rowPa (b : Bulk) (i : Nat) : Nat := b.pa (if b.isOut then strideAddr b.g i 128 else b.global i)

/-- The first access of a transfer that is still to go to a module which has become unreachable, by its address (R449). -/
def State.lostBulk (s : State) (b : Bulk) : Option Nat :=
  if s.lostModules.isEmpty then none
  else
    let first := if !b.isOut && decide (b.parts ≤ b.part) then b.next + 1 else b.next
    ((List.range (b.rows - first)).map fun i => b.rowPa (first + i)).find? fun pa => s.lostModules.contains (modOf pa)

/-- Transfer `i` of a core, when it may go on now: a maintenance slot and a lock hold it (R235, R420), and one with an access that is lost ends
its node first (R449). -/
def State.bulkReady (s : State) (c i : Nat) : Option Bulk :=
  match s.bulkOrdered c i with
  | none => none
  | some b => if s.calendar.hold || s.bulkLocked c b || (s.lostBulk b).isSome then none else some b

def State.setBulk (s : State) (c i : Nat) (b : Bulk) : State :=
  s.modCore c fun x => x.modMem fun m => { m with bulk := m.bulk.set i b }

/-- The line parts of a row at an address, from its low bytes; a row behind a window is written whole. -/
def State.rowOuts (s : State) (bulk : Option Nat) (bun pa len v : Nat) (sc : Bool) : List OutWrite :=
  if s.place pa = .hbm then
    (List.range ((len + 127) / 128)).map fun k =>
      ⟨bulk, bun, .line (pa + 128 * k) (natBytes (min 128 (len - 128 * k)) (v >>> (8 * 128 * k))), sc⟩
  else [⟨bulk, bun, .line pa (natBytes len v), sc⟩]

def State.putOuts (s : State) (c : Nat) (l : List OutWrite) : State :=
  s.modCore c fun x => x.modMem fun m => { m with outs := m.outs ++ l }

/-- A further line part of a row read from the global side, or the row written on the local one. -/
def State.getStep (s : State) (c i : Nat) (b : Bulk) : State :=
  let ga := b.pa (b.global b.next)
  if b.part < b.parts then
    if s.place ga = .hbm then
      let r := s.physRead (some c) (ga + 128 * b.part) (min 128 (b.width - 128 * b.part))
      r.1.setBulk c i { b with part := b.part + 1, acc := b.acc + r.2 * 2 ^ (8 * 128 * b.part) }
    else
      let r := s.physRead (some c) ga b.width
      r.1.setBulk c i { b with part := b.parts, acc := r.2 }
  else
    let cells := shapeCells b.shape (b.loc b.next) (BitVec.ofNat 4096 b.acc)
    (if b.shared then s.sramStore (clusterOf c) cells else s.spadStore c cells).setBulk c i
      { b with next := b.next + 1, part := 0, acc := 0 }

/-- A row read on the local side; its writes are issued. -/
def State.putStep (s : State) (c i : Nat) (b : Bulk) : State :=
  let byte := if b.shared then s.sramByte (clusterOf c) else s.spadByte c
  let v := (readShape byte b.shape (b.loc b.next)).toNat
  (s.putOuts c (s.rowOuts (some b.id) b.bun (b.pa (b.global b.next)) b.width v false)).setBulk c i { b with next := b.next + 1 }

/-- Whether the next row of a transfer lies in a module that has become unreachable: its access is dropped (R449). -/
def State.rowGone (s : State) (b : Bulk) : Bool := s.lostModules.contains (modOf (b.rowPa b.next))

/-- One leaf of CNOUT issued. -/
def State.putLeaf (s : State) (c i : Nat) (b : Bulk) (rest : List (Option Name × Nat)) (v : Line) : State :=
  (if s.rowGone b then s else s.putOuts c [⟨some b.id, b.bun, .line (b.rowPa b.next) (natBytes 128 v.toNat), false⟩]).setBulk c i
    { b with next := b.next + 1, work := rest }

/-- CNOUT goes on with the subtree that is next (R350): a name that stands where it may not, or is not present, is logged once and all
its leaves are zeros. -/
def State.outStep (s : State) (c i : Nat) (b : Bulk) : State :=
  match b.work with
  | [] => s
  | (none, 0) :: t => s.setBulk c i { b with work := t }
  | (none, k + 1) :: t => s.putLeaf c i b ((none, k) :: t) 0
  | (some n, d) :: t =>
    let zeros := (none, 8 ^ d) :: t
    let bad (kind : BitVec 8) : State := (s.logError (dieOf c) kind [n.extractLsb' 0 64]).setBulk c i { b with work := zeros }
    if n = 0 then s.setBulk c i { b with work := zeros }
    else if (Name.cls n = 0) ≠ (d = 0) then bad 0x41
    else match s.findName n with
      | none => bad 0x42
      | some k =>
        let r := s.hbmRead (some c) (s.slotAddr k) 128
        let v := s.slotLine k
        if d = 0 then r.1.putLeaf c i b t v
        else r.1.setBulk c i { b with work := ((children v).map fun m => (some m, d - 1)) ++ t }

/-- A row of a transfer is left out. -/
def State.skipRow (s : State) (c i : Nat) (b : Bulk) : State := s.setBulk c i { b with next := b.next + 1, part := 0, acc := 0 }

/-- A transfer goes on by one access: a line part, a row on its local side, or a line of a tree. -/
def State.bulkStep (s : State) (c i : Nat) (b : Bulk) : State :=
  if b.moved then s
  else (match b.kind with
    | .get | .getsh => if s.rowGone b && decide (b.part < b.parts) then s.skipRow c i b else s.getStep c i b
    | .put | .putsh => if s.rowGone b then s.skipRow c i b else s.putStep c i b
    | .cnout _ _ => s.outStep c i b).endFences c

/-- One further access of transfer `i`. -/
def State.bulkRow (s : State) (c i : Nat) : State :=
  match s.bulkReady c i with
  | none => s
  | some b => s.bulkStep c i b

/-- Whether engine write `i` of a core may be performed: an earlier one to its line, or of MDRAINS to an SC page as well, goes first, and
a maintenance slot or a lock may hold it (R235, R355, R366, R420). -/
def State.writeReady (s : State) (c i : Nat) : Option OutWrite :=
  let l := (s.core c).mem.outs
  match l[i]? with
  | none => none
  | some o =>
    match o.dest with
    | .line pa bytes =>
      let same (p : OutWrite) : Bool := match p.dest with | .line a _ => a / 128 == pa / 128 | _ => false
      if (l.take i).any (fun p => same p || (o.sc && p.sc)) || s.calendar.hold || s.lockedAt pa bytes.length then none else some o
    | .spad cells =>
      let own (p : OutWrite) : Bool := match p.dest with | .spad _ => true | _ => false
      if (l.take i).any own || (s.core c).lockHolds (cells.map fun p => bankOf p.1) then none else some o

/-- An engine write is performed. -/
def State.writeOut (s : State) (c i : Nat) (o : OutWrite) : State :=
  let s := s.modCore c fun x => x.modMem fun m => { m with outs := m.outs.eraseIdx i }
  (match o.dest with
    | .line pa bytes => s.physWrite (some c) pa bytes
    | .spad cells => s.spadStore c cells).endFences c

/-- Engine write `i` of a core reaches its home, or the storage that it goes to. -/
def State.engineWrite (s : State) (c i : Nat) : State :=
  match s.writeReady c i with
  | none => s
  | some o => s.writeOut c i o

/-- Whether a transfer is complete (R268). -/
def Local.bulkOver (m : Local) (b : Bulk) : Bool := b.moved && !(m.outs.any fun o => o.bulk == some b.id)

/-- A complete transfer leaves; the root reference of a CNOUT is released (R339), where its pool is still in service (R331). -/
def State.bulkDone (s : State) (c i : Nat) (b : Bulk) : State :=
  let s := s.modCore c fun x => x.modMem fun m => { m with bulk := m.bulk.eraseIdx i }
  let s := match b.kind with
    | .cnout root _ => if root = 0 ∨ !s.poolEn ∨ s.pool.epoch ≠ b.epoch then s else s.decName c root
    | _ => s
  s.endFences c

/-- BULK_TRANSFER_COMPLETE: transfer `i`, all of whose bytes have been read and written, is complete (R268). -/
def State.bulkComplete (s : State) (c i : Nat) : State :=
  let m := (s.core c).mem
  match m.bulk[i]? with
  | none => s
  | some b => if m.bulkOver b then s.bulkDone c i b else s

end Sys2Proof.Machine
end

