-- ==== Sys2Proof/Machine/Array.lean ====
section
/-! DEFINITION. Machine/Array.lean: the hearth arrays (spec 13) and what they do for the matrix instructions (spec 14):
planes and weight images, alignment, converters, products with their bounds, drains, and the order of commands. -/

namespace Sys2Proof.Machine

/-! ## Profiles and geometry (R292 to R294) -/

/-- Weight forms (R293). -/
inductive WeightForm
  | byte | nibble | pair
  deriving DecidableEq, Repr

def profileForm (np : BitVec 5) : WeightForm :=
  if np = 6 then .nibble else if np = 2 then .pair else .byte

/-- Alignment width of the activations of a profile (R294). -/
def alignBits (np : BitVec 5) : Nat := if np = 1 ∨ np = 6 then 4 else if np = 2 then 16 else 8

/-- Profiles of integer activations (R294). -/
def intProfile (np : BitVec 5) : Bool := np == 5 || np == 6

def profileKind (np : BitVec 5) : RowKind := if intProfile np then .I else .F

/-- Activation tags accepted (R294). -/
def profileAccepts (np : BitVec 5) (t : Tag) : Bool :=
  match np.toNat with
  | 2 => t == .FP32 || t == .BF16 || t == .FP16
  | 5 => t == .I8
  | 6 => t == .I4
  | 7 => t == .E4M3
  | _ => t == .FP32 || t == .BF16 || t == .FP16 || t == .E4M3 || t == .E5M2

/-- Bit-cycles per vector (R294). -/
def bitCycles (np : BitVec 5) : Nat := if np = 1 ∨ np = 6 then 4 else if np = 2 then 16 else 8

def inputsOf (geom : Nat) : Nat := 2048 >>> geom

/-- Outputs of a macro (R292). -/
def macroOutputs : WeightForm → Nat
  | .byte => 128
  | .nibble => 256
  | .pair => 64

def outputsOf (f : WeightForm) (geom : Nat) : Nat := macroOutputs f * 2 ^ geom

/-! ## Planes (R284, R293, R305) -/

def zeroPlanes : Planes := { codes := BitVec.ofNat 4096 (packNat 8 (List.replicate 512 127)) }

/-- Planes as a node reads them: those without a key, or with another node's, read as zero weights (R305). -/
def Planes.forNode (p : Planes) (node : Nat) : Planes :=
  match p.key with
  | some k => if k.node = node then p else zeroPlanes
  | none => zeroPlanes

/-- The byte of planes at a row and a column. -/
def Planes.byte (p : Planes) (k c : Nat) : Nat := (p.w.extractLsb' (8 * (128 * k + c)) 8).toNat

/-- The exponent code of a column-segment. -/
def Planes.code (p : Planes) (g c : Nat) : Nat := (p.codes.extractLsb' (8 * (128 * g + c)) 8).toNat

/-! ## Alignment of activations (R296) -/

/-- A segment of 64 activations, aligned: the integers, the exponent of sa, and whether a NaN or an infinity stood there. -/
structure Aligned where
  q : List Int
  exp : Int := 0
  bad : Bool := false
  deriving DecidableEq, Repr

def log2Val : Val → Option Int
  | .fin _ m e => if m = 0 then none else some ((m.log2 : Int) + e)
  | _ => none

def maxOpt (a b : Option Int) : Option Int :=
  match a, b with
  | none, b => b
  | a, none => a
  | some a, some b => some (if a < b then b else a)

def isBad : Val → Bool
  | .fin _ _ _ => false
  | _ => true

def clampSigned (b : Nat) (v : Int) : Int :=
  let h : Int := (2 ^ (b - 1) : Nat)
  if v < -h then -h else if h - 1 < v then h - 1 else v

/-- Alignment of a segment to `b` bits; `rnd` gives the Rnd16 of each element. -/
def alignSeg (b : Nat) (rm : RMode) (rnd : Nat → Nat) (xs : List Val) : Aligned :=
  if xs.any isBad then { q := xs.map fun _ => 0, bad := true }
  else
    match xs.foldl (fun a x => maxOpt a (log2Val x)) none with
    | none => { q := xs.map fun _ => 0 }
    | some e =>
      let sa := e - b + 2
      { q := xs.zipIdx.map fun p => clampSigned b ((valToInt rm (rnd p.2) (valScale p.1 (-sa))).getD 0), exp := sa }

/-- The segments of one vector. -/
def alignVector (np : BitVec 5) (tag : Tag) (rnd : Nat → Nat) (codes : List Nat) : List Aligned :=
  (List.range (codes.length / 64)).map fun s =>
    let seg := (codes.drop (64 * s)).take 64
    if intProfile np then { q := seg.map (intVal tag) }
    else alignSeg (alignBits np) (if np = 4 then .sr else .rne) (fun i => rnd (64 * s + i))
      (seg.map (decodeFloat (tagFmt tag)))

/-! ## The converter (R285 to R287) -/

/-- A segment result and whether its converter clipped. -/
structure SegResult where
  v : Int
  clip : Bool := false
  deriving DecidableEq, Repr

def floorDiv (a : Int) (b : Nat) : Int := a / (b : Int)
def ceilDiv (a : Int) (b : Nat) : Int := -((-a) / (b : Int))

/-- The code that the converter gives for Q with offset `o`, one of those that R286 permits. -/
def converterCode (u : Nat) (o q : Int) (pick : Nat) : Int :=
  let lo := max (-128) (ceilDiv (q + 8 * o * u - 96 * u) (64 * u))
  let hi := min 127 (floorDiv (q + 8 * o * u + 96 * u) (64 * u))
  if lo ≤ hi then lo + (Config.converterPick pick % ((hi - lo + 1).toNat)) else if hi < -128 then -128 else 127

/-- Σ a·w with the S low planes converted (R285, R286). An offset out of range computes them digitally (R288). -/
def convertSum (split : Nat) (o : Int) (pick : Nat) (a w : List Int) : SegResult :=
  let p := (List.zipWith (· * ·) a w).sum
  if split = 0 ∨ o < -128 ∨ 127 < o then ⟨p, false⟩
  else
    let q := (List.zipWith (fun x y => x * (y % (2 ^ split : Int))) a w).sum
    let u := 2 ^ split - 1
    let c := converterCode u o q pick
    ⟨p - q + 8 * u * (8 * c - o), c == -128 || c == 127⟩

/-! ## Products (R295, R298) -/

/-- What a product needs of a cluster: planes as the node reads them, the offsets, and the numbering of free values. -/
structure ArrayView where
  macros : List Planes
  offset : Nat → Nat → Nat → Int
  base : Nat

/-- Macro, macro column and segment of an output's segment `s` (R292). -/
def segPlace (f : WeightForm) (geom n s : Nat) : Nat × Nat × Nat :=
  (n / macroOutputs f * 2 ^ (3 - geom) + s / 4, n % macroOutputs f, s % 4)

/-- Weights of a column in a segment, signed (R293). -/
def segWeights (p : Planes) (f : WeightForm) (c g : Nat) : List Int :=
  (List.range 64).map fun k =>
    match f with
    | .byte => signedVal 8 (p.byte (64 * g + k) c)
    | .nibble => if c < 128 then signedVal 4 (p.byte (64 * g + k) c % 16) else signedVal 4 (p.byte (64 * g + k) (c - 128) / 16)
    | .pair => 256 * signedVal 8 (p.byte (64 * g + k) (2 * c)) + p.byte (64 * g + k) (2 * c + 1)

/-- The physical column whose exponent code an output uses (R316). -/
def codeColumn (f : WeightForm) (c : Nat) : Nat :=
  match f with
  | .byte => c
  | .nibble => c % 128
  | .pair => 2 * c

/-- The column-segment and the converter arrangement of an output (R284, R286, R293). -/
def converterAt (f : WeightForm) (c g : Nat) : Nat × Nat :=
  match f with
  | .byte => (128 * g + c, 0)
  | .nibble => (128 * g + c % 128, if c < 128 then 1 else 2)
  | .pair => (128 * g + 2 * c + 1, 0)

/-- The segment result of R285 to R286, of R295 for the 16-bit pair. -/
def segResult (v : ArrayView) (f : WeightForm) (geom split n s pick : Nat) (a : List Int) : SegResult :=
  let (m, c, g) := segPlace f geom n s
  let p := v.macros.getD m zeroPlanes
  let w := segWeights p f c g
  let (cs, arr) := converterAt f c g
  let o := v.offset m cs arr
  match f with
  | .pair =>
    let low := w.map (· % 256)
    let r (x : List Int) (pick : Nat) : SegResult :=
      let t := convertSum split o pick x low
      ⟨256 * (List.zipWith (fun x y => x * (y / 256)) x w).sum + t.v, t.clip⟩
    let hi := r (a.map (· / 256)) pick
    let lo := r (a.map fun x => x % 256 - 128) (pick + 1)
    ⟨256 * hi.v + lo.v + 128 * w.sum, hi.clip || lo.clip⟩
  | _ => convertSum split o pick a w

/-- The exponent of sw, or none for the code 0xFF (R297); profiles 5 and 6 ignore the code. -/
def segScale (v : ArrayView) (np : BitVec 5) (f : WeightForm) (geom n s : Nat) : Option Int :=
  if intProfile np then some 0
  else
    let (m, c, g) := segPlace f geom n s
    let x := (v.macros.getD m zeroPlanes).code g (codeColumn f c)
    if x = 255 then none else some ((x : Int) - 127)

/-- One output of one vector: its code, its bound, and whether it clipped (R290, R298). -/
structure Output where
  y : Nat
  bound : Nat
  clip : Bool
  deriving DecidableEq, Repr

def oneOutput (v : ArrayView) (np : BitVec 5) (geom split n pick : Nat) (segs : List Aligned) : Output :=
  let f := profileForm np
  let parts := segs.zipIdx.map fun p =>
    (segResult v f geom split n p.2 (pick + 2 * p.2) p.1.q, p.1, segScale v np f geom n p.2)
  let bound := parts.foldl (fun b p =>
    if p.1.clip then .inf false
    else valAdd false b
      (.fin false (96 * (2 ^ split - 1) * (if np = 2 then 257 else 1)) (p.2.1.exp + p.2.2.getD 0))) (.fin false 0 0)
  let nan := parts.any fun p => p.2.1.bad || p.2.2.isNone
  let z := parts.map fun p => rne fp32 (valOfInt false p.1.v (p.2.1.exp + p.2.2.getD 0))
  let y :=
    if intProfile np then wrap 32 (parts.map fun p => p.1.v).sum
    else if nan then nanOf fp32
    else if np = 3 then treeReduce (fAdd fp32) 0 (levels z.length) z
    else (z.drop 1).foldl (fAdd fp32) (z.headD 0)
  ⟨y, roundVal fp32 .ru 0 false bound, parts.any (·.1.clip)⟩

/-! ## Accumulator rows (R291, R299) -/

def plusInf : Nat := 0x7F800000

/-- A lane after a product. -/
def accLane (mode : AccMode) (kind : RowKind) (lane y : Nat) : Nat :=
  match mode with
  | .ovr => y
  | _ => if kind = .I then (lane + y) % 2 ^ 32 else fAdd fp32 lane y

/-- A companion lane after a product. -/
def accComp (mode : AccMode) (split : Nat) (comp b : Nat) : Nat :=
  match mode with
  | .ovr => b
  | .acc => if split = 0 then comp else plusInf
  | .accb => roundVal fp32 .ru 0 false (valAdd false (decodeFloat fp32 comp) (decodeFloat fp32 b))

def laneOfRow (r : BankRow) (n : Nat) : Nat := (r.extractLsb' (32 * n) 32).toNat

/-- A bank row with its lanes below `n` replaced. -/
def setLanes (r : BankRow) (l : List Nat) : BankRow :=
  let n := 32 * l.length
  BitVec.ofNat 32768 (packNat 32 l + (r.toNat >>> n) <<< n)

/-! ## The commands of a core at the array -/

def ArrayView.of (s : State) (c : Nat) : ArrayView :=
  let k := clusterOf c
  let node := (s.nodeOf c).getD 0
  { macros := (s.cluster k).macros.toList.map fun m =>
      if (s.nodeOf c).isSome then m.active.forNode node else zeroPlanes
    offset := fun m cs arr => Config.calOffset s.calEpoch (k / 64) (s.physCluster k) m cs arr
    base := s.fresh }

/-- The element codes of vector `j` (R318). -/
def vectorCodes (tag : Tag) (rows : List RowBits) (k j : Nat) : List Nat :=
  let n := tagCount tag
  (List.range k).map fun i =>
    let e := j * k + i
    elem (tagBits tag) (rows.getD (e / n) 0) (e % n)

/-- All outputs of a product, by vector (R298). -/
def productOutputs (v : ArrayView) (np : BitVec 5) (nr split geom : Nat) (tag : Tag) (rows : List RowBits)
    (rnd : Option (Word × Nat × Word)) : List (List Output) :=
  let k := inputsOf geom
  let n := outputsOf (profileForm np) geom
  (List.range (nr + 1)).map fun j =>
    let segs := alignVector np tag
      (fun i => match rnd with | some (seed, sl, cnt) => rnd16 seed sl cnt (j * k + i) | none => 0)
      (vectorCodes tag rows k j)
    (List.range n).map fun o => oneOutput v np geom split o (v.base + ((j * n + o) * 64)) segs

/-- The bits of CTL.CLIP that outputs set (R287). -/
def clipBits (l : List (List Output)) : Word :=
  BitVec.ofNat 64 ((List.range 64).foldl (fun a i =>
    if l.any (fun r => ((r.drop (16 * i)).take 16).any (·.clip)) then a + 2 ^ i else a) 0)

/-- A product written to the bank of its core (R291, R298): a row that was of kind Z when the command issued counts as zero (R299). -/
def Core.applyProduct (x : Core) (np : BitVec 5) (split : Nat) (mode : AccMode) (zeros : BitVec 32) (out : List (List Output)) : Core :=
  let kind := profileKind np
  (x.modMat fun m =>
    out.zipIdx.foldl (fun m p =>
      let i := p.2 % 32
      have hi : i < 32 := Nat.mod_lt _ (by decide)
      let b := if zeros.getLsbD i then 0 else m.bank.get ⟨i, hi⟩
      let q := if zeros.getLsbD i then 0 else m.comp.get ⟨i, hi⟩
      { m with
        bank := m.bank.set i (setLanes b (p.1.zipIdx.map fun o => accLane mode kind (laneOfRow b o.2) o.1.y)) hi
        comp := m.comp.set i (setLanes q (p.1.zipIdx.map fun o => accComp mode split (laneOfRow q o.2) o.1.bound)) hi }) m).modCtl
    fun t => { t with clip := t.clip ||| clipBits out }

/-! ## Weight images (R297, R315, R316) -/

/-- Bytes of an image: those of its stretches one after another. -/
def State.imageBytes (s : State) (c : Nat) (st : List (Nat × Nat)) : State × List Byte :=
  st.foldl (fun acc p =>
    let r := acc.1.physRead (some c) p.1 p.2
    (r.1, acc.2 ++ natBytes p.2 r.2)) (s, [])

/-- The integers and the exponent code of a column-segment of BX4 weights, and whether the exponent fits (R297). -/
def alignWeights (vs : List Val) : List Int × Nat × Bool :=
  match vs.foldl (fun a x => maxOpt a (log2Val x)) none with
  | none => (vs.map fun _ => 0, 127, true)
  | some e =>
    let x := e - 6 + 127
    let xc : Int := if x < 0 then 0 else if 254 < x then 254 else x
    (vs.map fun v =>
      let k := (valToInt .rne 0 (valScale v (127 - xc))).getD 0
      if k < -128 then -128 else if 127 < k then 127 else k, xc.toNat, x == xc)

/-- What one BX4 row of an image loads: for its two columns the weights by row and four codes, and the kinds of the
error-log entries (R297, R316). -/
def bx4Columns (r : RowBits) : List (List Int × List Nat) × List (BitVec 8) :=
  match bx4Check r with
  | some _ => ((List.range 2).map fun _ => (List.replicate 256 0, List.replicate 4 127), [0x33])
  | none =>
    let v := bx4Values r
    let segs := (List.range 2).map fun h => (List.range 4).map fun g => alignWeights ((v.drop (256 * h + 64 * g)).take 64)
    (segs.map fun l => (l.flatMap (·.1), l.map (·.2.1)), (segs.flatten.filter fun p => !p.2.2).map fun _ => 0x34)

/-- The bytes of every pair exchanged. -/
def swapPairs : List Byte → List Byte
  | lo :: hi :: t => hi :: lo :: swapPairs t
  | l => l

/-- Planes and log kinds (with the number of the row) from the bytes of an image. -/
def planesOf (wfmt : WFmt) (b : List Byte) : Planes × List (Nat × BitVec 8) :=
  match wfmt with
  | .w8 | .w4 =>
    ({ w := BitVec.ofNat 262144 (bytesNat (b.take 32768)), codes := BitVec.ofNat 4096 (bytesNat ((b.drop 32768).take 512)) }, [])
  | .w16 =>
    ({ w := BitVec.ofNat 262144 (bytesNat (swapPairs (b.take 32768))),
       codes := BitVec.ofNat 4096 (bytesNat ((b.drop 32768).take 512)) }, [])
  | .wbx4 =>
    let rows := (List.range 64).map fun i => bx4Columns (BitVec.ofNat 4096 (bytesNat ((b.drop (512 * i)).take 512)))
    let cols := rows.flatMap (·.1)
    let bytes := (List.range 256).flatMap fun k => cols.map fun c => wrap 8 (c.1.getD k 0)
    let codes := (List.range 4).flatMap fun g => cols.map fun c => c.2.getD g 127
    ({ w := BitVec.ofNat 262144 (packNat 8 bytes), codes := BitVec.ofNat 4096 (packNat 8 codes) },
     rows.zipIdx.flatMap fun p => p.1.2.map fun k => (p.2, k))

/-- The physical address of byte `off` of an image. -/
def imageAddr : List (Nat × Nat) → Nat → Nat
  | [], _ => 0
  | (pa, n) :: t, off => if off < n then pa + off else imageAddr t (off - n)

def PlaneKey.same (a b : PlaneKey) : Bool := a.pa == b.pa && a.pages == b.pages && a.geom == b.geom && a.wfmt == b.wfmt

def Planes.matches (p : Planes) (k : PlaneKey) : Bool :=
  match p.key with
  | some q => q.same k && q.watch
  | none => false

/-- A macro image moves through the flue of a die in bursts of 4 KiB, each sent again up to three times (R306, R440). -/
def State.moveImage (s : State) (d n : Nat) : State :=
  let bursts := (n + 4095) / 4096
  let again := ((List.range bursts).map fun i => (Config.freeWord (s.fresh + i)).toNat % 4).sum
  let add (k v : Nat) (m : SMap Word) : SMap Word := mapSet k (mapGet 0 k m + BitVec.ofNat 64 v) m
  ({ s with fresh := s.fresh + bursts } : State).modDie d fun x =>
    { x with counters := add 0x134 again (add 0x133 (n + 4096 * again) x.counters) }

def State.modMacro (s : State) (k m : Nat) (f : Macro → Macro) : State :=
  s.modCluster k fun c => { c with macros := c.macros.set (m % 8) (f (c.macros.get (Fin.ofNat 8 m))) (Nat.mod_lt m (by decide)) }

/-- One macro's shadow filled from the bytes of its image, by a burst that has `failed` or not (R307); where the macro's own planes have its key and are still watched they hold
the same weights (R303, R304). What the image has wrong is logged either way (R90, R297, R316). -/
def State.loadMacro (s : State) (c m : Nat) (key : PlaneKey) (failed : Bool) (bytes : List Byte) : State :=
  let k := clusterOf c
  let old := (s.cluster k).macros.get (Fin.ofNat 8 m)
  let p := planesOf key.wfmt bytes
  let s := p.2.foldl (fun s e => s.logError (dieOf c) e.2 [BitVec.ofNat 64 (imageAddr key.pages (512 * e.1))]) s
  let fill (s : State) (new : Planes) : State := s.modMacro k m fun x => { x with shadow := new }
  if old.active.matches key then fill s { old.active with key := some key, burst := false, inval := false }
  else if old.shadow.matches key then fill s { old.shadow with key := some key, burst := false, inval := false }
  else fill (s.moveImage (dieOf c) bytes.length) { p.1 with key := some key, burst := failed }

/-- Whether a shadow is invalid for a node (R305). -/
def Planes.invalidFor (p : Planes) (node : Nat) : Bool :=
  p.inval || p.burst || (match p.key with | some k => k.node != node | none => true)

def Planes.onlyBurst (p : Planes) (node : Nat) : Bool :=
  p.burst && !p.inval && (match p.key with | some k => k.node == node | none => false)

/-! ## Drains (R323 to R327) -/

/-- Lane span and register rows of a drain format (R323). -/
def drainShape : DrainFmt → Nat × Nat
  | .f128 | .bnd128 => (128, 1)
  | .f256 | .bnd256 => (256, 2)
  | .f512 | .bnd512 => (512, 4)
  | .f1024 | .bnd1024 => (1024, 8)
  | .bf256 => (256, 1)
  | .bf512 => (512, 2)
  | .bf1024 => (1024, 4)
  | .e512 | .bx512 => (512, 1)
  | .e1024 | .bx1024 => (1024, 2)

/-- Formats that copy lanes. -/
def DrainFmt.isCopy : DrainFmt → Bool
  | .f128 | .f256 | .f512 | .f1024 => true
  | _ => false

/-- Result tag of a drain of rows of the given kinds (R324). -/
def drainTag (fmt : DrainFmt) (kinds : List RowKind) : Tag :=
  match fmt with
  | .f128 | .f256 | .f512 | .f1024 => if kinds.contains .I then .I32 else .FP32
  | .bf256 | .bf512 | .bf1024 => .BF16
  | .e512 | .e1024 => .E4M3
  | .bx512 | .bx1024 => .BX4
  | _ => .FP32

/-- The tag under which a lane is converted. -/
def laneTag (kind : RowKind) : Tag := if kind = .I then .I32 else .FP32

/-- The FP32 code of a lane. -/
def laneFp (kind : RowKind) (lane : Nat) : Nat := if kind = .I then convert .I32 .FP32 .rne 0 false lane else lane

/-- The rows that one accumulator row drains to (R323, R324). -/
def drainRow (fmt : DrainFmt) (amax : Nat) (kind : RowKind) (bank comp : BankRow) : List RowBits :=
  let (l, p) := drainShape fmt
  let lane (i : Nat) := laneOfRow bank i
  (List.range p).map fun q =>
    let idx := (List.range (l / p)).map fun i => q * (l / p) + i
    match fmt with
    | .f128 | .f256 | .f512 | .f1024 => packRow 32 (idx.map lane)
    | .bf256 | .bf512 | .bf1024 => packRow 16 (idx.map fun i => convert (laneTag kind) .BF16 .rne 0 false (lane i))
    | .e512 | .e1024 => packRow 8 (idx.map fun i => convert (laneTag kind) .E4M3 .rne 0 true (lane i))
    | .bx512 | .bx1024 => quantise (idx.map fun i => laneFp kind (lane i)) amax
    | _ => packRow 32 (idx.map fun i => laneOfRow comp i)

/-- The largest magnitude of the lanes of a drain (R325). -/
def drainMax (l : Nat) (rows : List (RowKind × BankRow)) : Nat :=
  rne fp32 (rows.foldl (fun v p => (List.range l).foldl (fun v i =>
    valMax v (valAbs (decodeFloat fp32 (laneFp p.1 (laneOfRow p.2 i))))) v) .nan)

/-! ## Order of commands (R301) -/

/-- Queued array commands of other cores of the cluster granted earlier. -/
def State.olderGrants (s : State) (c g : Nat) : Bool :=
  (List.range 8).any fun i =>
    let o := coreOfCluster (clusterOf c) i
    o != c && (s.core o).mat.cmds.any fun q => match q.grant with | some h => decide (h < g) | none => false

def State.majorNow (s : State) : Bool :=
  match s.calendar.now with
  | some (_, .major) => true
  | _ => false

/-- Whether a lock holds a row that a product fetches next from another core (R235, R321). -/
def State.fetchLocked (s : State) (q : Queued) : Bool :=
  match q.cmd with
  | .product _ _ _ _ _ _ _ _ (some (owner, o :: _, sh)) _ => (s.core owner).lockHolds (shapeBanks sh o)
  | _ => false

/-- Whether a fence or an acquire holds the accesses of a command (R279, R361). -/
def Queued.heldBy (q : Queued) (e : MemOp) : Bool := (q.isMr && e.holds q.bun 5) || (q.isMw && e.holds q.bun 6)

/-- The command at the head of a core's buffer, when it may be performed: fences and acquires hold its accesses (R279, R361), earlier
grants of the cluster go first. -/
def State.headCmd (s : State) (c : Nat) : Option Queued :=
  if s.majorNow then none
  else match (s.core c).mat.cmds with
    | [] => none
    | q :: _ =>
      let held := (s.core c).mem.memq.any q.heldBy
      let older := match q.grant with | some g => s.olderGrants c g | none => false
      if held || older || s.fetchLocked q then none else some q

def State.popCmd (s : State) (c : Nat) : State := s.modCore c fun x => x.modMat fun m => { m with cmds := m.cmds.drop 1 }

/-- The command at the head of a core's buffer goes on. -/
def State.setHead (s : State) (c : Nat) (q : Queued) : State :=
  s.modCore c fun x => x.modMat fun m => { m with cmds := q :: m.cmds.drop 1 }

def Core.countArray (x : Core) (charge : Bool) : Core :=
  { x with perf := { x.perf with arrayCmd := x.perf.arrayCmd + 1
                                 chargeCmd := x.perf.chargeCmd + if charge then 1 else 0 } }

/-- MZERO and MWINV at the head of the buffer are performed at once, up to `fuel` of them (R317, R322). -/
def State.settleCmds (s : State) (c : Nat) : Nat → State
  | 0 => s
  | fuel + 1 =>
    match (s.headCmd c).map Queued.cmd with
    | some .zero =>
      ((s.popCmd c).modCore c fun x => x.modMat fun m =>
        { m with bank := Vector.replicate 32 0, comp := Vector.replicate 32 0 }).settleCmds c fuel
    | some (.inval mask) =>
      let s := (s.popCmd c).modCore c fun x => x.countArray false
      ((bitsOf 8 mask).foldl (fun s m => s.modMacro (clusterOf c) m fun x => { x with shadow := { x.shadow with inval := true } })
        s).settleCmds c fuel
    | _ => s

/-- After a command has been performed: the heads of every core of the cluster are looked at, and fences that waited. -/
def State.afterCmd (s : State) (c : Nat) : State :=
  (List.range 8).foldl (fun s i =>
    let o := coreOfCluster (clusterOf c) i
    (s.settleCmds o 32).endFences o) s

/-- ARRAY_PRODUCT (R298, R320): the product, once the rows that another core's scratchpad holds have been read there, one after
another (R321). -/
def State.arrayProduct (s : State) (c : Nat) : State :=
  match s.headCmd c with
  | some q =>
    match q.cmd with
    | .product np nr split mode tag geom rows rnd (some (owner, o :: t, sh)) zeros =>
      let row := readShape (s.remoteByte owner) sh o
      (s.setHead c { q with cmd := .product np nr split mode tag geom (rows ++ [row]) rnd (some (owner, t, sh)) zeros }).endFences c
    | .product np nr split mode tag geom rows rnd _ zeros =>
      let v := ArrayView.of s c
      let out := productOutputs v np nr split geom tag rows rnd
      let s := { s with fresh := s.fresh + (nr + 1) * 1024 * 64 }
      ((s.popCmd c).modCore c fun x => (x.applyProduct np split mode zeros out).countArray (split != 0)).afterCmd c
    | _ => s
  | none => s

/-- The line part that holds byte `off` of a list of stretches, from there on: address and length. -/
def nextPart : List (Nat × Nat) → Nat → Option (Nat × Nat)
  | [], _ => none
  | (pa, n) :: t, off =>
    if off < n then some (pa + off, min (n - off) (128 - (pa + off) % 128)) else nextPart t (off - n)

/-- The bytes of each image of a load. -/
def imageSplit : List (Nat × List (Nat × Nat)) → List Byte → List (Nat × List (Nat × Nat) × List Byte)
  | [], _ => []
  | (m, st) :: t, b =>
    let n := (st.map (·.2)).sum
    (m, st, b.take n) :: imageSplit t (b.drop n)

/-- WEIGHT_LOAD_COMPLETE (R303, R316, R355): a further line part of the images is read; after the last the shadows are filled. -/
def State.weightLoad (s : State) (c : Nat) : State :=
  if s.calendar.hold then s
  else match s.headCmd c, s.nodeOf c with
    | some q, some node =>
      match q.cmd with
      | .load geom wfmt images =>
        match nextPart (images.flatMap (·.2)) q.got.length with
        | some (pa, n) =>
          let r := s.physRead (some c) pa n
          r.1.setHead c { q with got := q.got ++ natBytes n r.2 }
        | none =>
          let s := (imageSplit images q.got).foldl (fun s im =>
            s.loadMacro c im.1 ⟨(im.2.1.headD (0, 0)).1, im.2.1, geom, wfmt, node, !q.stale && !q.failed.getLsbD im.1⟩ (q.failed.getLsbD im.1)
              im.2.2) (s.popCmd c)
          (s.modCore c fun x => x.countArray false).afterCmd c
      | _ => s
    | _, _ => s

/-- The rows of a drain arrive, in order, in the entries that wait for them. -/
def fillDrains (tag : BitVec 4) (id : Nat) (fmt : Tag) : List DrainRow → List RowBits → List DrainRow
  | [], _ => []
  | d :: t, rows =>
    if d.tag = tag ∧ d.id = id then { d with row := some ⟨rows.headD 0, fmt⟩ } :: fillDrains tag id fmt t (rows.drop 1)
    else d :: fillDrains tag id fmt t rows

/-- The entry of the queues that the maximum of a drain becomes: a maximum of which every lane is missing leaves the word as it is
(R325). -/
def MemOp.withMax (m : MemOp) (v : Nat) : MemOp := { m with kind := .atomic (if v = nanOf fp32 then .ld else .amax) v 0 }

/-- DRAIN_PERFORM (R323 to R327): the rows are taken from the bank; those that go to memory or to the scratchpad are issued as writes,
and the maximum enters the queues. -/
def State.drainPerform (s : State) (c : Nat) : State :=
  match s.headCmd c with
  | some q =>
    match q.cmd with
    | .drain nr fmt kinds amax amx dest =>
      let m := (s.core c).mat
      let banks := (List.range (nr + 1)).map fun i => (kinds.getD i .Z, m.bank.get (Fin.ofNat 32 i), m.comp.get (Fin.ofNat 32 i))
      let rows : List RowBits := banks.flatMap fun (p : RowKind × BankRow × BankRow) => drainRow fmt amax p.1 p.2.1 p.2.2
      let tag := drainTag fmt kinds
      let s := s.popCmd c
      let s := match dest with
        | .buffer t id =>
          s.modCore c fun x => x.modMat fun m => { m with drains := fillDrains t id tag m.drains rows }
        | .spad off col =>
          let size : ElemSize := match tagBits tag with | 16 => .e2 | 8 => .e1 | _ => .e4
          let sh : RowShape := if col then .col size else .row .w512
          let step := if col then elemBytes size else 512
          s.putOuts c (rows.zipIdx.map fun (p : RowBits × Nat) => ⟨none, q.bun, .spad (shapeCells sh (off + p.2 * step) p.1), false⟩)
        | .global pas sc =>
          s.putOuts c ((rows.zip pas).flatMap fun (p : RowBits × Nat) => s.rowOuts none q.bun p.2 512 p.1.toNat sc)
      let s := match amx with
        | some e =>
          s.enterOp c (e.withMax (drainMax (drainShape fmt).1 (banks.map fun (p : RowKind × BankRow × BankRow) => (p.1, p.2.1))))
        | none => s
      s.afterCmd c
    | _ => s
  | none => s

end Sys2Proof.Machine
end

