-- ==== Sys2Proof/Machine/Nodes.lean ====
section
/-! DEFINITION. Machine/Nodes.lean: the nodes that the serais hold: their states and what follows from a change of state,
posts, kills, retirement, operating points, and the start of a slice (spec 04 R75 to R81; 05 R91, R92; 03 R57, R60;
07 R152, R153; 19 R411; 21 R435 to R438). -/

namespace Sys2Proof.Machine

/-! ## Finding and changing nodes -/

def State.node? (s : State) (id : Nat) : Option Node := s.nodes.find? fun n => n.id == id

def State.modNode (s : State) (id : Nat) (f : Node → Node) : State :=
  { s with nodes := s.nodes.map fun n => if n.id == id then f n else n }

def State.nodeAt (s : State) (handle : Word) (idx : Nat) : Option Node :=
  s.nodes.find? fun n => n.handle == handle && n.idx == idx

def State.graph? (s : State) (handle : Word) : Option Graph := s.graphs.find? fun g => g.handle == handle

/-- The state codes (R75). -/
def stateCode : NodeState → Nat
  | .waiting => 0
  | .ready => 1
  | .reserving => 2
  | .running => 3
  | .preempted => 4
  | .retiring => 5
  | .done => 6
  | .cancelled => 7
  | .killed => 8
  | .rejected => 9

/-- The node with an index of a graph whose states are still held: for 100,000 ticks after the last of them is final (R75). -/
def State.keptNode (s : State) (handle : Word) (idx : Nat) : Option Node :=
  match s.graph? handle with
  | some g =>
    match g.finalAt with
    | some t => if s.now ≤ t + 100000 then s.nodeAt handle idx else none
    | none => s.nodeAt handle idx
  | none => none

/-- The node that a request word of a die's block names, if any (R69, R410). -/
def State.requested (s : State) (d : Nat) (v : Word) : Option Node :=
  let src := bitsAt v.toNat 48 2
  if bitsAt v.toNat 50 14 != 0 || bitsAt v.toNat 44 4 != 0 || src == 3 then none
  else s.keptNode (BitVec.ofNat 64 (src * 2 ^ 35 + d % 8 * 2 ^ 32 + bitsAt v.toNat 0 32)) (bitsAt v.toNat 32 12)

/-- A graph all of whose nodes are final notes the tick (R75). -/
def State.settleGraph (s : State) (handle : Word) : State :=
  if s.nodes.any fun n => n.handle == handle && !n.state.isFinal then s
  else { s with graphs := s.graphs.map fun g =>
    if g.handle == handle && g.finalAt.isNone then { g with finalAt := some s.now } else g }

/-- A node enters a state. -/
def State.setNodeState (s : State) (id : Nat) (st : NodeState) : State :=
  match s.node? id with
  | none => s
  | some n =>
    let s := s.modNode id fun n => { n with state := st }
    if st.isFinal then s.settleGraph n.handle else s

/-- The nodes that the successor entries of a node name, one for each entry. -/
def State.successors (s : State) (n : Node) : List Node := n.record.succs.filterMap fun i => s.nodeAt n.handle i

/-- The cancelling of successors (R81), from the nodes of a work list; a node enters the list at most once. -/
def State.cancelFrom : Nat → List Nat → State → State
  | 0, _, s => s
  | _, [], s => s
  | fuel + 1, id :: t, s =>
    match s.node? id with
    | none => s.cancelFrom fuel t
    | some n =>
      let next := (((s.successors n).filter fun m => m.state == .waiting || m.state == .ready).map (·.id)).dedup
      (next.foldl (fun s i => s.setNodeState i .cancelled) s).cancelFrom fuel (t ++ next)

/-- Propagation from a node that has become CANCELLED, KILLED or REJECTED (R81). -/
def State.propagate (s : State) (id : Nat) : State := s.cancelFrom (s.nodes.length + 1) [id]

/-- One decrement aimed at a node (R77). -/
def State.decNode (s : State) (id : Nat) : State :=
  s.modNode id fun n =>
    if n.state == .waiting then
      let p := n.preds - 1
      if p = 0 then { n with preds := 0, state := .ready, readyTick := s.now } else { n with preds := p }
    else n

/-! ## Posts (R437, R438) -/

/-- The three words of a completion post. -/
def postWords (n : Node) (code : Nat) (tick : Nat) : List Word :=
  [BitVec.ofNat 64 (code * 2 ^ 60 + n.idx % 4096 * 2 ^ 48 + n.handle.toNat % 2 ^ 37),
   n.record.nodeId.setWidth 64, BitVec.ofNat 64 tick]

/-- A node becomes DONE and its successors' counters fall (R77, R435). -/
def State.finishNode (s : State) (id : Nat) : State :=
  match s.node? id with
  | none => s
  | some n =>
    if n.state == .retiring then
      let s := (s.modNode id fun n => { n with postWaits := false }).setNodeState id .done
      ((s.successors n).foldl (fun s m => s.decNode m.id) s).countDie n.die 0x150
    else s

/-- COMPLETION_POST: the first waiting post of a die enters the mailbox, when it has room for the three words. The words of
a killed node were fixed by the kill. -/
def State.placePost (s : State) (d : Nat) : State :=
  match (s.die d).posts with
  | [] => s
  | p :: t =>
    if (s.die d).d2h.length + 3 ≤ 256 then
      let ws := match p.words, s.node? p.node with
        | [], some n => postWords n 6 s.now
        | ws, _ => ws
      let s := (s.modDie d fun x => { x with posts := t }).postMailbox d ws
      if p.words.isEmpty then s.finishNode p.node else s
    else s

/-! ## Operating points (R152, R153, R451) -/

/-- Frequencies of the points, in units of 10 MHz (R451). -/
def opFreq (op : BitVec 3) : Nat := [80, 100, 120, 140, 155, 170, 185, 200].getD op.toNat 80

/-- The highest point allowed to the cores of a die: 7 outside fail-safe (R155, R453). -/
def Die.opcap (d : Die) : BitVec 3 := if d.grant.fsafe then 2 else 7

def min3 (a b : BitVec 3) : BitVec 3 := if a ≤ b then a else b

/-- Ticks of a settling of `n` periods at a point. -/
def settleTicks (n : Nat) (op : BitVec 3) : Nat := (10 * n + opFreq op - 1) / opFreq op

/-- A core aims at a point (R152). -/
def Ctl.aim (c : Ctl) (target : BitVec 3) : Ctl :=
  if target = c.opTgt then c
  else if target = c.opCur then { c with opTgt := target, settle := false, settleLeft := 0 }
  else
    let low := min3 c.opCur target
    { c with opTgt := target, opCur := low, settle := true
             settleLeft := settleTicks (if c.opCur < target then 4096 else 1024) low }

/-- A request for a point under the limits of the core and its die (R152). -/
def Ctl.requestOp (c : Ctl) (cap op : BitVec 3) : Ctl := c.aim (min3 op (min3 c.opLimit cap))

def State.requestOp (s : State) (c : Nat) (op : BitVec 3) : State :=
  s.modCore c fun x => x.modCtl fun t => t.requestOp (s.die (dieOf c)).opcap op

/-- A lowered limit moves a core whose target lies above it (R152, R454). -/
def Ctl.limitOp (c : Ctl) (cap : BitVec 3) : Ctl := if min3 c.opLimit cap < c.opTgt then c.aim (min3 c.opLimit cap) else c

/-! ## Slices (R57, R60, R91, R92) -/

/-- The gang size that a record asks for on a die (R57). -/
def State.gangSize (s : State) (die : Nat) (r : NodeRec) : Nat :=
  let g := if r.gang = 15 then 512 else 2 ^ r.gang
  min g (min (2 ^ r.vwidth.log2) (s.part.maxGang die))

/-- First tile of slice v; that of slice v + 1 is one past its last (R91). -/
def firstTile (n v tiles : Nat) : Nat := v * (tiles / n) + min v (tiles % n)

/-- The slice with an ordinal on a core of a gang (R92). -/
def Node.sliceAt (n : Node) (gang core ord : Nat) : Nat := ord * (n.gangs.length * n.g) + gang * n.g + core

/-- The registers at the start of a slice (R60, R143). -/
def NodeRec.startRegs (r : NodeRec) : Regs :=
  { ({} : Regs) with
    s := Vector.ofFn fun i => if 1 ≤ i.val ∧ i.val ≤ 8 then r.args.getD (i.val - 1) 0 else 0
    a := Vector.ofFn fun i => if i.val < 6 then r.bases.getD i.val 0 else 0 }

/-- The control registers that a slice starts with; those that the text does not name stay (R60, R143, R149). -/
def Ctl.startSlice (t : Ctl) (seed : Word) (asn : BitVec 12) : Ctl :=
  { t with lockN := 0, lockP := 0, handler := false, priv := false, rndCount := 0, rngSeed := seed
           xcoll := 0, winIdx := 0, asid := asn }

/-- The flow of a slice that starts at `pc`; the model's own numbers go on. -/
def Flow.startSlice (f : Flow) (pc : Pc) : Flow := { ({} : Flow) with pc := pc, bun := f.bun, nextId := f.nextId, causes := f.causes }

/-- The memory side of a core at the start of a slice: the scratchpad is a fresh undefined filling on the first slice of a
node on the core and stays otherwise (R60). -/
def Local.startSlice (m : Local) (first : Bool) : Local :=
  let n : Local := { epoch := m.epoch, spad := m.spad, written := m.written, tlb := m.tlb }
  if first then { n with epoch := m.epoch + 1, spad := [], written := 0 } else n

/-- Slice `ord` of core `k` of gang `gang` of a node starts on core `c` (R60, R92). -/
def State.startSlice (s : State) (c : Nat) (n : Node) (gang k ord : Nat) : State :=
  let v := n.sliceAt gang k ord
  let r := n.record
  let asn := match s.graph? n.handle with | some g => g.asn | none => 0
  s.modCore c fun x =>
    { x with
      regs := r.startRegs
      ctl := x.ctl.startSlice r.seed asn
      flow := x.flow.startSlice (BitVec.ofNat 59 (r.entry.toNat / 32))
      mem := x.mem.startSlice (ord == 0)
      run := some
        { node := n.id, gang := gang, core := k, slice := v, ord := ord
          begin := firstTile r.vwidth v r.tiles, end_ := firstTile r.vwidth (v + 1) r.tiles
          nodeId := r.nodeId, stage := (r.inst.setWidth 64 <<< 32) ||| r.stage.setWidth 64
          vwidth := r.vwidth, g := n.g, d := n.gangs.length, entry := r.entry
          last := decide (r.vwidth ≤ v + n.gangs.length * n.g) } }

/-! ## Leaving the cores -/

/-- Cores that run a node. -/
def State.coresOf (s : State) (id : Nat) : List Nat :=
  (s.cores.filter fun p => match p.2.run with | some r => r.node == id | none => false).map (·.1)

/-- Whether a core has halted its last slice (R95). -/
def Run.finished (r : Run) : Bool := r.halted && r.last

/-- The physical core that runs core `k` of gang `g`. -/
def Node.coreAt (n : Node) (g k : Nat) : Nat :=
  match n.gangs[g]? with
  | some (d, b) => coreKey d (b + k)
  | none => 0

/-- Whether a pre-emption in progress has saved a core of a gang before its last HALT: a member of its groups that has withdrawn its arrival
and has left its physical core (R95, R374, R375). -/
def State.partSaved (s : State) (node gang : Nat) : Bool :=
  match s.node? node with
  | none => false
  | some n =>
    n.stopping && n.saved.any fun v => v.gang == gang && (match v.ctx.run with | some r => !r.finished | none => false)

/-- The cores of a gang that have not halted their last slice (R373, R374). -/
def State.gangCores (s : State) (node gang : Nat) : List Nat :=
  (s.cores.filter fun p =>
    match p.2.run with
    | some r => r.node == node && r.gang == gang && !r.finished
    | none => false).map (·.1)

/-- A caravan phase of a die ends in every member at once (R384). -/
def State.abortPhase (s : State) (d : Nat) : State :=
  match (s.die d).phase with
  | none => s
  | some p =>
    let s := (s.gangCores p.node p.gang).foldl (fun s c =>
      s.modCore c fun x => x.modCtl fun t => { t with xcoll := t.xcoll ||| 2 }) s
    s.modDie d fun x => { x with phase := none, roads := [] }

/-- Claims of a node on arrays end (R302). -/
def State.dropClaims (s : State) (id : Nat) : State :=
  { s with clusters := s.clusters.map fun p =>
      (p.1, if p.2.claim == some id then { p.2 with claim := none, lastHolder := none } else p.2) }

/-- A phase of a node ends wherever it is open (R384). -/
def State.abortPhases (s : State) (id : Nat) : State :=
  (List.range 8).foldl (fun s d =>
    match (s.die d).phase with
    | some p => if p.node == id then s.abortPhase d else s
    | none => s) s

/-- A core leaves its node at a kill or a pre-emption (R411, R414): class, lease and context go; registers, scratchpad, CTL.CLIP and the
accumulator bank with its companion and kinds stay as they are (R287, R299). -/
def Core.freed (x : Core) : Core :=
  { x with
    ctl := { x.ctl with cls := 0, handler := false, priv := false, lockN := 0, lockP := 0 }
    flow := { ({} : Flow) with bun := x.flow.bun, nextId := x.flow.nextId }
    mem := { epoch := x.mem.epoch, spad := x.mem.spad, written := x.mem.written, tlb := x.mem.tlb }
    mat := { bank := x.mat.bank, comp := x.mat.comp, kinds := x.mat.kinds }
    run := none }

/-- A core is returned to its die at retirement (R435): bank, companion, kinds and CTL.CLIP are cleared as well. -/
def Core.released (x : Core) : Core :=
  let y := x.freed
  { y with ctl := { y.ctl with clip := 0 }, mat := {} }

/-- Replicas that a node made are dropped (R249). -/
def State.dropReplicas (s : State) (id : Nat) : State := { s with replicas := s.replicas.filter fun r => r.node != id }

/-- Whether a core has pushed in this tick a word that would keep a post out of the mailbox which goes before it (R446): the node reaches
its post in the next tick. -/
def State.postCrossed (s : State) (d : Nat) : Bool :=
  let n := (s.die d).d2h.length
  decide (256 < n + 3) && decide (n - s.newPushes d + 3 ≤ 256)

/-- Retirement of a node whose slices have all halted (R435): the cores go back, and the node waits for its post or is
DONE. -/
def State.retire (s : State) (id : Nat) : State :=
  match s.node? id with
  | none => s
  | some n =>
    if n.state == .retiring && !n.postWaits && !(n.record.post && s.postCrossed n.die) then
      let s := (s.coresOf id).foldl (fun s c => s.modCore c Core.released) s
      let s := (s.dropClaims id).dropReplicas id
      if n.record.post then
        ((s.modNode id fun n => { n with postWaits := true }).modDie n.die fun d =>
          { d with posts := d.posts ++ [⟨id, []⟩] }).placePost n.die
      else s.finishNode id
    else s

/-! ## Kill (R411) -/

/-- The first entry of a core's queues that may be performed is performed, up to `fuel` times. -/
def State.performOp (s : State) (c i : Nat) : State :=
  match (s.core c).mem.memq[i]? with
  | none => s
  | some m =>
    match m.kind with
    | .load _ _ _ => s.homeLoad c i
    | .store _ => s.homeStore c i
    | .atomic _ _ _ => s.homeAtomic c i
    | .contrib _ _ _ => s.homeContrib c i
    | .remote _ _ => s.remoteRead c i
    | .localLoad _ _ _ | .localStore _ _ => s.serveLocal c i
    | .look _ _ => s.serveLook c i
    | .fence _ _ _ => s

def State.firstEligible (s : State) (c : Nat) : Option Nat :=
  (List.range (s.core c).mem.memq.length).find? fun i => (s.eligible c i).isSome

def State.drainOps (s : State) (c : Nat) : Nat → State
  | 0 => s
  | fuel + 1 =>
    match s.firstEligible c with
    | none => s
    | some i => (s.performOp c i).drainOps c fuel

/-- The accesses that a transfer may still take. -/
def Bulk.steps (b : Bulk) : Nat := 6 * (b.rows - b.next) + 4

/-- Transfer 0 of a core goes on, whatever holds it but fences, and leaves when it is complete. -/
def State.drainBulk (s : State) (c : Nat) : Nat → State
  | 0 => s
  | fuel + 1 =>
    match s.bulkOrdered c 0 with
    | none => s
    | some b =>
      if (s.core c).mem.bulkOver b then (s.bulkDone c 0 b).drainBulk c fuel
      else if b.moved then s
      else (s.bulkStep c 0 b).drainBulk c fuel

/-- The writes that a core's engines have issued are performed. -/
def State.drainOuts (s : State) (c : Nat) : Nat → State
  | 0 => s
  | fuel + 1 =>
    match (s.core c).mem.outs with
    | [] => s
    | o :: _ => (s.writeOut c 0 o).drainOuts c fuel

/-- The reaping that follows from a core's operations, to its end. -/
def State.drainReaping (s : State) (c : Nat) : Nat → State
  | 0 => s
  | fuel + 1 =>
    match s.reaping.find? fun p => p.2 == c with
    | none => s
    | some p => (s.reaper p.1).drainReaping c fuel

/-- Transfers, engine writes, reaping and the queues of a core go on as far as they can without one another. -/
def State.quiesceOnce (s : State) (c : Nat) : State :=
  let s := s.drainBulk c ((s.core c).mem.bulk.map Bulk.steps).sum
  let s := s.drainOuts c (s.core c).mem.outs.length
  let s := s.drainBulk c ((s.core c).mem.bulk.map Bulk.steps).sum
  let s := s.drainReaping c s.pool.lines
  let s := s.endFences c
  s.drainOps c (s.core c).mem.memq.length

/-- An entry of the queues is performed whatever holds it; a fence only leaves. -/
def State.stepOp (s : State) (c i : Nat) (m : MemOp) : State :=
  match m.kind with
  | .load at_ z rh => s.loadStep c i m at_ z rh
  | .store v => s.storeStep c i m v
  | .atomic op v x => s.atomicOp c i m op v x
  | .contrib w v idx => s.contribStep c i m w v idx
  | .remote owner sh => s.remoteStep c i m owner sh
  | .localLoad _ _ _ | .localStore _ _ => s.localStep c i m
  | .look cls data => s.lookStep c i m cls data
  | .fence _ _ _ => s.dropOp c i

/-- The first entry of a core's queues goes, whatever holds it. -/
def State.forceOp (s : State) (c : Nat) : State :=
  match (s.core c).mem.memq with
  | [] => s
  | m :: _ => s.stepOp c 0 m

/-- Rounds in which everything that a core has issued to memory is performed: what a fence or an earlier transfer holds takes a further
one. -/
def Core.rounds (x : Core) : Nat := x.mem.memq.length + x.mem.bulk.length + 1

/-- What several cores have issued to memory is performed, in the order that their rules give, whatever a maintenance slot holds: their
stores are seen by the others first. Then what still waits for something else is performed as well (R411). -/
def State.quiesce (s : State) (cs : List Nat) : State :=
  let hold := s.calendar.hold
  let s : State := { s with calendar := { s.calendar with hold := false } }
  let s := cs.foldl (fun s c => s.modCore c fun x => x.modMem fun m => { m with unseen := [] }) s
  let s := cs.foldl (fun s c => (List.range (s.core c).rounds).foldl (fun s _ => s.quiesceOnce c) s) s
  let s := cs.foldl (fun s c => (List.range (s.core c).rounds).foldl (fun s _ => (s.quiesceOnce c).forceOp c) s) s
  { s with calendar := { s.calendar with hold := hold } }

/-- What a killed core drops: pending results, its part of the landing buffer and array commands not yet performed. -/
def Core.discard (x : Core) : Core :=
  (x.modFlow fun f => { f with pending := [], save := none }).modMat fun m => { m with cmds := [], drains := [] }

/-- An entry of kind 0x70 for each of several addresses (R449). -/
def State.logLost (s : State) (c : Nat) (l : List Nat) : State :=
  l.foldl (fun s pa => s.logError (dieOf c) 0x70 [BitVec.ofNat 64 pa]) s

def State.lostOut (s : State) (o : OutWrite) : Option Nat :=
  match o.dest with
  | .line pa _ => if s.lostModules.contains (modOf pa) then some pa else none
  | .spad _ => none

/-- The accesses of a core to modules that have become unreachable are dropped, each with its entry, one for a transfer (R449; log entry
53). What a transfer has still to do elsewhere goes on. -/
def State.dropLost (s : State) (c : Nat) : State :=
  let m := (s.core c).mem
  let gone := ((m.memq.filter s.lostOp).map (·.pa)) ++ m.bulk.filterMap s.lostBulk ++ m.outs.filterMap s.lostOut
  if gone.isEmpty then s
  else
    (s.modCore c fun x => x.modMem fun m =>
      { m with memq := m.memq.filter (fun e => !s.lostOp e), outs := m.outs.filter fun o => (s.lostOut o).isNone }).logLost c gone

/-- The frames that the saved contexts of a node occupy (R415). -/
def Node.frames (n : Node) : List Nat := n.saved.flatMap fun x => (List.range x.nframes).map (x.frame + ·)

/-- The holds of a node's reservation are released on every die (R86). -/
def State.releaseHolds (s : State) (id : Nat) : State :=
  (List.range 8).foldl (fun s d =>
    s.modDie d fun x =>
      { x with busy := x.busy.filter fun p => p.2 != id + 1
               resv := match x.resv with | some r => if r.node == id then none else some r | none => none }) s

/-- A pre-emption of a node is over on every die. -/
def State.endPreemption (s : State) (id : Nat) : State :=
  { s with dies := s.dies.map fun d => if d.preempting == some id then { d with preempting := none } else d }

/-- Frames of a node and its place in a pre-emption are given up (R415). -/
def State.freeFrames (s : State) (n : Node) : State :=
  ((s.modDie n.die fun d => { d with frames := d.frames.filter fun f => !n.frames.contains f }).endPreemption n.id).modNode
    n.id fun n => { n with saved := [], stopping := false }

/-- The sum of the classes that gang `j` of a node asks for: those saved, at a return from PREEMPTED (R59, R417). -/
def Node.classSum (n : Node) (j g : Nat) : Nat :=
  if n.saved.isEmpty then n.record.pclass.toNat * g
  else (n.saved.map fun v => if v.gang = j then v.ctx.ctl.cls.toNat else 0).sum

/-- A node that is not final stops wherever it is: its cores, frames, claims and replicas are released; the tick and words
of its post are those of this step (R411, R438). -/
def State.stopNode (s : State) (n : Node) : State :=
  let id := n.id
  let cs := s.coresOf id
  let s := cs.foldl (fun s c => (s.modCore c Core.discard).dropLost c) s
  let s := s.quiesce cs
  let s := (s.abortPhases id)
  let s := cs.foldl (fun s c => s.modCore c Core.freed) s
  let s := (((s.dropClaims id).dropReplicas id).releaseHolds id).freeFrames n
  let s := s.modDie n.die fun d => { d with posts := d.posts.filter fun p => p.node != id }
  let s := { s with signals := s.signals.filter fun m => m.node != id }
  let s := s.modNode id fun n => { n with postWaits := false, gangs := [] }
  let s := ((s.setNodeState id .killed).propagate id).countDie n.die 0x151
  if n.record.post then
    (s.modDie n.die fun d => { d with posts := d.posts ++ [⟨id, postWords n 8 s.now⟩] }).placePost n.die
  else s

/-- A kill: it acts on a node that is RUNNING, PREEMPTED or RETIRING. -/
def State.killNode (s : State) (id : Nat) : State :=
  match s.node? id with
  | none => s
  | some n => if n.state == .running || n.state == .preempted || n.state == .retiring then s.stopNode n else s

/-- Whether a core has accesses on their way to a module that has become unreachable. -/
def State.losing (s : State) (c : Nat) : Bool :=
  let m := (s.core c).mem
  m.memq.any s.lostOp || (m.bulk.any fun b => (s.lostBulk b).isSome) || (m.outs.any fun o => (s.lostOut o).isSome)

/-- The first access of a core to a module that has become unreachable ends its node (R449). -/
def State.lostAccess (s : State) (c : Nat) : State :=
  if s.losing c then
    match s.nodeOf c with
    | some id => s.killNode id
    | none => s.dropLost c
  else s

/-- The node that a core runs is killed. -/
def State.killCore (s : State) (c : Nat) : State :=
  match s.nodeOf c with
  | some id => s.killNode id
  | none => s

/-- Every node that is not final is killed, whatever its state, and no graph is accepted until reset (R426, R456). -/
def State.killAll (s : State) : State :=
  let ns := s.nodes.filter fun n => !n.state.isFinal
  let s := ns.foldl (fun s n => s.setNodeState n.id .killed) s
  { ns.foldl (fun s n => s.stopNode n) s with stopped := true }

end Sys2Proof.Machine
end

