-- ==== Sys2Proof/Machine/Cregs.lean ====
section
/-! DEFINITION. Machine/Cregs.lean: the control registers (spec 07 R147 to R155; 05 R93; 11 R240; 15 R330; 17 R386; 19
R403, R404, R415, R419; 21 R440): which numbers exist, who may reach them, their values and their writes. -/

namespace Sys2Proof.Machine

/-! ## Numbers and access (R147, R148) -/

/-- The performance counters of the table (R440). -/
def isCounter (n : Nat) : Bool :=
  [0x100, 0x101, 0x102, 0x103, 0x104, 0x105, 0x110, 0x111, 0x120, 0x121, 0x122, 0x123, 0x130, 0x131, 0x132, 0x133, 0x134,
   0x140, 0x141, 0x150, 0x151, 0x152].contains n

def isWindowReg (n : Nat) : Bool := decide (0x430 ≤ n) && decide (n ≤ 0x46F)

def isQueueReg (n : Nat) : Bool := decide (0xF00 ≤ n) && decide (n ≤ 0xF03)

/-- The numbers that name a register. -/
def cregDefined (n : Nat) : Bool :=
  decide (n ≤ 6) || [0x10, 0x11, 0x20, 0x21, 0x30, 0x31, 0x40, 0x41, 0x50, 0x60].contains n || isCounter n ||
  (decide (0x400 ≤ n) && decide (n ≤ 0x405)) || [0x410, 0x411, 0x420, 0x421, 0x470, 0x480].contains n || isWindowReg n ||
  isQueueReg n

/-- Registers that are read-only in both views. -/
def cregFixed (n : Nat) : Bool :=
  decide (n ≤ 6) || [0x30, 0x31, 0x40, 0x41, 0x60, 0x480].contains n || (isWindowReg n && n % 4 == 3)

/-- Registers that unprivileged code may only read. -/
def cregUserFixed (n : Nat) : Bool := cregFixed n || n == 0x10 || n == 0x11 || isCounter n

/-- The trap of an access, in the order of R147; a privilege trap names the register (R400). -/
def cregTrap (priv write : Bool) (n : Nat) : Option Trap :=
  if !priv && decide (0x400 ≤ n) && decide (n ≤ 0xF0F) then some ⟨0x05, BitVec.ofNat 64 n⟩
  else if !cregDefined n then some ⟨0x03, 0⟩
  else if write && !priv && cregUserFixed n then some ⟨0x05, BitVec.ofNat 64 n⟩
  else if write && cregFixed n then some ⟨0x03, 0⟩
  else none

/-! ## Values -/

/-- A field placed at bit `lo`. -/
def field {n : Nat} (lo : Nat) (v : BitVec n) : Word := v.setWidth 64 <<< lo

def flag (lo : Nat) (b : Bool) : Word := if b then 1#64 <<< lo else 0

/-- CTL.STATUS (R149). -/
def Ctl.status (t : Ctl) : Word :=
  field 24 t.lockN ||| field 16 t.lockP ||| flag 15 t.settle ||| field 12 t.opTgt ||| field 8 t.opCur |||
  flag 1 t.handler ||| flag 0 t.priv

/-- CTL.COORD (R93). -/
def Run.coord (r : Run) : Word :=
  BitVec.ofNat 64 (r.slice * 2 ^ 48 + r.ord % 2 ^ 16 * 2 ^ 32 + r.gang * 2 ^ 29 + (r.d - 1) * 2 ^ 26 + r.g.log2 * 2 ^ 22 +
    r.core * 2 ^ 13)

/-- CTL.TOKENS (R154). -/
def tokensWord (g : Grant) (bal : Nat) : Word := BitVec.ofNat 64 (g.rate * 2 ^ 32 + g.cap * 2 ^ 16 + bal)

/-- CTL.PWRLEVEL (R155). -/
def pwrLevel (d : Die) (cls : BitVec 3) : Word := flag 11 d.grant.fsafe ||| field 8 d.opcap ||| field 0 cls

/-- Start and length of slot k (R419). -/
def slotStart (k : Nat) : Nat := 2560 * k
def slotLen (k : Nat) : Nat := if k % 1024 = 0 then 4096 else 128

/-- CTL.CAPBASE (R22): local physical address of the capability list. -/
def capBase : Word := 0xC000010000

/-- Counters of a die whose events are outside the model: hits of the slices and of the memory-side cache, which depend on what fetch, walks
and prefetch ask of them, and corrected errors. Each tick adds a free number of them. -/
def openCounter (n : Nat) : Bool := [0x120, 0x121, 0x130, 0x131, 0x132, 0x140].contains n

/-- The sum of `n` values of a sequence from index `a` on. -/
def sumFrom (f : Nat → Nat) : Nat → Nat → Nat
  | _, 0 => 0
  | a, n + 1 => f a + sumFrom f (a + 1) n

/-- Periods of the waits of kind `k` of core `c` from the number `a` on. -/
def Waits.since (w : Waits) (c k a : Nat) : Word := BitVec.ofNat 64 (sumFrom (Config.waitPeriods c k) a (w.n - a))

/-- A counter of core `c` (R440). -/
def Counters.get (p : Counters) (c n : Nat) : Word :=
  match n with
  | 0x100 => p.issue
  | 0x101 =>
    p.frozen + p.sync.since c 0 p.sync.all + p.land.since c 1 p.land.all + p.bank.since c 2 p.bank.all +
      p.tok.since c 3 p.tok.all + p.other.since c 4 p.other.all
  | 0x102 => p.sync.base + p.sync.since c 0 p.sync.own
  | 0x103 => p.land.base + p.land.since c 1 p.land.own
  | 0x104 => p.bank.base + p.bank.since c 2 p.bank.own
  | 0x105 => p.tok.base + p.tok.since c 3 p.tok.own
  | 0x110 => p.arrayCmd
  | 0x111 => p.chargeCmd
  | _ => 0

/-- A written counter of waits goes on from the value written. -/
def Waits.write (w : Waits) (v : Word) : Waits := { w with base := v, own := w.n }
def Waits.writeAll (w : Waits) : Waits := { w with all := w.n }

def Counters.set (p : Counters) (n : Nat) (v : Word) : Counters :=
  match n with
  | 0x100 => { p with issue := v }
  | 0x101 =>
    { p with frozen := v, sync := p.sync.writeAll, land := p.land.writeAll, bank := p.bank.writeAll, tok := p.tok.writeAll
             other := p.other.writeAll }
  | 0x102 => { p with sync := p.sync.write v }
  | 0x103 => { p with land := p.land.write v }
  | 0x104 => { p with bank := p.bank.write v }
  | 0x105 => { p with tok := p.tok.write v }
  | 0x110 => { p with arrayCmd := v }
  | 0x111 => { p with chargeCmd := v }
  | _ => p

def coreCounter (n : Nat) : Bool := decide (0x100 ≤ n) && decide (n ≤ 0x111)

def ptBaseMask : Word := 0x0000FFFFFFFF8000

/-- A write of a module-wide register takes effect (R240, R330, R386). -/
def State.moduleWrite (s : State) (die n : Nat) (v : Word) : State :=
  if n = 0x410 then { s with ptBase := v &&& ptBaseMask }
  else if n = 0x420 then s.writePoolBase die v
  else if n = 0x421 then s.writePoolSize v
  else if isWindowReg n then
    let w := (n - 0x430) / 4
    match n % 4 with
    | 0 => if (s.window w).en then s else s.modWindow w fun x => { x with base := v &&& wbaseMask }
    | 1 => if v.getLsbD 63 then s.windowEnable die w v else s.windowDisable w v
    | 2 => if (s.window w).en then s else s.modWindow w fun x => { x with done := v &&& wdoneMask }
    | _ => s
  else s

/-- The module-wide registers as written, the writes that are not yet in effect for walks, the directory and the windows included: a
SETC has its effect on the register at issue + 1 (R135). -/
def State.settled (s : State) : State := s.late.foldl (fun s l => s.moduleWrite l.die l.creg.toNat l.v) s

/-- A counter of a die (R440). -/
def State.dieCounter (s : State) (d n : Nat) : Word :=
  mapGet 0 n (s.die d).counters +
    if openCounter n then
      let from_ := mapGet 0 n (s.die d).countFrom
      BitVec.ofNat 64 (sumFrom (Config.dieEvents d n) from_ (s.now - from_))
    else 0

/-- The value of a control register for a core; the hardware queues are not registers with a value. -/
def State.cregValue (s : State) (c n : Nat) : Word :=
  let x := s.core c
  let t := x.ctl
  let d := s.die (dieOf c)
  let fromRun (f : Run → Word) : Word := match x.run with | some r => f r | none => 0
  if isWindowReg n then
    let w := (n - 0x430) / 4
    match n % 4 with
    | 0 => (s.settled.window w).base
    | 1 => (s.settled.window w).cfg
    | 2 => (s.settled.window w).done
    | _ => s.wstat w
  else if coreCounter n then x.perf.get c n
  else if n = 0x123 then (s.cluster (clusterOf c)).hits
  else if isCounter n then s.dieCounter (dieOf c) n
  else match n with
    | 0x000 => t.status
    | 0x001 => fromRun Run.coord
    | 0x002 => fromRun fun r => BitVec.ofNat 64 r.begin
    | 0x003 => fromRun fun r => BitVec.ofNat 64 r.end_
    | 0x004 => fromRun fun r => r.nodeId.setWidth 64
    | 0x005 => fromRun fun r => r.stage
    | 0x006 => fromRun fun r => BitVec.ofNat 64 r.vwidth
    | 0x010 => t.rngSeed
    | 0x011 => t.rndCount
    | 0x020 => t.clip
    | 0x021 => t.xcoll
    | 0x030 => tokensWord d.grant t.bal
    | 0x031 => pwrLevel d t.cls
    | 0x040 => BitVec.ofNat 64 (slotStart s.calendar.nextSlot)
    | 0x041 => BitVec.ofNat 64 (slotLen s.calendar.nextSlot)
    | 0x050 => t.winIdx.setWidth 64
    | 0x060 => 0xFF
    | 0x400 => t.trapVec
    | 0x401 => t.trapCause
    | 0x402 => t.trapPc.setWidth 64
    | 0x403 => t.trapAddr
    | 0x404 => t.replay.setWidth 64
    | 0x405 => d.saveArea
    | 0x410 => s.settled.ptBase
    | 0x411 => t.asid.setWidth 64
    | 0x420 => s.settled.pool.base
    | 0x421 => s.settled.pool.size
    | 0x470 => t.opLimit.setWidth 64
    | 0x480 => capBase
    | _ => 0

/-! ## Writes -/

def trapVecMask : Word := 0xFFFFFFFFFFFFFFE0
def saveAreaMask : Word := 0x0000FFFFFFF00FFF

def isModuleReg (n : Nat) : Bool := n == 0x410 || n == 0x420 || n == 0x421 || isWindowReg n

/-- Whether a pre-emption's frames are in use in a die's pool (R415). -/
def Die.framesInUse (d : Die) : Bool := !d.frames.isEmpty

/-- A write of a register of a core or of its die takes effect. -/
def State.coreWrite (s : State) (c n : Nat) (v : Word) : State :=
  let ctl (f : Ctl → Ctl) : State := s.modCore c fun x => x.modCtl f
  if coreCounter n then s.modCore c fun x => { x with perf := x.perf.set n v }
  else if n = 0x123 then s.modCluster (clusterOf c) fun k => { k with hits := v }
  else if isCounter n then s.modDie (dieOf c) fun d =>
    { d with counters := mapSet n v d.counters, countFrom := mapSet n s.now d.countFrom }
  else match n with
    | 0x010 => ctl fun t => { t with rngSeed := v }
    | 0x011 => ctl fun t => { t with rndCount := v }
    | 0x020 => ctl fun t => { t with clip := t.clip &&& v }
    | 0x021 => ctl fun t => { t with xcoll := v &&& 3 }
    | 0x050 => ctl fun t => { t with winIdx := v.setWidth 24 }
    | 0x400 => ctl fun t => { t with trapVec := v &&& trapVecMask }
    | 0x401 => ctl fun t => { t with trapCause := v &&& 0xFFF }
    | 0x402 => ctl fun t => { t with trapPc := v.setWidth 47 }
    | 0x403 => ctl fun t => { t with trapAddr := v }
    | 0x404 => ctl fun t => { t with replay := v.setWidth 16 }
    | 0x405 => s.modDie (dieOf c) fun d => if d.framesInUse then d else { d with saveArea := v &&& saveAreaMask }
    | 0x411 => ctl fun t => { t with asid := v.setWidth 12 }
    | 0x470 => ctl fun t => ({ t with opLimit := v.setWidth 3 } : Ctl).limitOp (s.die (dieOf c)).opcap
    | _ => s

/-- A SETC takes effect at issue + 1 (R165); what a module-wide register governs follows it 32 ticks later. -/
def State.setCreg (s : State) (c n : Nat) (v : Word) : State :=
  if isModuleReg n then { s with late := s.late ++ [⟨s.now + 32, BitVec.ofNat 12 n, v, dieOf c⟩] }
  else s.coreWrite c n v

/-- The late writes whose time has come take effect, in order. -/
def State.applyLate (s : State) : State :=
  let due := s.late.filter fun l => decide (l.at_ ≤ s.now)
  due.foldl (fun s l => s.moduleWrite l.die l.creg.toNat l.v)
    { s with late := s.late.filter fun l => decide (s.now < l.at_) }

end Sys2Proof.Machine
end

