-- ==== Sys2Proof/Machine/Ops.lean ====
section
/-! DEFINITION. Machine/Ops.lean: the named operations of a core over its registers and its flow: reading registers, pending
results and their landing, taking a trap and the return from one, freezes, and the issue of a bundle (spec 07; 06 R121,
R122; 08 R179 to R182; 17 R373 to R385; 19 R400 to R409). -/

namespace Sys2Proof.Machine

/-! ## Registers (R143) -/

def Regs.sReg (r : Regs) (n : BitVec 5) : Word := if n = 0 then 0 else r.s.get n.toFin
def Regs.aReg (r : Regs) (n : BitVec 4) : Word := r.a.get n.toFin
def Regs.kReg (r : Regs) (n : BitVec 4) (l : BitVec 2) : Word := r.k.get (n ++ l).toFin
def Regs.lcReg (r : Regs) (l : BitVec 2) : Word := r.lc.get l.toFin
def Regs.pReg (r : Regs) (n : BitVec 2) : Pred := if n = 0 then BitVec.allOnes 1024 else r.p.get n.toFin
def Regs.tRow (r : Regs) (n : BitVec 7) : TRow := ⟨r.t.get n.toFin, r.tTag.get (n.extractLsb' 3 4).toFin⟩
def Regs.oRow (r : Regs) (n : BitVec 3) : TRow := r.o.get n.toFin

/-- A write of s0 is discarded (R136, R143). -/
def Regs.setS (r : Regs) (n : BitVec 5) (v : Word) : Regs := if n = 0 then r else { r with s := r.s.set n.toNat v n.isLt }
def Regs.setA (r : Regs) (n : BitVec 4) (v : Word) : Regs := { r with a := r.a.set n.toNat v n.isLt }
def Regs.setK (r : Regs) (n : BitVec 4) (l : BitVec 2) (v : Word) : Regs :=
  { r with k := r.k.set (n ++ l).toNat v (n ++ l).isLt }
def Regs.setLc (r : Regs) (l : BitVec 2) (v : Word) : Regs := { r with lc := r.lc.set l.toNat v l.isLt }

/-- p0 stays all ones (R143). -/
def Regs.setP (r : Regs) (n : BitVec 2) (v : Pred) : Regs := if n = 0 then r else { r with p := r.p.set n.toNat v n.isLt }

/-- A row lands with its tag; a tile register has one tag for all its rows (R144). -/
def Regs.setT (r : Regs) (n : BitVec 7) (v : TRow) : Regs :=
  { r with t := r.t.set n.toNat v.bits n.isLt
           tTag := r.tTag.set (n.extractLsb' 3 4).toNat v.tag (n.extractLsb' 3 4).isLt }
def Regs.setO (r : Regs) (n : BitVec 3) (v : TRow) : Regs := { r with o := r.o.set n.toNat v n.isLt }

def Regs.setLatch (r : Regs) (l : Latch) (v : TRow) : Regs :=
  match l with
  | .LV0 => { r with lv0 := v }
  | .LV1 => { r with lv1 := v }
  | .LC0 => { r with lc0 := v }
  | .LC1 => { r with lc1 := v }
  | .LM => { r with lm := v }
  | .LS => r

/-- s[n], a[n] of the acting core as they stand. -/
def State.sReg (s : State) (n : BitVec 5) : Word := s.me.regs.sReg n
def State.aReg (s : State) (n : BitVec 4) : Word := s.me.regs.aReg n

/-! ## Streams (R185, R224 to R227) -/

def Stream.total (q : Stream) : Nat := q.count0 * q.count1 * q.count2

/-- Offset of row `k`, modulo 2^64; it may lie outside the storage (R185, R216). -/
def Stream.offset (q : Stream) (k : Nat) : Nat :=
  wrap 64 ((q.base.toNat : Int) + (k % q.count0 : Nat) * q.stride0 + (k / q.count0 % q.count1 : Nat) * q.stride1 +
    (k / q.count0 / q.count1 : Nat) * q.stride2)

def Stream.exhausted (q : Stream) : Bool := decide (q.total ≤ q.pos)

def Stream.size (q : Stream) : Nat := if q.space then sramSize else spadSize

/-- Whether row `k` may be accessed (R216, R217, R218). -/
def Stream.rowOk (q : Stream) (k : Nat) : Bool := shapeOk q.size q.shape (q.offset k)

def Core.stream? (x : Core) (q : BitVec 3) : Option Stream := (x.mem.streams.find? fun p => p.1 == q.toNat).map (·.2)

def Core.modStream (x : Core) (q : BitVec 3) (f : Stream → Stream) : Core :=
  match x.stream? q with
  | some t => x.modMem fun m => { m with streams := mapSet q.toNat (f t) m.streams }
  | none => x

/-- A row arrives at a write stream and is written (R222, R227). It goes to the binding that Qq has when it lands; where that is none, a read
stream, or one with no entry reserved, it is dropped (log entry 82). -/
def State.streamWrite (s : State) (c : Nat) (q : BitVec 3) (v : RowBits) : State :=
  match (s.core c).stream? q with
  | some t =>
    if t.write && decide (t.done < t.pos) then
      let s := s.modCore c fun x => x.modStream q fun t => { t with done := t.done + 1 }
      if t.rowOk t.done then
        let cells := shapeCells t.shape (t.offset t.done) v
        if t.space then s.sramStore (clusterOf c) cells else s.spadStore c cells
      else s
    else s
  | none => s

/-! ## Pending results and landing (R135 to R139, R145) -/

/-- A result lands. -/
def State.landResult (s : State) (c : Nat) (r : Result) : State :=
  let regs (f : Regs → Regs) : State := s.modCore c fun x => x.modRegs f
  match r with
  | .scalar n ls v => regs fun r => let r := r.setS n v; if ls then { r with ls := v } else r
  | .addr n v => regs fun r => r.setA n v
  | .stride n l v => regs fun r => r.setK n l v
  | .pred n v => regs fun r => r.setP n v
  | .creg n v => s.setCreg c n.toNat v
  | .row d v t latch =>
    let latched (r : Regs) : Regs := match latch with | some l => r.setLatch l ⟨v, t⟩ | none => r
    match d with
    | .tile n => regs fun r => latched (r.setT n ⟨v, t⟩)
    | .oper n => regs fun r => latched (r.setO n ⟨v, t⟩)
    | .stream q => (s.modCore c fun x => x.modRegs latched).streamWrite c q v

/-- Whether the order of two results that land in one cycle matters (R137, R144, R145). -/
def Result.clash : Result → Result → Bool
  | .scalar a ls _, .scalar b ls' _ => a == b || (ls && ls')
  | .addr a _, .addr b _ => a == b
  | .stride a l _, .stride b m _ => a == b && l == m
  | .row _ _ _ _, .row _ _ _ _ => true
  | .pred a _, .pred b _ => a == b
  | .creg _ _, .creg _ _ => true
  | _, _ => false

def Pending.due (p : Pending) : Bool := p.left == 0 && !p.young
def Pending.arrived (p : Pending) : Bool := p.ready && p.need == 0

/-- The write stream that is still to take a row. -/
def Pending.stream? (p : Pending) : Option (BitVec 3) :=
  match p.res with
  | .row (.stream q) _ _ _ => if p.pushed then none else some q
  | _ => none

/-- Whether a result is a row of a write stream, pushed ahead or not: it lands in a latch only. -/
def Pending.toStream (p : Pending) : Bool :=
  match p.res with
  | .row (.stream _) _ _ _ => true
  | _ => false

/-- Whether a fence or an acquire of an earlier bundle holds a row of a write stream (R359, R361). -/
def Core.rowHeld (x : Core) (p : Pending) : Bool := p.isPush && x.mem.memq.any fun e => e.holdsWrite p.bun

/-- Whether a row stands in the buffer of its write stream and cannot be written yet: a trap that saves the context waits for it (R228). -/
def Core.rowInBuffer (x : Core) : Bool := x.flow.pending.any fun p => p.due && p.arrived && x.rowHeld p

/-- Whether a due row has to wait for its write stream: a fence or an acquire of an earlier bundle holds it (R359, R361), or a row that
lands in the same cycle has not arrived (R190). -/
def Core.pushWaits (x : Core) (p : Pending) : Bool :=
  match p.stream? with
  | none => false
  | some q =>
    (x.mem.memq.any fun e => e.holdsWrite p.bun) ||
    x.flow.pending.any fun o => o.due && !o.arrived && o.stream? == some q

/-- The due results that may land, in order, and what stays: a result waits for its data, for its write stream, and for an earlier
one that waits and goes to the same place. -/
def landSplit (held : Pending → Bool) : List Pending → List Result → List Pending × List Pending
  | [], _ => ([], [])
  | p :: t, blocked =>
    if !p.due then
      let r := landSplit held t blocked
      (r.1, p :: r.2)
    else if p.arrived && !held p && !blocked.any p.res.clash then
      let r := landSplit held t blocked
      (p :: r.1, r.2)
    else
      let r := landSplit held t (p.res :: blocked)
      (r.1, p :: r.2)

/-- Rows that land together are pushed in ascending word order of their slots (R190). -/
def pushOrder (l : List Pending) : List Pending := sortBy (fun a b => decide (a.slot ≤ b.slot)) (l.filter (·.isPush))

/-- A row lands in the latch of its slot. -/
def State.landLatch (s : State) (c : Nat) (r : Result) : State :=
  match r with
  | .row _ v t (some l) => s.modCore c fun x => x.modRegs fun r => r.setLatch l ⟨v, t⟩
  | _ => s

/-- A row is pushed to its write stream. -/
def State.landPush (s : State) (c : Nat) (r : Result) : State :=
  match r with
  | .row (.stream q) v _ _ => s.streamWrite c q v
  | _ => s

/-- Results of one cycle land, in order; their rows reach the write streams in the order of R190. -/
def State.landResults (s : State) (c : Nat) (l : List Pending) : State :=
  let s := l.foldl (fun s p => if p.toStream then s.landLatch c p.res else s.landResult c p.res) s
  (pushOrder l).foldl (fun s p => s.landPush c p.res) s

/-- RESULT_LANDING: the due results of a core land (R136). -/
def State.landDue (s : State) (c : Nat) : State :=
  let x := s.core c
  let r := landSplit x.pushWaits x.flow.pending []
  (s.modCore c fun x => x.modFlow fun f => { f with pending := r.2 }).landResults c r.1

/-- The rows of a list, in the order of their cycles and words, that their streams can take now: `ok` names those that may go, and none
goes before an earlier one of its stream. -/
def rowsAhead (ok : Pending → Bool) : List (Nat × Pending) → List (BitVec 3) → List (Nat × Pending)
  | [], _ => []
  | (i, p) :: t, shut =>
    match p.stream? with
    | none => rowsAhead ok t shut
    | some q => if ok p && !shut.contains q then (i, p) :: rowsAhead ok t shut else rowsAhead ok t (q :: shut)

/-- Rows on their way to write streams are pushed ahead of their cycle: those that `want` names, whose data are there and that no fence
holds; those of an interrupted context go first (log entry 75). -/
def State.pushAhead (s : State) (c : Nat) (want : Pending → Bool) : State :=
  let x := s.core c
  let n := x.results.length - x.flow.pending.length
  let key (p : Nat × Pending) : List Nat := [if p.1 < n then 0 else 1, p.2.left, p.2.slot]
  let l := rowsAhead (fun p => want p && p.arrived && !p.young && !x.rowHeld p)
    (sortBy (fun a b => lexLe (key a) (key b)) (x.results.zipIdx.map fun p => (p.2, p.1))) []
  let mark (off : Nat) (r : List Pending) : List Pending :=
    r.zipIdx.map fun p => if l.any fun e => e.1 == p.2 + off then { p.1 with pushed := true } else p.1
  l.foldl (fun s p => s.landPush c p.2.res)
    (s.modCore c fun x => x.modFlow fun f =>
      { f with pending := mark n f.pending, save := f.save.map fun t => { t with pending := mark 0 t.pending } })

/-- Whether a landing is due whose data has not arrived (R132, R139). -/
def Core.landingDue (x : Core) : Bool := x.flow.pending.any (·.due)

/-- At completion of a bundle its results, in word order, follow the older ones, and every countdown falls by one. -/
def agePending (l : List Pending) : List Pending :=
  let new := sortBy (fun a b => decide (a.slot ≤ b.slot)) (l.filter (·.young))
  ((l.filter fun p => !p.young) ++ new).map fun p => { p with young := false, left := p.left - 1 }

/-- A result of the slot that is now performed, due `left` cycles after issue. -/
def State.pend (s : State) (left : Nat) (r : Result) : State :=
  s.modMe fun x => x.modFlow fun f =>
    { f with pending := f.pending ++ [{ left := left, res := r, slot := f.issue.slot, bun := f.bun }] }

/-- A result whose data come from accesses with number `id`: `part` of them (R139); `buf` when it holds a landing-buffer
entry (R140). -/
def State.pendData (s : State) (left : Nat) (r : Result) (id part need : Nat) (buf : Bool) : State :=
  s.modMe fun x => x.modFlow fun f =>
    { f with pending := f.pending ++
        [{ left := left, res := r, id := id, part := part, need := need, ready := false, buf := buf, slot := f.issue.slot
           bun := f.bun }] }

/-- The data of result `i` of a list are there. -/
def arriveAt (i : Nat) (l : List Pending) : List Pending :=
  l.zipIdx.map fun p => if p.2 = i ∧ p.1.need = 0 then { p.1 with ready := true } else p.1

/-- LANDING_DATA_ARRIVAL: the data of pending result `i`, fixed at their homes, reach the core; those of an interrupted context are counted
after those of the handler (R138). -/
def State.dataArrival (s : State) (c i : Nat) : State :=
  s.modCore c fun x => x.modFlow fun f =>
    { f with pending := arriveAt i f.pending
             save := f.save.map fun t => { t with pending := if f.pending.length ≤ i then arriveAt (i - f.pending.length) t.pending else t.pending } }

/-- Entries of the landing buffer that are held (R140). -/
def Core.buffered (x : Core) : Nat :=
  let held (l : List Pending) : Nat := (l.filter (·.buf)).length
  held x.flow.pending + (match x.flow.save with | some t => held t.pending | none => 0) + x.mat.drains.length

/-- A fresh number for the accesses of a core. -/
def State.takeId (s : State) : Nat × State :=
  (s.me.flow.nextId, s.modMe fun x => x.modFlow fun f => { f with nextId := f.nextId + 1 })

/-- A result of latency L in s[d], of the S slot: it also goes to LS (R145). -/
def State.scalarResult (s : State) (left : Nat) (d : BitVec 5) (v : Word) : State := s.pend left (.scalar d true v)

/-! ## Traps (R400 to R406, R462) -/

/-- Error-log entry of kind 0x62 (R406). -/
def handlerFault (code : BitVec 8) (pc : BitVec 47) : Word := field 0 code ||| field 16 pc

/-- Waits of the interrupted bundle are withdrawn: a lease or class request, a SYNC arrival before the restart, a monitor,
requests to the directory (R405, R409). -/
def Core.withdraw (x : Core) : Core :=
  { x with
    flow :=
      { x.flow with arrived := none, power := none, leased := false, monitor := none, sleepWoken := none, sleepArmed := false
                    sleepFault := none, frozen := none, issue := {}, restarted := false, words := [] }
    mem := { x.mem with cn := [] }
    mat := { x.mat with lease := match x.mat.lease with | .wait _ => .idle | l => l } }

/-- What a core saves for ERET at trap entry (R138, R183, R405). -/
def Core.trapSave (x : Core) : TrapSave :=
  { pc := x.flow.pc, count := x.flow.count, loops := x.flow.loops, lc := x.regs.lc, lockN := x.ctl.lockN, lockP := x.ctl.lockP
    rnd := x.ctl.rndCount, pending := x.flow.pending, carry := x.flow.carry }

/-- The rows in the buffers of read streams are discarded; they are fetched again (R228). -/
def Core.dropRows (x : Core) : Core :=
  x.modMem fun m =>
    { m with streams := m.streams.map fun p => (p.1, if p.2.write then p.2 else { p.2 with done := p.2.pos }) }

/-- The core enters its handler (R405). -/
def Core.intoHandler (x : Core) (slot : Nat) (t : Trap) (pc : BitVec 47) (replay : BitVec 16) : Core :=
  let save := x.trapSave
  let x := x.withdraw.dropRows
  { x with
    ctl :=
      { x.ctl with trapCause := BitVec.ofNat 64 (slot * 256 + t.code.toNat), trapPc := pc, trapAddr := t.addr
                   replay := replay, handler := true, priv := true, lockN := 0, lockP := 0 }
    flow :=
      { x.flow with pc := (x.ctl.trapVec.extractLsb' 5 47).setWidth 59, count := 0, loops := Vector.replicate 4 {}
                    pending := [], carry := {}, save := some save, synced := false, redo := 0, fetched := true } }

/-- Whether every member in lockstep has issued in this phase cycle. -/
def Phase.cycleDone (p : Phase) : Bool := p.members.all p.issued.contains

/-- A phase cycle that every member has issued in is over: the next begins, or, where a trap ends the phase, the phase is over (R376,
R384). -/
def State.settlePhase (s : State) (d : Nat) : State :=
  match (s.die d).phase with
  | some p =>
    if !p.cycleDone then s
    else if p.ending then s.abortPhase d
    else s.modDie d fun x => { x with phase := some { p with issued := [] } }
  | none => s

/-- A trap in a caravan phase ends the phase for the gang in that phase cycle: the other members issue their bundles of the cycle
first, and the member that has trapped finds ABORT set. Before the first cycle the phase ends at once (R376, R384). -/
def State.leavePhase (s : State) (c : Nat) : State :=
  match (s.die (dieOf c)).phase, (s.core c).run with
  | some p, some r =>
    if p.node == r.node && p.gang == r.gang then
      if p.members.contains c && !((s.gangCores p.node p.gang).any fun o => (s.core o).flow.synced) then
        ((s.modCore c fun x => x.modCtl fun t => { t with xcoll := t.xcoll ||| 2 }).modDie (dieOf c) fun d =>
          { d with phase := some { p with members := p.members.filter (· != c), ending := true } }).settlePhase (dieOf c)
      else s.abortPhase (dieOf c)
    else s
  | _, _ => s

/-- A core takes a cause that enters the handler, reported by `slot`, to resume at `pc` with CTL.REPLAY as given (R405). Inside
a handler, or without one, the node is killed (R406, R462). -/
def State.enterTrap (s : State) (c slot : Nat) (t : Trap) (pc : BitVec 47) (replay : BitVec 16) : State :=
  let s := s.leavePhase c
  let x := s.core c
  if x.ctl.handler || x.ctl.trapVec == 0 then
    let s := s.modCore c Core.withdraw
    (s.logError (dieOf c) 0x62 [handlerFault t.code pc]).killCore c
  else s.modCore c fun x => x.intoHandler slot t pc replay

/-- A core's PC as CTL.TRAPPC holds it (R403). -/
def Flow.trapPc (f : Flow) : BitVec 47 := f.pc.setWidth 47

/-- A decode failure: CTL.REPLAY is clear, but for what a pending reissue keeps (R121, R404). -/
def State.decodeTrap (s : State) (slot : Nat) (t : Trap) : State :=
  let f := s.me.flow
  s.enterTrap s.cur slot t f.trapPc ((f.redo &&& 0xFF) ||| (if f.synced then 1 else 0))

/-- Whether a cause is that of TRAP or BRK: it belongs to the bundle before the boundary (R166). -/
def isAfter (code : BitVec 8) : Bool := code == 0x20 || code == 0x21

/-- Boundary causes in the order in which they are taken (R409), behind a cause of the bundle before the boundary. -/
def causeRank (code : BitVec 8) : Nat :=
  match code with
  | 0x20 | 0x21 => 0
  | 0x30 => 1
  | 0x18 => 2
  | 0x19 => 3
  | 0x3E => 4
  | _ => 5

/-- The pending boundary cause that comes first. -/
def firstCause (l : List Trap) : Option Trap :=
  (List.range 6).findSome? fun k => l.find? fun t => causeRank t.code == k

/-- Whether a core is in an open caravan phase, which holds boundary causes (R377). -/
def State.inPhase (s : State) (c : Nat) : Bool :=
  match (s.die (dieOf c)).phase, (s.core c).run with
  | some p, some r => p.node == r.node && p.gang == r.gang
  | _, _ => false

/-- The timer cause of a core whose deadline has passed while it ran a node's context (R412). -/
def State.timerCause (s : State) (c : Nat) : List Trap :=
  if (s.core c).ctl.timerPassed then [⟨0x31, s.timerEntry c⟩] else []

/-- The boundary cause that a core takes now: none in a handler or a phase, nor while a verdict of the directory that has
been performed waits for its bundle (R344, R400, R409); and none that saves the context while the buffer of a write stream holds a row
(R228). A cause of TRAP or BRK that waits for such a row is not a boundary cause of the phase. -/
def State.boundaryCause (s : State) (c : Nat) : Option Trap :=
  let x := s.core c
  let l := x.flow.causes ++ s.timerCause c
  if x.ctl.handler || x.mem.cn.any (·.done) then none
  else match firstCause (if s.inPhase c then l.filter fun t => isAfter t.code else l) with
    | some t => if t.code != 0x30 && x.rowInBuffer then none else some t
    | none => none

/-- A boundary cause other than 0x30 is taken before the bundle about to issue; a pending reissue keeps CTL.REPLAY and
CTL.TRAPPC (R404). -/
def State.takeBoundary (s : State) (c : Nat) (t : Trap) : State :=
  let x := s.core c
  let s := s.modCore c fun x => x.modFlow fun f => { f with causes := f.causes.erase t }
  let s := if t.code = 0x31 then s.clearTimer c else s
  let sync : BitVec 16 := if x.flow.synced then 1 else 0
  if x.flow.redo = 0 then s.enterTrap c 9 t x.flow.trapPc sync
  else s.enterTrap c 9 t x.ctl.trapPc (x.ctl.replay ||| sync)

/-- A boundary cause made pending; one of a kind at a time. -/
def Flow.addCause (f : Flow) (t : Trap) : Flow :=
  if f.causes.any fun u => u.code == t.code then f else { f with causes := f.causes ++ [t] }

/-! ## Return from a trap (R407) -/

/-- Results that land cycle after cycle, `fuel` cycles at most. -/
def State.landCycles (s : State) (c : Nat) : Nat → List Pending → State
  | 0, _ => s
  | _, [] => s
  | fuel + 1, l =>
    let first := l.foldl (fun m p => min m p.left) (l.headD { left := 0, res := .creg 0 0 }).left
    (s.landResults c (l.filter fun p => p.left == first)).landCycles c fuel (l.filter fun p => p.left != first)

/-- Every result of the handler's own bundles lands, in order of landing cycle. -/
def State.landAll (s : State) (c : Nat) : State :=
  let l := (s.core c).flow.pending
  (s.modCore c fun x => x.modFlow fun f => { f with pending := [] }).landCycles c l.length l

/-- What performed slots left for their bundle holds at the return only for that bundle and its reissue. -/
def TrapSave.keptCarry (t : TrapSave) (pc : Pc) (replay : BitVec 16) : Carry :=
  if t.pc = pc ∧ replay &&& 0xFE ≠ 0 then t.carry else {}

/-- The interrupted context comes back, at CTL.TRAPPC and with CTL.REPLAY as they stand. -/
def Core.restoreTrap (x : Core) (t : TrapSave) : Core :=
  { x with
    regs := { x.regs with lc := t.lc }
    ctl := { x.ctl with handler := false, priv := false, lockN := t.lockN, lockP := t.lockP, rndCount := t.rnd }
    flow :=
      { x.flow with pc := x.ctl.trapPc.setWidth 59, count := t.count, loops := t.loops, pending := t.pending
                    carry := t.keptCarry (x.ctl.trapPc.setWidth 59) x.ctl.replay, save := none, redo := x.ctl.replay, synced := x.ctl.replay.getLsbD 0, fetched := true } }

def State.eretReturn (s : State) (c : Nat) : State :=
  let s := s.landAll c
  s.modCore c fun x =>
    match x.flow.save with
    | some t => x.restoreTrap t
    | none => x

/-! ## Freezes (R132) -/

/-- One more wait of a kind. -/
def Waits.more (w : Waits) : Waits := { w with n := w.n + 1 }

/-- The counter that a wait belongs to (R440). -/
def Counters.waits (p : Counters) (f : Freeze) : Counters :=
  match f with
  | .sync _ => { p with sync := p.sync.more }
  | .landing | .commit => { p with land := p.land.more }
  | .tokens => { p with tok := p.tok.more }
  | _ => { p with other := p.other.more }

/-- The core is frozen before issue. -/
def State.freeze (s : State) (f : Freeze) : State :=
  s.modMe fun x => { x.modFlow fun w => { w with frozen := some f, issue := {} } with perf := x.perf.waits f }

/-! ## Rows that a freeze waits for (R132, R190, R360, R370; log entry 75) -/

/-- The bundle below which an entry of the queues waits for rows of write streams (R279, R360). -/
def MemOp.rowsBelow (m : MemOp) : Nat :=
  match m.kind with
  | .fence pred _ _ => if pred.getLsbD 1 then m.bun + 1 else 0
  | _ => if m.rel && farScope m.scope then m.bun else 0

/-- The entries of a queue that such an entry holds, one behind another, with itself. -/
def rowsBehind : List MemOp → List MemOp → List MemOp
  | [], l => l
  | m :: t, l => rowsBehind t (if 0 < m.rowsBelow || l.any (·.blocks m) then l ++ [m] else l)

/-- Whether a frozen core waits for something that stands behind an entry which waits for rows. -/
def Core.stuckBehind (x : Core) : Bool :=
  let l := rowsBehind x.mem.memq []
  let bulk (f : Bulk → Bool) : Bool := x.mem.bulk.any fun b => f b && l.any b.heldBy
  let cmds (f : Queued → Bool) : Bool := x.mat.cmds.any fun q => f q && l.any q.heldBy
  match x.flow.frozen with
  | some .landing => x.flow.pending.any fun r =>
      (r.due || x.ctl.handler) && l.any fun m => (!r.arrived && m.id == r.id) || (r.isPush && m.holdsWrite r.bun)
  | some .commit | some .commands => cmds fun _ => true
  | some (.promise t) => bulk fun b => b.tag == t
  | some .scOrder => l.any (·.scPage) || bulk (·.sc) || cmds (·.sc)
  | some .verdict | some .fence | some (.stream _) => !l.isEmpty
  | _ => false

/-- The bundle below which something outside of the core waits for its rows: what it has signalled or launched, and its releases of a narrow
scope (R170, R176, R363). -/
def State.rowsAsked (s : State) (c : Nat) : Nat :=
  let launches (d : Die) : List Nat :=
    (d.fifo.filterMap fun l => match l.after with | some (o, b) => if o = c then some b else none | none => none) ++
    d.asks.filterMap fun a => match a.kind with | .launch _ b => if a.core = c then some b else none | _ => none
  (((s.signals.filter fun m => m.core == c).map (·.bun)) ++ s.dies.toList.flatMap launches ++
    (s.releases.filter fun r => r.core == c).map (·.bun)).foldl max 0

/-- The bundle below which a queue of the core waits for its rows. -/
def Core.rowsBelow (x : Core) : Nat := (x.mem.memq.map MemOp.rowsBelow).foldl max 0

/-- Whether a freeze of a core lasts until a row of a write stream has been pushed. -/
def State.rowWanted (s : State) (c : Nat) (p : Pending) : Bool :=
  let x := s.core c
  match x.flow.frozen with
  | some (.sync _) => true
  | some (.stream q) => (p.stream? == some q && (match x.stream? q with | some t => t.write | none => false)) ||
      (x.stuckBehind && decide (p.bun < x.rowsBelow))
  | some .sleep | some (.queue _) | some .lease | some .power => decide (p.bun < max x.rowsBelow (s.rowsAsked c))
  | _ => x.stuckBehind && decide (p.bun < x.rowsBelow)

/-- What a cycle of a frozen core does: the rows that its freeze waits for are pushed. -/
def State.frozenCycle (s : State) (c : Nat) : State := if (s.core c).flow.frozen.isSome then s.pushAhead c (s.rowWanted c) else s

/-- What a cycle of a core does whose slice has halted: its results come nearer and land (R168). -/
def State.haltedCycle (s : State) (c : Nat) : State :=
  let s := s.landDue c
  if (s.core c).landingDue then s
  else (s.modCore c fun x => x.modFlow fun f => { f with pending := f.pending.map fun p => { p with left := p.left - 1 } }).landDue c

/-! ## Loops and the next bundle (R179 to R182) -/

structure LoopEnd where
  next : Option Pc
  loops : Vector Loop 4
  lc : Vector Word 4
  deriving DecidableEq, Repr

/-- LOOP, LOOPS or LBRK acts on its level; a zero count asks for the body to be skipped. -/
def LoopOp.apply (p : Pc) (o : LoopOp) (loops : Vector Loop 4) (lc : Vector Word 4) : Vector Loop 4 × Vector Word 4 × Option Pc :=
  match o with
  | .set l count len =>
    let old := loops.get l.toFin
    let new : Loop := if count = 0 then { old with act := false } else ⟨true, p + 1, p + len.setWidth 59, count⟩
    (loops.set l.toNat new l.isLt, lc.set l.toNat 0 l.isLt, if count = 0 then some (p + len.setWidth 59 + 1) else none)
  | .brk l => (loops.set l.toNat { loops.get l.toFin with act := false } l.isLt, lc, none)

/-- Loop-end processing of one level. -/
def loopLevel (p : Pc) (st : LoopEnd) (i : Fin 4) : LoopEnd :=
  if st.next.isSome then st
  else
    let l := st.loops.get i
    if l.act && l.e == p then
      let rc := l.rc - 1
      if rc ≠ 0 then
        { next := some l.s, loops := st.loops.set i { l with rc := rc } i.isLt
          lc := st.lc.set i (st.lc.get i + 1) i.isLt }
      else { st with loops := st.loops.set i { l with rc := rc, act := false } i.isLt }
    else st

/-- What follows bundle `p` (R182): the next PC, the loop levels, their counters, and whether the fetch leaves a bubble. -/
def nextBundle (p : Pc) (c : Carry) (loops : Vector Loop 4) (lc : Vector Word 4) : Pc × LoopEnd × Bool :=
  let r := match c.loop with
    | some o => o.apply p loops lc
    | none => (loops, lc, none)
  let st : LoopEnd := ⟨none, r.1, r.2.1⟩
  match c.target with
  | some t => (t, st, true)
  | none =>
    let st := [0, 1, 2, 3].foldl (loopLevel p) st
    match st.next with
    | some n => (n, st, true)
    | none => (r.2.2.getD (p + 1), st, r.2.2.isSome)

/-! ## Roads (R378, R379) -/

/-- A value moves on by one phase cycle; beyond the ends it is lost. -/
def RoadValue.step (v : RoadValue) : Option RoadValue :=
  if 0 < v.wait then some { v with wait := v.wait - 1 }
  else if v.west then (if v.strip = 0 then none else some { v with strip := v.strip - 1 })
  else if v.strip = 23 then none else some { v with strip := v.strip + 1 }

def RoadValue.sameLatch (a b : RoadValue) : Bool :=
  a.wait == 0 && b.wait == 0 && a.west == b.west && a.lane == b.lane && a.strip == b.strip

/-- A value joins those on the roads; where it meets one it becomes their OR. -/
def joinRoad (l : List RoadValue) (v : RoadValue) : List RoadValue :=
  match l with
  | [] => [v]
  | w :: t =>
    if w.sameLatch v then { w with data := w.data ||| v.data, from_ := w.from_ ++ v.from_, met := true } :: t
    else w :: joinRoad t v

/-- The cores whose values met in this cycle. -/
def metNow (old new : List RoadValue) : List Nat :=
  (new.filter fun v => v.met && !(old.any fun w => w.sameLatch v && w.from_ == v.from_)).flatMap (·.from_)

/-- The roads of a die at the start of a phase cycle; COLL is set in the cores whose values meet. -/
def State.advanceRoads (s : State) (d : Nat) : State :=
  let moved := (s.die d).roads.filterMap RoadValue.step
  let joined := moved.foldl joinRoad []
  let s := (metNow moved joined).foldl (fun s c =>
    s.modCore c fun x => x.modCtl fun t => { t with xcoll := t.xcoll ||| 1 }) s
  s.modDie d fun x => { x with roads := joined }

/-! ## The header (R100 to R107, R226, R374 to R377, R384, R406) -/

/-- Whether POP names only bound read streams. -/
def Core.popOk (x : Core) (pop : BitVec 8) : Bool :=
  (bitsOf 8 pop).all fun q => match x.stream? (BitVec.ofNat 3 q) with | some t => !t.write | none => false

/-- The members of the phase that a core is in lockstep with, if it is. -/
def State.lockstep (s : State) (c : Nat) : Option Phase :=
  match (s.die (dieOf c)).phase with
  | some p => if p.members.contains c then some p else none
  | none => none

/-- Whether a member of a phase that is in lockstep waits for the others: it has issued in this phase cycle, the first has not begun, or
a maintenance slot suspends the phase (R376, R377). -/
def State.phaseHolds (s : State) (c : Nat) (p : Phase) : Bool :=
  p.issued.contains c || s.calendar.now.isSome || ((s.gangCores p.node p.gang).any fun o => (s.core o).flow.synced)

/-- The header's checks that its word alone does not decide (R103, R122): the profile, then POP, phases, the handler. -/
def Head.check (h : Head) (s : State) : Option Trap :=
  let x := s.me
  let inStep := (s.lockstep s.cur).isSome && !x.flow.synced
  if 8 ≤ h.np then some ⟨0x01, 0⟩
  else if !x.popOk h.pop then some ⟨0x03, 0⟩
  else match h.kind with
    | .xph => if x.ctl.handler || !inStep then some ⟨0x03, 0⟩ else none
    | .sync g => if x.ctl.handler || (inStep && g != .gang) then some ⟨0x03, 0⟩ else none
    | _ => if inStep then some ⟨0x03, 0⟩ else none

/-- A SYNC bundle reaches issue: its core arrives, and leaves the lockstep of a phase that it closes (R374, R385). -/
def Head.reach (h : Head) (s : State) : State :=
  match h.kind with
  | .sync g =>
    if s.me.flow.synced then s
    else
      let c := s.cur
      let s := s.modMe fun x => x.modFlow fun f => { f with arrived := some g }
      (s.modDie (dieOf c) fun d =>
        { d with phase := d.phase.map fun p => { p with members := p.members.filter (· != c) } }).settlePhase (dieOf c)
  | _ => s

/-- The freezes of a header: SYNC until the restart, XPH until every member of the phase can issue this cycle. -/
def Head.wait (h : Head) (s : State) : Option Freeze :=
  match h.kind with
  | .sync g => if s.me.flow.synced then none else some (.sync g)
  | .xph =>
    match s.lockstep s.cur with
    | some p =>
      if s.phaseHolds s.cur p then some .phase else none
    | none => none
  | _ => none

/-- The header performs: POP of an exhausted stream is its fault; an XPH bundle takes part in a phase cycle. -/
def Head.act (h : Head) (s : State) : State × Option Trap :=
  let x := s.me
  match (bitsOf 8 h.pop).find? fun q =>
    match x.stream? (BitVec.ofNat 3 q) with | some t => t.exhausted | none => false with
  | some q => (s, some ⟨0x11, BitVec.ofNat 64 q⟩)
  | none =>
    match h.kind, s.lockstep s.cur with
    | .xph, some p =>
      let d := dieOf s.cur
      let s := if p.issued.isEmpty then s.advanceRoads d else s
      (s.modDie d fun x => { x with phase := some { p with issued := s.cur :: p.issued } }, none)
    | _, _ => (s, none)

/-! ## Slots -/

/-- What an instruction does in its slot: the header that it is, the decode checks that need the state (R121), what it asks for when its bundle
reaches issue, the freezes it waits in (R132), its request to the directory (R344), the landing-buffer entries (R140) and
draw tokens (R154) it needs, the write streams that its rows go to (R190), and its performance, which faults or not (R401). -/
structure SlotSem where
  head : Option Head := none
  check : State → Option Trap := fun _ => none
  reach : State → State := id
  wait : State → Option Freeze := fun _ => none
  request : State → State × Option CnVerdict := fun s => (s, none)
  entries : State → Nat := fun _ => 0
  tokens : State → Nat := fun _ => 0
  pushes : List (BitVec 3) := []
  act : State → State × Option Trap := fun s => (s, none)

def Head.sem (h : Head) : SlotSem :=
  { head := some h, check := h.check, reach := h.reach, wait := h.wait, act := h.act }

/-- The slot that a semantic function is asked about. -/
def State.atSlot (s : State) (k : Nat) : State := s.modMe fun x => x.modIssue fun i => { i with slot := k }

/-- Whether an earlier fence or acquire of the core holds its next accesses of a class back (R279, R361). -/
def Core.heldBack (x : Core) (cls : Nat) : Bool :=
  x.mem.memq.any fun e => e.holds x.flow.bun cls || (cls == 1 && e.holdsWrite x.flow.bun)

/-- Whether an access of the core to local memory has to go through its queue: it is held back, or an earlier one that is meets it
(R222, R279). -/
def Core.queuesLocal (x : Core) (shared store : Bool) (offs : List Nat) : Bool :=
  x.heldBack (if store then 1 else 0) || x.mem.memq.any fun e => e.meetsLocal shared store offs

/-- The first decode failure of a bundle's slots, in word order (R122), with the landing-buffer check last (R140). -/
def bundleCheck (sems : List (Nat × SlotSem)) (s : State) : Option (Nat × Trap) :=
  match sems.findSome? fun p => (p.2.check (s.atSlot p.1)).map fun t => (if p.1 = 0 then 8 else p.1, t) with
  | some r => some r
  | none =>
    let n := s.me.buffered + (sems.map fun p => p.2.entries (s.atSlot p.1)).sum
    if 64 < n && decide (0 < (sems.map fun p => p.2.entries (s.atSlot p.1)).sum) then some (8, ⟨0x03, BitVec.ofNat 64 n⟩)
    else none

/-- Tokens that a bundle is charged: what its slots cost, those performed before a reissue included, capped (R154). -/
def bundleCost (sems : List (Nat × SlotSem)) (s : State) : Nat :=
  s.me.flow.carry.cost + (sems.map fun p => p.2.tokens (s.atSlot p.1)).sum

/-- The first write stream without room for the bundle's rows (R190, R227). A bundle with more rows than a buffer has entries waits until the
buffer is empty, and issues with all of them (log entry 84). -/
def fullStream (x : Core) (l : List (BitVec 3)) : Option (BitVec 3) :=
  l.find? fun q =>
    match x.stream? q with
    | some t => t.write && decide (4 < t.pos - t.done + min 4 (l.filter (· == q)).length)
    | none => false

/-- The freeze in which a bundle waits, if any. -/
def bundleWait (sems : List (Nat × SlotSem)) (s : State) : Option Freeze :=
  match sems.findSome? fun p => p.2.wait (s.atSlot p.1) with
  | some f => some f
  | none =>
    let x := s.me
    match fullStream x (sems.flatMap fun p => p.2.pushes) with
    | some q => some (.stream q)
    | none =>
      if x.ctl.bal < min (bundleCost sems s) (s.die (dieOf s.cur)).grant.cap then some .tokens
      else none

/-- Requests of the bundle's slots to the directory that have not been sent are sent (R344). -/
def sendRequests (sems : List (Nat × SlotSem)) (s : State) : State :=
  sems.foldl (fun s p =>
    if s.me.mem.cn.any fun v => v.slot == p.1 then s
    else match p.2.request (s.atSlot p.1) with
    | (s, none) => s
    | (s, some v) => s.modMe fun x => x.modMem fun m => { m with cn := m.cn ++ [{ v with slot := p.1 }] }) s

/-- A bundle reaches issue (R121, R122, R131, R132): it fails a check and traps, freezes, or its issue opens with `perf`
marking the words that count as performed. -/
def State.reachIssue (s : State) (sems : List (Nat × SlotSem)) (perf : BitVec 8) : Except State State :=
  let head := (sems.findSome? fun p => p.2.head).getD {}
  let s := s.modMe fun x => x.modFlow fun f => { f with frozen := none, issue := { head := head, tags := x.mem.tags } }
  match bundleCheck sems s with
  | some (slot, t) => .error (s.decodeTrap slot t)
  | none =>
    let s := sems.foldl (fun s p => p.2.reach (s.atSlot p.1)) s
    match bundleWait sems s with
    | some f => .error (s.freeze f)
    | none =>
      let s := sendRequests sems s
      if s.me.mem.cn.any fun v => !v.done then .error (s.freeze .verdict)
      else .ok (s.modMe fun x => x.modIssue fun i => { i with isOpen := true, perf := perf })

/-- Draw tokens of a performed slot are kept for the end of its bundle (R154). -/
def Flow.addCost (f : Flow) (n : Nat) : Flow := { f with carry := { f.carry with cost := f.carry.cost + n } }

/-- A slot performs: its performed bit is set, or its fault noted (R401, R404). -/
def State.performSlot (s : State) (k : Nat) (sem : SlotSem) : State :=
  let s := s.atSlot k
  let cost := sem.tokens s
  match sem.act s with
  | (s, none) =>
    s.modMe fun x => (x.modIssue fun i =>
      { i with perf := i.perf ||| (if k = 0 then 0 else 1#8 <<< k) }).modFlow (·.addCost cost)
  | (s, some t) => s.modMe fun x => x.modIssue fun i => { i with faults := i.faults ++ [(k, t)] }

/-! ## The end of a bundle -/

/-- Local stores take effect at the end of the issue cycle, in word order (R135, R222). -/
def State.applyStores (s : State) (l : List LocalStore) : State :=
  l.foldl (fun s x =>
    if x.shared then s.sramStore (clusterOf s.cur) x.cells else s.ownStore s.cur s.me.flow.bun x.cells) s

/-- Entries of write streams reserved by the bundle's rows (R227). -/
def Core.reserve (x : Core) (l : List (BitVec 3)) : Core :=
  l.foldl (fun x q => x.modStream q fun t => { t with pos := t.pos + 1 }) x

/-- The rows that a product has taken, the pops of the header and the bindings of the A slot (R106, R186, R187, R319). A POP tests its stream
as the bundle found it, before a product of the bundle takes rows (log entry 79). -/
def Core.endStreams (x : Core) (h : Head) (c : Carry) : Core :=
  let x := match c.take with
    | some (q, n) => x.modStream q fun t => { t with pos := t.pos + n }
    | none => x
  let x := (bitsOf 8 h.pop).foldl (fun x q => x.modStream (BitVec.ofNat 3 q) fun t => { t with pos := t.pos + 1 }) x
  c.binds.foldl (fun x b =>
    x.modMem fun m =>
      { m with streams := match b.2 with | some t => mapSet b.1.toNat t m.streams | none => mapDel b.1.toNat m.streams }) x

/-- The lock after a bundle (R105). -/
def Ctl.endLock (t : Ctl) (h : Head) : Ctl :=
  match h.kind with
  | .lock pairs count => { t with lockN := count, lockP := pairs }
  | _ => if t.lockN.toNat ≤ 1 then { t with lockN := 0, lockP := 0 } else { t with lockN := t.lockN - 1 }

/-- A service round of R220: what is left of the accesses, and the banks that are used. -/
def bankRound : List (List Nat) → List Nat → List (List Nat) × List Nat
  | [], used => ([], used)
  | b :: t, used =>
    if b.any used.contains then
      let r := bankRound t used
      (b :: r.1, r.2)
    else bankRound t (used ++ b)

/-- The service rounds of a bundle: of the rows that a matrix command takes, one in a round (R220, R321). -/
def bankRounds : Nat → List (List Nat) → List (List Nat) → Nat
  | 0, _, _ => 0
  | _, [], [] => 0
  | n + 1, l, rows =>
    let r := bankRound l []
    let rows := match rows with
      | b :: t => if b.any r.2.contains then b :: t else t
      | [] => []
    bankRounds n r.1 rows + 1

/-- A core has been frozen for a number of periods on bank conflicts (R440). -/
def Counters.stalled (p : Counters) (n : Nat) : Counters :=
  { p with frozen := p.frozen + BitVec.ofNat 64 n, bank := { p.bank with base := p.bank.base + BitVec.ofNat 64 n } }

/-- A bundle has completed issue (R440): it was frozen for its service rounds beyond the first, and, where it has used the shared SRAM, for as
long as the other cores made it wait there (R231). -/
def Counters.issued (p : Counters) (i : Issue) : Counters :=
  let n := i.banks.length + i.rowBanks.length
  let p := { p with issue := p.issue + 1 }
  let p := if 1 < n then p.stalled (bankRounds n i.banks i.rowBanks - 1) else p
  if i.sharedUse then { p with bank := p.bank.more } else p

/-- The slot that is performed accesses local memory (R220). -/
def State.touch (s : State) (shared : Bool) (banks : List Nat) : State :=
  s.modMe fun x => x.modIssue fun i => if shared then { i with sharedUse := true } else { i with banks := i.banks ++ [banks] }

/-- The flow of a core after a bundle has completed issue (R131, R182). -/
def Core.endFlow (x : Core) (c : Carry) : Core :=
  let r := nextBundle x.flow.pc c x.flow.loops x.regs.lc
  { x with
    regs := { x.regs with lc := r.2.1.lc }
    flow :=
      { x.flow with pc := r.1, loops := r.2.1.loops, count := x.flow.count + 1, pending := agePending x.flow.pending
                    carry := {}, issue := {}, frozen := none, synced := false, restarted := false, redo := 0, bun := x.flow.bun + 1
                    fetched := !r.2.2, sleepWoken := none, sleepArmed := false, sleepFault := none, monitor := none
                    arrived := none, power := none, leased := false, words := [] }
    mem := { x.mem with cn := [] }
    perf := x.perf.issued x.flow.issue }

/-- The slice has executed HALT: nothing further issues, and a lease ends (R168, R300). -/
def Core.endSlice (x : Core) : Core :=
  { x with run := x.run.map fun r => { r with halted := true }, mat := { x.mat with lease := .idle } }

/-- An acquire fence, at any scope (R280, R359). -/
def isAcquire (pred succ : BitVec 8) : Bool := (pred.getLsbD 0 || pred.getLsbD 2) && succ != 0

/-- The fences of the bundle enter the queues, behind the accesses of its other slots (R279). -/
def Core.enterFences (x : Core) (l : List (BitVec 8 × BitVec 8 × Scope)) : Core :=
  l.foldl (fun (x : Core) (f : BitVec 8 × BitVec 8 × Scope) =>
    { x with
      mem := { x.mem with memq := x.mem.memq ++
        [{ id := x.flow.nextId, bun := x.flow.bun, kind := .fence f.1 f.2.1 f.2.2, acq := isAcquire f.1 f.2.1, scope := f.2.2 }] }
      flow := { x.flow with nextId := x.flow.nextId + 1 } }) x

/-- The trap of TRAP or BRK after its bundle (R166): at once, or, outside a handler, once the rows in the buffers of write streams are written
(R228). -/
def State.trapAfter (s : State) (c : Nat) (t : Trap) : State :=
  if (s.core c).rowInBuffer && !(s.core c).ctl.handler then s.modCore c fun x => x.modFlow fun f => f.addCause t
  else s.enterTrap c 9 t (s.core c).flow.trapPc 0

/-- The bundle completes issue (R131, R402). -/
def State.completeBundle (s : State) : State :=
  let c := s.cur
  let h := s.me.flow.issue.head
  let carry := s.me.flow.carry
  let cap := (s.die (dieOf c)).grant.cap
  let s := s.modMe fun x =>
    let x := (x.endStreams h carry).enterFences carry.fences
    let x := x.modCtl fun t => ({ t with bal := t.bal - min carry.cost cap } : Ctl).endLock h
    x.endFlow carry
  let s := match h.kind with | .xph => s.settlePhase (dieOf c) | _ => s
  let s := if carry.fences.isEmpty then s else s.endFences c
  let s := match h.op with | some op => s.requestOp c op | none => s
  let s := if carry.eret then s.eretReturn c else s.landDue c
  let s := if carry.halt then s.modCore c Core.endSlice else s
  match carry.after with
  | some t => s.trapAfter c t
  | none => s

/-- FAULTED bits (R404). -/
def faultedBits (l : List (Nat × Trap)) : BitVec 16 := l.foldl (fun b p => b ||| (1#16 <<< (8 + p.1))) 0

/-- All words have been performed: the bundle completes, or the core takes the fault that comes first (R401). -/
def State.closeBundle (s : State) : State :=
  let i := s.me.flow.issue
  let s := (s.applyStores i.stores).modMe fun x => x.reserve i.pushes
  match i.faults with
  | [] => s.completeBundle
  | (k, t) :: _ =>
    let f := s.me.flow
    let replay := (i.perf.setWidth 16 &&& 0xFE) ||| faultedBits i.faults ||| (if f.synced then 1 else 0)
    s.enterTrap s.cur (if k = 0 then 8 else k) t f.trapPc replay

/-- The words of a bundle that count as performed when only word `k` is not zero (R404). -/
def aloneMask (k : Nat) : BitVec 8 := 0xFE &&& ~~~(1#8 <<< k)

/-- An instruction as the only word of its bundle that is not zero: the bundle's whole issue. -/
def State.issueAlone (s : State) (k : Nat) (sem : SlotSem) : State :=
  let sems := if k = 0 then [(0, sem)] else [(0, ({} : Head).sem), (k, sem)]
  match s.reachIssue sems (aloneMask k) with
  | .error s => s
  | .ok s => (s.performSlot k sem).closeBundle

/-- An instruction in its slot: as the next word of the bundle that is being issued, which closes after its last word, or
as a bundle of its own at word `k`. -/
def runSlot (k : Nat) (sem : SlotSem) (s : State) : State :=
  let i := s.me.flow.issue
  if i.isOpen then
    let s := s.performSlot i.slot sem
    if i.more = 0 then s.closeBundle else s.modMe fun x => x.modIssue fun j => { j with more := i.more - 1 }
  else s.issueAlone k sem

/-! ## Pieces of slot semantics -/

/-- What a meaning answers. -/
abbrev Answer := Host.Outcome State Fault Refusal

/-- The meaning of a slot instruction: always a next state. -/
def inSlot (k : Nat) (sem : SlotSem) (s : State) : Answer := .next (runSlot k sem s)

/-- The meaning of an event. -/
def asEvent (f : State → State) (s : State) : Answer := .next (f s)

/-- A slot that only leaves a result. -/
def SlotSem.result (f : State → State) : SlotSem := { act := fun s => (f s, none) }

/-- A change of what the bundle leaves for its end. -/
def State.modCarry (s : State) (f : Carry → Carry) : State :=
  s.modMe fun x => x.modFlow fun w => { w with carry := f w.carry }

/-- Rnd16 of element `e` for the acting core, and the advance of the counter (R40, R41). -/
def State.rnd (s : State) (e : Nat) : Nat :=
  let x := s.me
  rnd16 x.ctl.rngSeed (match x.run with | some r => r.slice | none => 0) x.ctl.rndCount e

def State.advanceRnd (s : State) (rm : RMode) (n : Nat) : State :=
  if rm = .sr then s.modMe fun x => x.modCtl fun t => { t with rndCount := t.rndCount + BitVec.ofNat 64 n } else s

end Sys2Proof.Machine
end

