-- ==== Sys2Proof/Machine/Flags.lean ====
section
/-! DEFINITION. Machine/Flags.lean: conditions. The part has no condition flags: branches test a register (R110), vector
compares write predicates (R198), and guards read them (R191). -/

namespace Sys2Proof.Machine

/-- A branch condition on a register (R110). -/
def brHolds (c : BrCond) (v : Word) : Bool :=
  match c with
  | .eqz => v == 0
  | .nez => v != 0
  | .ltz => v.msb
  | .gez => !v.msb
  | .gtz => !v.msb && v != 0
  | .lez => v.msb || v == 0
  | .bit0 => v.getLsbD 0
  | .nbit0 => !v.getLsbD 0

/-- The value 1 or 0 of a test. -/
def boolWord (b : Bool) : Word := if b then 1 else 0

/-- The guard of a vector instruction as it stands at issue (R191). -/
def State.guardOf (s : State) (g : BitVec 2) : Pred := s.me.regs.pReg g

/-- Predicate logic under a guard (R200). -/
def predLogic (g old r : Pred) : Pred := (r &&& g) ||| (old &&& ~~~g)

end Sys2Proof.Machine
end

