-- ==== Sys2Proof/Machine/Operands.lean ====
section
/-! DEFINITION. Machine/Operands.lean: row operands as sources and destinations (spec 06 R106 to R109; 07 R144 to R146; 09
R189 to R191; 10 R185, R216, R224 to R227), and addresses. -/

namespace Sys2Proof.Machine

/-! ## Sources -/

/-- The tile row that an operand names, a loop-indirect one by lcl at issue (R108). -/
def Regs.tileIdx (r : Regs) : RowOp → Option (BitVec 7)
  | .t n => some n
  | .tl t l => some (t ++ (r.lcReg l).extractLsb' 0 3)
  | _ => none

/-- A latch as a row; LS is a broadcast row of its own (R146). -/
def Regs.latchRow (r : Regs) : Latch → TRow
  | .LV0 => r.lv0
  | .LV1 => r.lv1
  | .LC0 => r.lc0
  | .LC1 => r.lc1
  | .LM => r.lm
  | .LS => ⟨0, .FP32⟩

/-- The row that LS stands for under a tag (R146). -/
def lsRow (t : Tag) (v : Word) : RowBits :=
  let w := tagBits t
  let e :=
    if tagInt t then v.toNat % 2 ^ w
    else if t = .FP32 then v.toNat % 2 ^ 32
    else convert .FP32 t .rne 0 false (v.toNat % 2 ^ 32)
  packRow w (List.replicate (4096 / w) e)

def isLs : RowOp → Bool
  | .latch .LS => true
  | _ => false

/-- The tag that a source shows at issue; that of LS alone is FP32 (R146). -/
def Core.rowTag (x : Core) : RowOp → Tag
  | .t n => (x.regs.tRow n).tag
  | .tl t l => (x.regs.tRow (t ++ (x.regs.lcReg l).extractLsb' 0 3)).tag
  | .o n => (x.regs.oRow n).tag
  | .q n => match x.stream? n with | some q => q.tag | none => .EMPTY
  | .latch l => (x.regs.latchRow l).tag

/-- Row `k` of a stream as the memory stands (R225). -/
def State.streamRow (s : State) (c : Nat) (q : Stream) (k : Nat) : RowBits :=
  let off := q.offset k
  if q.space then readShape (s.sramByte (clusterOf c)) q.shape off else readShape (s.spadByte c) q.shape off

/-- RowRead: the bits of a source at issue, LS under tag `t` (R106, R146). -/
def State.rowBits (s : State) (t : Tag) (o : RowOp) : RowBits :=
  let x := s.me
  match o with
  | .t n => x.regs.t.get n.toFin
  | .tl t l => x.regs.t.get (t ++ (x.regs.lcReg l).extractLsb' 0 3).toFin
  | .o n => (x.regs.oRow n).bits
  | .q n => match x.stream? n with | some q => s.streamRow s.cur q q.pos | none => 0
  | .latch .LS => lsRow t x.regs.ls
  | .latch l => (x.regs.latchRow l).bits

/-- R109 on a source: Qq must be bound as a read stream. -/
def State.sourceTrap (s : State) (o : RowOp) : Option Trap :=
  match o with
  | .q n => match s.me.stream? n with
    | some q => if q.write then some ⟨0x03, 0⟩ else none
    | none => some ⟨0x03, 0⟩
  | _ => none

/-- A read stream whose head has not arrived (R224), or whose rows a fence or an acquire holds back, or follow a store that it holds
(R222, R278, R361). -/
def State.sourceWait (s : State) (o : RowOp) : Option Freeze :=
  match o with
  | .q n => match s.me.stream? n with
    | some q =>
      if !q.exhausted && (decide (q.done ≤ q.pos) || s.me.heldBack 0 || s.me.mem.memq.any (·.isLocalStore)) then some (.stream n)
      else none
    | none => none
  | _ => none

/-- The offset that a misaligned fault of a stream row reports (R216). -/
def offsetTrap (o : Nat) : Trap := ⟨0x0A, BitVec.ofNat 64 o⟩

/-- The fault of reading a source: an exhausted stream, or a row whose offset R216 rejects (R226). -/
def State.sourceFault (s : State) (o : RowOp) : Option Trap :=
  match o with
  | .q n => match s.me.stream? n with
    | some q =>
      if q.exhausted then some ⟨0x11, n.setWidth 64⟩
      else if q.rowOk q.pos then none else some (offsetTrap (q.offset q.pos))
    | none => none
  | _ => none

/-- The first of several optional answers. -/
def firstSome {α : Type} : List (Option α) → Option α
  | [] => none
  | some x :: _ => some x
  | none :: t => firstSome t

/-! ## Destinations -/

/-- R109 on a destination: a latch never; Qq must be bound as a write stream. -/
def State.destTrap (s : State) (o : RowOp) : Option Trap :=
  match o with
  | .latch _ => some ⟨0x03, 0⟩
  | .q n => match s.me.stream? n with
    | some q => if q.write then none else some ⟨0x03, 0⟩
    | none => some ⟨0x03, 0⟩
  | _ => none

/-- The destination that an operand names at issue. -/
def Regs.dest (r : Regs) (o : RowOp) : RowDest :=
  match o with
  | .t n => .tile n
  | .tl t l => .tile (t ++ (r.lcReg l).extractLsb' 0 3)
  | .o n => .oper n
  | .q n => .stream n
  | .latch _ => .oper 0

/-- The tag that a destination holds at issue; a stream has none. -/
def Core.destTag (x : Core) : RowOp → Tag
  | .q _ => .EMPTY
  | o => x.rowTag o

/-- The bits that a destination supplies where a guard leaves it: zero for EMPTY and for a stream (R191). -/
def State.destOld (s : State) (o : RowOp) : RowBits :=
  if s.me.destTag o = .EMPTY then 0 else s.rowBits .FP32 o

/-- Write streams that a row of a destination goes to. -/
def pushesOf : RowOp → List (BitVec 3)
  | .q n => [n]
  | _ => []

/-- The fault of a push: past the last row, or to a row whose offset R216 rejects (R185, R227). -/
def State.pushFault (s : State) (o : RowOp) : Option Trap :=
  match o with
  | .q n => match s.me.stream? n with
    | some q =>
      let k := q.pos + (s.me.flow.issue.pushes.filter (· == n)).length
      if q.total ≤ k then some ⟨0x11, n.setWidth 64⟩
      else if q.rowOk k then none else some (offsetTrap (q.offset k))
    | none => none
  | _ => none

/-- The latch of the slot that is performed: LV0 and LV1 of V0 and V1, LC0 and LC1 of C0 and C1 (R145). -/
def slotLatch (k : Nat) : Option Latch :=
  match k with
  | 2 => some .LV0
  | 3 => some .LV1
  | 5 => some .LC0
  | 6 => some .LC1
  | _ => none

/-- The stream entries that a row result reserves. -/
def State.reserve (s : State) (o : RowOp) : State :=
  s.modMe fun x => x.modIssue fun i => { i with pushes := i.pushes ++ pushesOf o }

/-- A row result of latency L, with its latch. -/
def State.rowResult (s : State) (left : Nat) (o : RowOp) (v : RowBits) (t : Tag) : State :=
  (s.reserve o).pend left (.row (s.me.regs.dest o) v t (slotLatch s.me.flow.issue.slot))

/-- The tag of a loaded row: that of its destination at issue, N8 for EMPTY (R251). -/
def Core.loadTag (x : Core) (o : RowOp) : Tag := if x.destTag o = .EMPTY then .N8 else x.destTag o

/-! ## Traps -/

/-- The format-tag and illegal-operand traps of a condition that does not hold. -/
def tagTrap (ok : Bool) : Option Trap := if ok then none else some ⟨0x04, 0⟩
def operandTrap (ok : Bool) : Option Trap := if ok then none else some ⟨0x03, 0⟩

/-- What the reading of the sources and the push of the result fault with (R226, R227). -/
def State.rowFault (s : State) (D : RowOp) (l : List RowOp) : Option Trap :=
  firstSome (l.map s.sourceFault ++ [s.pushFault D])

/-- A performance that a fault prevents. -/
def State.unless (s : State) (t : Option Trap) (f : State → State) : State × Option Trap :=
  match t with
  | some t => (s, some t)
  | none => (f s, none)

/-! ## Groups of tile rows (R51, R201) -/

/-- Whether an operand names an aligned group of `k` tile rows at issue. -/
def Regs.groupOk (r : Regs) (o : RowOp) (k : Nat) : Bool :=
  match r.tileIdx o with
  | some n => n.toNat % 8 % k == 0
  | none => false

/-- The rows of a group. -/
def Regs.groupRows (r : Regs) (o : RowOp) (k : Nat) : List RowBits :=
  match r.tileIdx o with
  | some n => (List.range k).map fun i => r.t.get (n + BitVec.ofNat 7 i).toFin
  | none => []

/-- The results of a group land together; the latch keeps the row of the highest index (R145, R202). -/
def State.groupResult (s : State) (left : Nat) (o : RowOp) (rows : List RowBits) (t : Tag) : State :=
  match s.me.regs.tileIdx o with
  | none => s
  | some n =>
    rows.zipIdx.foldl (fun s p =>
      s.pend left (.row (.tile (n + BitVec.ofNat 7 p.2)) p.1 t (slotLatch s.me.flow.issue.slot))) s

/-! ## Addresses -/

/-- Wrap(64, a + Sext(disp)·unit). -/
def dispAddr {n : Nat} (a : Word) (disp : BitVec n) (unit : Int) : Word := a + BitVec.ofInt 64 (disp.toInt * unit)

/-- Bytes of a global width, of a scalar size, of an atomic width (R114). -/
def globBytes : GlobWidth → Nat
  | .w512 => 512
  | .w128 => 128
  | .w32 => 32
  | .w8 => 8

def sizeBytes : Size → Nat
  | .b1 => 1
  | .b2 => 2
  | .b4 => 4
  | .b8 => 8

def atomicBytes : AWidth → Nat
  | .w32 => 4
  | .w64 => 8
  | .w128 => 16

/-- A trap at an address. -/
def addrTrap (code : BitVec 8) (a : Word) : Trap := ⟨code, a⟩

/-- The misaligned fault of a local access (R216). -/
def localFault (size : Nat) (sh : RowShape) (off : Word) : Option Trap :=
  if shapeOk size sh off.toNat then none else some (addrTrap 0x0A off)

/-! ## Translation of ranges (R244, R266, R315) -/

/-- The stretches of an address range that lie in one 64 KiB page each. -/
def pagePieces (va : Word) (len : Nat) : List (Word × Nat) :=
  let a := va.toNat
  let first := a / 65536
  (List.range ((a + len - 1) / 65536 + 1 - first)).map fun i =>
    let lo := max a ((first + i) * 65536)
    let hi := min (a + len) ((first + i + 1) * 65536)
    (BitVec.ofNat 64 lo, hi - lo)

/-- Translation and check of several accesses, in order, up to the first that fails (R243). -/
def State.accessAll (s : State) (c : Nat) (n : Need) : List (Word × Nat) → State × Except Trap (List (Leaf × Nat × Nat))
  | [] => (s, .ok [])
  | (va, len) :: t =>
    match s.access c n va len with
    | (s, .error e) => (s, .error e)
    | (s, .ok (l, pa)) =>
      match s.accessAll c n t with
      | (s, .error e) => (s, .error e)
      | (s, .ok r) => (s, .ok ((l, pa, len) :: r))

/-- A maintenance slot holds page walks (R420): the core freezes where one is needed. -/
def State.walkWait (s : State) (vas : List Word) : Option Freeze :=
  if s.calendar.hold && vas.any (s.needsWalk s.cur) then some .walk else none

/-- An access to an SC page waits for an earlier one of the core (R132, R260, R366): the core freezes where one of the accesses is to
such a page. -/
def State.scWait (s : State) (n : Need) (l : List (Word × Nat)) : Option Freeze :=
  if s.me.scBusy && l.any (fun p => match (s.access s.cur n p.1 p.2).2 with | .ok r => r.1.sc | .error _ => false) then
    some .scOrder
  else none

/-- The number of the bundle being issued. -/
def State.bun (s : State) : Nat := s.me.flow.bun

/-- A performance that needs accesses checked first: each in turn, with the state that its walk leaves. -/
def State.withAccess (s : State) (n : Need) (va : Word) (len : Nat) (f : State → Leaf → Nat → State × Option Trap) :
    State × Option Trap :=
  match s.access s.cur n va len with
  | (s, .error t) => (s, some t)
  | (s, .ok (l, pa)) => f s l pa

end Sys2Proof.Machine
end

