-- ==== Sys2Proof/Machine/Address.lean ====
section
/-! DEFINITION. Machine/Address.lean: the address slot (spec 08, R178 to R188): address registers, hardware loops and
streams, and the fetch of stream rows. -/

namespace Sys2Proof.Machine

/-! ## Address registers (R178) -/

def State.addrResult (s : State) (a : BitVec 4) (v : Word) : State := s.pend 1 (.addr a v)

def semAnop : SlotSem := {}
def semAset (a : BitVec 4) (s : BitVec 5) : SlotSem := .result fun st => st.addrResult a (st.sReg s)
def semAget (a : BitVec 4) (s : BitVec 5) : SlotSem := .result fun st => st.pend 1 (.scalar s false (st.aReg a))
def semKset (a : BitVec 4) (l : BitVec 2) (s : BitVec 5) : SlotSem := .result fun st => st.pend 1 (.stride a l (st.sReg s))
def semAinc (a : BitVec 4) (l : BitVec 2) : SlotSem := .result fun s => s.addrResult a (s.aReg a + s.me.regs.kReg a l)

/-- One register named twice takes both strides. -/
def semAinc2 (a : BitVec 4) (l : BitVec 2) (a2 : BitVec 4) (l2 : BitVec 2) : SlotSem :=
  .result fun s =>
    let k := s.me.regs.kReg a l
    let k2 := s.me.regs.kReg a2 l2
    if a = a2 then s.addrResult a (s.aReg a + k + k2)
    else (s.addrResult a (s.aReg a + k)).addrResult a2 (s.aReg a2 + k2)

def semAaddi (a : BitVec 4) (imm : BitVec 22) : SlotSem := .result fun s => s.addrResult a (s.aReg a + imm.signExtend 64)

def semAmod (a : BitVec 4) (s : BitVec 5) : SlotSem :=
  .result fun st => st.addrResult a (if st.sReg s = 0 then st.aReg a else st.aReg a % st.sReg s)

/-! ## Hardware loops (R180, R181) -/

def loopSem (f : State → LoopOp) : SlotSem := .result fun s => s.modCarry fun c => { c with loop := some (f s) }

def semLoop (lvl : BitVec 2) (count len : BitVec 12) : SlotSem := loopSem fun _ => .set lvl (count.setWidth 64) len
def semLoops (lvl : BitVec 2) (s : BitVec 5) (len : BitVec 12) : SlotSem := loopSem fun st => .set lvl (st.sReg s) len
def semLbrk (lvl : BitVec 2) : SlotSem := loopSem fun _ => .brk lvl

/-! ## Streams (R184 to R188) -/

/-- The bytes of a stream descriptor as a number. -/
def State.descriptor (s : State) (a : Nat) : Nat := bytesNat ((List.range 80).map fun i => s.spadByte s.cur (a + i))

/-- Bytes `off` to `off + len − 1` of a descriptor. -/
def descField (d off len : Nat) : Nat := d >>> (8 * off) % 2 ^ (8 * len)

/-- The product of the first counts: where the row total passes 2^40, the count with which it does so fails. -/
def descTotal (d : Nat) (n : Nat) : Nat := ((List.range n).map fun i => descField d (8 + 8 * i) 4).prod

/-- The failing fields of a descriptor with their offsets, in table order (R186). A column access whose WC is not 000 fails at WC (log
entry 59). -/
def descChecks (d : Nat) : List (Nat × Bool) :=
  let mode := descField d 0x20 1
  let ori := mode / 2 % 2 == 1
  let space := mode / 4 % 2 == 1
  let wc := descField d 0x21 1
  let tag := descField d 0x22 1
  (List.range 3).map (fun i => (8 + 8 * i, descField d (8 + 8 * i) 4 == 0 || (decide (2 ^ 40 < descTotal d 3) && decide (2 ^ 40 < descTotal d (i + 1))))) ++
    [(0x20, decide (8 ≤ mode) || (ori && space)), (0x21, decide (4 < wc) || (ori && wc != 0)),
     (0x22, tag == 0 || decide (15 ≤ tag)), (0x23, decide (3 ≤ descField d 0x23 1)), (0x24, descField d 0x24 44 != 0)]

/-- The fault of SBIND, if any. -/
def State.bindFault (s : State) (a : Word) : Option Trap :=
  if a.toNat % 32 ≠ 0 ∨ spadSize < a.toNat + 80 then some (addrTrap 0x0A a)
  else ((descChecks (s.descriptor a.toNat)).find? (·.2)).map fun p => ⟨0x03, BitVec.ofNat 64 p.1⟩

/-- The stream that a descriptor describes. -/
def streamOf (d : Nat) : Stream :=
  let mode := descField d 0x20 1
  let width : RowWidth := match descField d 0x21 1 with | 0 => .w512 | 1 => .w256 | 2 => .w128 | 3 => .w64 | _ => .w32
  let size : ElemSize := match descField d 0x23 1 with | 0 => .e1 | 1 => .e2 | _ => .e4
  { write := mode % 2 == 1, space := mode / 4 % 2 == 1, shape := if mode / 2 % 2 = 1 then .col size else .row width
    tag := (decTag (descField d 0x22 1)).getD .EMPTY, base := BitVec.ofNat 64 (descField d 0 8)
    count0 := descField d 8 4, stride0 := signedVal 32 (descField d 0x0C 4)
    count1 := descField d 0x10 4, stride1 := signedVal 32 (descField d 0x14 4)
    count2 := descField d 0x18 4, stride2 := signedVal 32 (descField d 0x1C 4) }

def semSbind (q : BitVec 3) (a : BitVec 4) : SlotSem :=
  { wait := fun s =>
      let a := (s.aReg a).toNat
      if s.me.queuesLocal false false ((List.range 80).map (a + ·)) then some .fence else none
    act := fun s => s.unless (s.bindFault (s.aReg a)) fun s =>
      s.modCarry fun c => { c with binds := c.binds ++ [(q, some (streamOf (s.descriptor (s.aReg a).toNat)))] } }

def semSunbind (q : BitVec 3) : SlotSem := .result fun s => s.modCarry fun c => { c with binds := c.binds ++ [(q, none)] }

/-- Rows popped, or rows pushed: a row is pushed when it lands (R188, R190). -/
def Stream.passed (t : Stream) : Nat := if t.write then t.done else t.pos

/-- The word of SQUERY. -/
def Stream.query (t : Stream) : Word :=
  flag 63 true ||| flag 62 t.write ||| flag 61 (decide (t.total ≤ t.passed)) ||| BitVec.ofNat 64 (t.total - t.passed)

def semSquery (q : BitVec 3) (s : BitVec 5) : SlotSem :=
  .result fun st => st.pend 1 (.scalar s false (match st.me.stream? q with | some t => t.query | none => 0))

/-- Whether the lock of a core makes the fetch of row `k` of its stream wait (R235). -/
def Core.fetchHeld (x : Core) (t : Stream) (k : Nat) : Bool :=
  !t.space && t.rowOk k && x.lockHolds (shapeBanks t.shape (t.offset k))

/-- STREAM_ROW_FETCH: the next row of a read stream is in its buffer of four (R224). -/
def State.streamRowFetch (s : State) (c : Nat) (q : BitVec 3) : State :=
  match (s.core c).stream? q with
  | some t =>
    if !t.write && decide (t.done < t.pos + 4) && decide (max t.done t.pos < t.total) &&
        !(s.core c).fetchHeld t (max t.done t.pos) then
      s.modCore c fun x => x.modStream q fun t => { t with done := max t.done t.pos + 1 }
    else s
  | none => s

def execStreamRowFetch (core : Nat) (q : BitVec 3) (s : State) : Answer := asEvent (fun s => s.streamRowFetch core q) s

/-! ## Meanings -/

/-- ANOP in A. -/
def execAnop (s : State) : Answer := inSlot 7 semAnop s

/-- ASET in A. -/
def execAset (a : BitVec 4) (s : BitVec 5) (st : State) : Answer := inSlot 7 (semAset a s) st

/-- AGET in A. -/
def execAget (a : BitVec 4) (s : BitVec 5) (st : State) : Answer := inSlot 7 (semAget a s) st

/-- KSET in A. -/
def execKset (a : BitVec 4) (l : BitVec 2) (s : BitVec 5) (st : State) : Answer := inSlot 7 (semKset a l s) st

/-- AINC in A. -/
def execAinc (a : BitVec 4) (l : BitVec 2) (s : State) : Answer := inSlot 7 (semAinc a l) s

/-- AINC2 in A. -/
def execAinc2 (a : BitVec 4) (l : BitVec 2) (a2 : BitVec 4) (l2 : BitVec 2) (s : State) : Answer :=
  inSlot 7 (semAinc2 a l a2 l2) s

/-- AADDI in A. -/
def execAaddi (a : BitVec 4) (imm : BitVec 22) (s : State) : Answer := inSlot 7 (semAaddi a imm) s

/-- AMOD in A. -/
def execAmod (a : BitVec 4) (s : BitVec 5) (st : State) : Answer := inSlot 7 (semAmod a s) st

/-- LOOP in A. -/
def execLoop (lvl : BitVec 2) (count len : BitVec 12) (s : State) : Answer := inSlot 7 (semLoop lvl count len) s

/-- LOOPS in A. -/
def execLoops (lvl : BitVec 2) (s : BitVec 5) (len : BitVec 12) (st : State) : Answer :=
  inSlot 7 (semLoops lvl s len) st

/-- LBRK in A. -/
def execLbrk (lvl : BitVec 2) (s : State) : Answer := inSlot 7 (semLbrk lvl) s

/-- SBIND in A. -/
def execSbind (q : BitVec 3) (a : BitVec 4) (s : State) : Answer := inSlot 7 (semSbind q a) s

/-- SUNBIND in A. -/
def execSunbind (q : BitVec 3) (s : State) : Answer := inSlot 7 (semSunbind q) s

/-- SQUERY in A. -/
def execSquery (q : BitVec 3) (s : BitVec 5) (st : State) : Answer := inSlot 7 (semSquery q s) st

end Sys2Proof.Machine
end

