-- ==== Sys2Proof/Machine/Copy.lean ====
section
/-! DEFINITION. Machine/Copy.lean: the copy slots' accesses to local and global memory, bulk transfers, atomics, fences and
cache control (spec 10; spec 12), and the events that perform them. -/

namespace Sys2Proof.Machine

/-! ## Local rows and scalars (R251, R252, R256 to R258) -/

def semCnop : SlotSem := {}

/-- Offset of a local access in units of 32 bytes. -/
def State.rowOffset {n : Nat} (s : State) (a : BitVec 4) (disp : BitVec n) : Word := dispAddr (s.aReg a) disp 32

/-- The source of a store is not EMPTY (R252). -/
def State.storeTrap (s : State) (o : RowOp) : Option Trap :=
  firstSome [s.sourceTrap o, tagTrap (s.me.rowTag o != .EMPTY)]

/-- A row result whose data accesses number `id` supply, in `need` parts. -/
def State.rowPending (s : State) (left : Nat) (o : RowOp) (id need : Nat) (buf : Bool) : State :=
  (s.reserve o).pendData left (.row (s.me.regs.dest o) 0 (s.me.loadTag o) (slotLatch s.me.flow.issue.slot)) id 0 need buf

/-- Entries of the core's queues. -/
def State.enqueue (s : State) (l : List MemOp) : State := s.modMe fun x => x.modMem fun m => { m with memq := m.memq ++ l }

/-- A row of a storage of the core's own cluster is loaded: at issue, or by the queue where something holds it (R279, R361). -/
def State.takeLocal (s : State) (row : RowOp) (left : Nat) (shared : Bool) (sh : RowShape) (o : Nat) : State :=
  let offs := shapeOffsets sh o
  if s.me.queuesLocal shared false offs then
    let (id, s) := s.takeId
    (s.rowPending left row id 1 false).enqueue [{ id := id, bun := s.bun, kind := .localLoad shared offs none }]
  else
    s.rowResult left row (readShape (if shared then s.sramByte (clusterOf s.cur) else s.spadByte s.cur) sh o) (s.me.loadTag row)

/-- A row load from a storage of the core's own cluster. -/
def localLoad (row : RowOp) (left : Nat) (shared : Bool) (sh : RowShape) (off : State → Word) : SlotSem :=
  { check := fun s => s.destTrap row
    pushes := pushesOf row
    act := fun s =>
      let o := off s
      s.unless (firstSome [localFault (if shared then sramSize else spadSize) sh o, s.pushFault row]) fun s =>
        (s.touch shared (shapeBanks sh o.toNat)).takeLocal row left shared sh o.toNat }

/-- A store to local memory: it takes effect at the end of the issue cycle, or enters the queue where something holds it. -/
def State.localStore (s : State) (shared : Bool) (cells : List (Nat × Byte)) : State :=
  if s.me.queuesLocal shared true (cells.map (·.1)) then
    let (id, s) := s.takeId
    s.enqueue [{ id := id, bun := s.bun, kind := .localStore shared cells }]
  else s.modMe fun x => x.modIssue fun i => { i with stores := i.stores ++ [⟨shared, cells⟩] }

def localRowStore (row : RowOp) (shared : Bool) (sh : RowShape) (off : State → Word) : SlotSem :=
  { check := fun s => s.storeTrap row
    wait := fun s => s.sourceWait row
    act := fun s =>
      let o := off s
      s.unless (firstSome [localFault (if shared then sramSize else spadSize) sh o, s.sourceFault row]) fun s =>
        (s.touch shared (shapeBanks sh o.toNat)).localStore shared (shapeCells sh o.toNat (s.rowBits .FP32 row)) }

def semLdl (row : RowOp) (a : BitVec 4) (shape : RowShape) (disp : BitVec 9) : SlotSem :=
  localLoad row 4 false shape fun s => s.rowOffset a disp

def semStl (row : RowOp) (a : BitVec 4) (shape : RowShape) (disp : BitVec 9) : SlotSem :=
  localRowStore row false shape fun s => s.rowOffset a disp

def semLdsh (row : RowOp) (a : BitVec 4) (wc : RowWidth) (disp : BitVec 9) : SlotSem :=
  localLoad row 8 true (.row wc) fun s => s.rowOffset a disp

def semStsh (row : RowOp) (a : BitVec 4) (wc : RowWidth) (disp : BitVec 9) : SlotSem :=
  localRowStore row true (.row wc) fun s => s.rowOffset a disp

/-- A result of the slot that is performed comes from a remote read. -/
def State.markRemote (s : State) : State :=
  s.modMe fun x => x.modFlow fun f =>
    { f with pending := f.pending.map fun p => if p.young ∧ p.slot = f.issue.slot then { p with remote := true } else p }

/-- A row of another core's scratchpad is asked for there (R233). -/
def State.askRemote (s : State) (row : RowOp) (owner : Nat) (sh : RowShape) (o : Nat) : State :=
  let (id, s) := s.takeId
  (s.rowPending 12 row id 1 false).enqueue
    [{ id := id, bun := s.bun, kind := .remote (coreOfCluster (clusterOf s.cur) owner) sh, pa := o, len := shapeBytes sh }]

/-- LDR: a remote read, served at the owner (R233). Of the core's own scratchpad it is a local load like another, with the latency of LDR,
and sees the core's stores in their order (R222). -/
def semLdr (row : RowOp) (a : BitVec 4) (shape : RowShape) (owner : BitVec 3) (disp : BitVec 6) : SlotSem :=
  { check := fun s => s.destTrap row
    pushes := pushesOf row
    act := fun s =>
      let o := s.rowOffset a disp
      s.unless (firstSome [localFault spadSize shape o, s.pushFault row]) fun s =>
        (if owner.toNat = laneOf s.cur then s.takeLocal row 12 false shape o.toNat else s.askRemote row owner.toNat shape o.toNat).markRemote }

/-- The check of a scalar access to the scratchpad (R258). -/
def scalarFault (k : Nat) (o : Word) : Option Trap :=
  if o.toNat % k == 0 && decide (o.toNat + k ≤ spadSize) then none else some (addrTrap 0x0A o)

/-- Sext or Zext of a loaded number of `n` bytes. -/
def extendLoad (sx : Bool) (n v : Nat) : Word := if sx then BitVec.ofNat 64 (wrap 64 (signedVal (8 * n) v)) else BitVec.ofNat 64 v

def semLds (s base : BitVec 5) (sx : Bool) (size : Size) (disp : BitVec 12) : SlotSem :=
  { act := fun st =>
      let o := dispAddr (st.sReg base) disp 1
      let k := sizeBytes size
      st.unless (scalarFault k o) fun st =>
        let offs := (List.range k).map (o.toNat + ·)
        let st := st.touch false (spanBanks o.toNat k)
        if st.me.queuesLocal false false offs then
          let (id, st) := st.takeId
          (st.pendData 3 (.scalar s false 0) id 0 1 false).enqueue
            [{ id := id, bun := st.bun, kind := .localLoad false offs (some (size, sx)) }]
        else st.pend 3 (.scalar s false (extendLoad sx k (bytesNat (offs.map (st.spadByte st.cur))))) }

def semSts (s base : BitVec 5) (size : Size) (disp : BitVec 12) : SlotSem :=
  { act := fun st =>
      let o := dispAddr (st.sReg base) disp 1
      let k := sizeBytes size
      st.unless (scalarFault k o) fun st =>
        (st.touch false (spanBanks o.toNat k)).localStore false ((natBytes k (st.sReg s).toNat).zipIdx.map fun p => (o.toNat + p.2, p.1)) }

/-! ## Global loads and stores (R259 to R262) -/

/-- Line parts of an access of `len` bytes at `pa`: index of the first byte, address and length (R354). -/
def lineParts (pa len : Nat) : List (Nat × Nat × Nat) :=
  (List.range ((len + 127) / 128)).map fun i => (128 * i, pa + 128 * i, min 128 (len - 128 * i))

/-- Alignment and translation of a global access. -/
def State.globalAccess (s : State) (n : Need) (va : Word) (len : Nat) (f : State → Leaf → Nat → State × Option Trap) :
    State × Option Trap :=
  if va.toNat % len ≠ 0 then (s, some (addrTrap 0x0A va)) else s.withAccess n va len f

/-- What a global access waits for before its bundle issues: a walk in a maintenance slot, and the order of SC pages (R366, R420). -/
def State.globalWait (s : State) (n : Need) (va : Word) (len : Nat) : Option Freeze :=
  firstSome [s.walkWait [va], if va.toNat % len ≠ 0 then none else s.scWait n [(va, len)]]

/-- The queue entries of a load. -/
def loadOps (id bun pa len : Nat) (l : Leaf) (scalar : Option (Size × Bool)) (rh : Bool) : List MemOp :=
  (lineParts pa len).map fun p =>
    { id := id, bun := bun, kind := .load p.1 scalar (rh && l.rhp && !l.sc), pa := p.2.1, len := p.2.2, scPage := l.sc }

/-- The queue entries of a store of the low `len` bytes of a number. -/
def storeOps (id bun pa len data : Nat) (l : Leaf) : List MemOp :=
  (lineParts pa len).map fun p =>
    { id := id, bun := bun, kind := .store (data >>> (8 * p.1) % 2 ^ (8 * p.2.2)), pa := p.2.1, len := p.2.2, scPage := l.sc }

/-- The queue entries of a load of the acting core; one that reads a post is an acquire of scope module (R436). -/
def State.readOps (s : State) (id pa len : Nat) (l : Leaf) (scalar : Option (Size × Bool)) (rh : Bool) : List MemOp :=
  (loadOps id s.bun pa len l scalar rh).map fun m => if s.readsPost pa then { m with acq := true, scope := .module } else m

/-- A store leaves: its lines are invalidated in the cluster's read cache first (R247, R261). -/
def State.sendStore (s : State) (pa len data : Nat) (l : Leaf) : State :=
  let (id, s) := s.takeId
  let s := (linesOf pa len).foldl (fun s k => s.dropLine (clusterOf s.cur) k) s
  s.enqueue (storeOps id s.bun pa len data l)

def semLdg (row : RowOp) (a : BitVec 4) (land : BitVec 10) (wg : GlobWidth) (rh : Bool) : SlotSem :=
  { check := fun s => s.destTrap row
    wait := fun s => s.globalWait .read (s.aReg a) (globBytes wg)
    entries := fun _ => 1
    pushes := pushesOf row
    act := fun s =>
      let w := globBytes wg
      s.globalAccess .read (s.aReg a) w fun s l pa =>
        s.unless (s.pushFault row) fun s =>
          let (id, s) := s.takeId
          let ops := s.readOps id pa w l none rh
          (s.rowPending land.toNat row id ops.length true).enqueue ops }

def semStg (row : RowOp) (a : BitVec 4) (wg : GlobWidth) : SlotSem :=
  { check := fun s => s.storeTrap row
    wait := fun s => firstSome [s.sourceWait row, s.globalWait .write (s.aReg a) (globBytes wg)]
    act := fun s =>
      let w := globBytes wg
      s.globalAccess .write (s.aReg a) w fun s l pa =>
        s.unless (s.sourceFault row) fun s => s.sendStore pa w ((s.rowBits .FP32 row).toNat % 2 ^ (8 * w)) l }

def semLdsg (s base : BitVec 5) (sx : Bool) (size : Size) (land : BitVec 10) : SlotSem :=
  { wait := fun st => st.globalWait .read (st.sReg base) (sizeBytes size)
    entries := fun _ => 1
    act := fun st =>
      let k := sizeBytes size
      st.globalAccess .read (st.sReg base) k fun st l pa =>
        let (id, st) := st.takeId
        ((st.pendData land.toNat (.scalar s false 0) id 0 1 true).enqueue (st.readOps id pa k l (some (size, sx)) false), none) }

def semStsg (s base : BitVec 5) (size : Size) : SlotSem :=
  { wait := fun st => st.globalWait .write (st.sReg base) (sizeBytes size)
    act := fun st =>
      let k := sizeBytes size
      st.globalAccess .write (st.sReg base) k fun st l pa =>
        (st.sendStore pa k ((st.sReg s).toNat % 2 ^ (8 * k)) l, none) }

/-- PFG never traps and never waits: what cannot be prefetched is dropped. -/
def semPfg (a : BitVec 4) (wg : GlobWidth) (rh : Bool) : SlotSem :=
  { act := fun s =>
      let va := s.aReg a
      let w := globBytes wg
      if va.toNat % w ≠ 0 ∨ (s.calendar.hold ∧ s.needsWalk s.cur va) then (s, none)
      else match s.access s.cur .read va w with
        | (s, .error _) => (s, none)
        | (s, .ok (l, pa)) =>
          if l.sc || modOf pa != s.domMod.toNat || s.place pa != .hbm then (s, none)
          else
            ((linesOf pa w).foldl (fun s k =>
              if s.badLines.contains k then s
              else if rh && l.rhp then s.takeReplica s.cur k
              else s.takeFill (clusterOf s.cur) k) s, none) }

/-! ## Bulk transfers (R263 to R270) -/

/-- The shape of a transfer (R264). -/
structure BulkDesc where
  gstride : Int
  lstride : Int
  rows : Nat
  deriving DecidableEq, Repr

def bulkDesc (d : Word) : BulkDesc :=
  ⟨(d.extractLsb' 40 24).toInt, (d.extractLsb' 16 24).toInt, (d.extractLsb' 0 16).toNat + 1⟩

/-- The checks of rows `i` on, `n` of them (R266): the pages they touch, or the first failure. -/
def State.bulkCheck (s : State) (need : Need) (b : Bulk) (size : Nat) :
    Nat → Nat → State × Except Trap (List (Nat × Nat) × Bool)
  | _, 0 => (s, .ok ([], false))
  | i, n + 1 =>
    let va := BitVec.ofNat 64 (b.global i)
    if va.toNat % b.width ≠ 0 then (s, .error (addrTrap 0x0A va))
    else match s.access s.cur need va b.width with
      | (s, .error t) => (s, .error t)
      | (s, .ok (lf, pa)) =>
        match localFault size b.shape (BitVec.ofNat 64 (b.loc i)) with
        | some t => (s, .error t)
        | none =>
          match s.bulkCheck need b size (i + 1) n with
          | (s, .error t) => (s, .error t)
          | (s, .ok l) => (s, .ok (mapSet (va.toNat / 65536) (pa - va.toNat % 65536) l.1, l.2 || lf.sc))

/-- A tick beyond the end of the maintenance slots that begin from `now` on and not after `p` (R422, R468). -/
def pastSlots (now p : Nat) : Nat :=
  let step (p : Nat) : Nat :=
    [p / 2560 - 1, p / 2560].foldl (fun q k =>
      if k ≠ 0 ∧ now ≤ slotStart k ∧ slotStart k ≤ p ∧ q ≤ slotStart k + slotLen k then slotStart k + slotLen k + 1 else q) p
  step (step p)

/-- A promise within the bounds of R468. -/
def State.promise (s : State) (b : Bulk) : Nat :=
  let after := (s.me.mem.bulk.filter fun e => s.bulksMeet s.cur e b).foldl (fun m e => max m e.promise) (s.now + 1)
  pastSlots s.now (after + Config.promiseSlack s.fresh)

/-- A transfer starts under its tag (R268); what it writes leaves the cluster's read cache (R247). -/
def State.startBulk (s : State) (b : Bulk) : State :=
  let p := s.promise b
  let s := if b.puts then s.dropRuns s.cur (b.globalRuns b.rows) else s
  let s := { s with fresh := s.fresh + 1 }
  s.modMe fun x => x.modMem fun m =>
    let t := m.tags.get b.tag.toFin
    let t : BulkTag := { t with isOpen := true, promise := if t.isOpen then max t.promise p else p }
    { m with bulk := m.bulk ++ [{ b with promise := p }], tags := m.tags.set b.tag.toNat t b.tag.isLt }

/-- The transfer that an instruction describes. -/
def State.bulkOf (s : State) (kind : BulkKind) (ag al : BitVec 4) (sdesc : BitVec 5) (tag : BitVec 4) (sh : RowShape) : Bulk :=
  let d := bulkDesc (s.sReg sdesc)
  { id := s.me.flow.nextId, bun := s.bun, tag := tag, kind := kind, shape := sh, g := s.aReg ag, l := s.aReg al
    gstride := d.gstride, lstride := d.lstride, rows := d.rows, pages := [], promise := 0 }

def bulkSem (kind : BulkKind) (read : Bool) (size : Nat) (ag al : BitVec 4) (sdesc : BitVec 5) (tag : BitVec 4) (sh : RowShape) :
    SlotSem :=
  { wait := fun s =>
      let b := s.bulkOf kind ag al sdesc tag sh
      let vas (_ : Unit) : List Word := (List.range b.rows).map fun i => BitVec.ofNat 64 (b.global i)
      firstSome
        [if s.calendar.hold then s.walkWait (vas ()) else none,
         if s.me.scBusy then s.scWait (if read then .bulkRead else .bulkWrite) ((vas ()).map fun v => (v, b.width)) else none]
    tokens := fun s => let b := s.bulkOf kind ag al sdesc tag sh; 1 + (b.rows * b.width + 4095) / 4096
    act := fun s =>
      let b := s.bulkOf kind ag al sdesc tag sh
      match s.bulkCheck (if read then .bulkRead else .bulkWrite) b size 0 b.rows with
      | (s, .error t) => (s, some t)
      | (s, .ok l) => ((s.takeId.2).startBulk { b with pages := l.1, sc := l.2 }, none) }

def semBget (ag al : BitVec 4) (sdesc : BitVec 5) (tag : BitVec 4) (shape : RowShape) : SlotSem :=
  bulkSem .get true spadSize ag al sdesc tag shape
def semBput (ag al : BitVec 4) (sdesc : BitVec 5) (tag : BitVec 4) (shape : RowShape) : SlotSem :=
  bulkSem .put false spadSize ag al sdesc tag shape
def semBgetsh (ag al : BitVec 4) (sdesc : BitVec 5) (tag : BitVec 4) (wc : RowWidth) : SlotSem :=
  bulkSem .getsh true sramSize ag al sdesc tag (.row wc)
def semBputsh (ag al : BitVec 4) (sdesc : BitVec 5) (tag : BitVec 4) (wc : RowWidth) : SlotSem :=
  bulkSem .putsh false sramSize ag al sdesc tag (.row wc)

/-- Whether every transfer under a tag is complete. -/
def Local.tagDone (m : Local) (tag : BitVec 4) : Bool := m.bulk.all fun b => b.tag != tag

def Local.setTag (m : Local) (tag : BitVec 4) (t : BulkTag) : Local := { m with tags := m.tags.set tag.toNat t tag.isLt }

/-- Whether every transfer under a tag that earlier bundles started is complete. -/
def Local.tagDoneBefore (m : Local) (tag : BitVec 4) (bun : Nat) : Bool := m.bulk.all fun b => b.tag != tag || b.bun == bun

/-- The promise of what the bundle itself has started under a tag. -/
def Local.startedNow (m : Local) (tag : BitVec 4) (bun : Nat) : Option Nat :=
  ((m.bulk.filter fun b => b.tag == tag && b.bun == bun).map (·.promise)).max?

/-- A tag that BWAIT closes; a transfer of the same bundle opens it anew (R99, R268). -/
def Local.closeTag (m : Local) (tag : BitVec 4) (bun : Nat) : Local :=
  m.setTag tag (match m.startedNow tag bun with | some p => { isOpen := true, promise := p } | none => {})

/-- BWAIT (R268), by the tag as its bundle found it (R99): the missed promise is a trap, after which it waits for completion. -/
def semBwait (tag : BitVec 4) : SlotSem :=
  { wait := fun s =>
      let m := s.me.mem
      let t := m.tags.get tag.toFin
      if !t.isOpen then none
      else if t.missed then (if m.tagDone tag then none else some (.promise tag))
      else if s.now < t.promise then some (.promise tag) else none
    act := fun s =>
      let t := s.me.flow.issue.tags.get tag.toFin
      let bun := s.me.flow.bun
      if !t.isOpen then (s, none)
      else if s.me.mem.tagDoneBefore tag bun then (s.modMe fun x => x.modMem fun m => m.closeTag tag bun, none)
      else
        (s.modMe fun x => x.modMem fun m => m.setTag tag { m.tags.get tag.toFin with missed := true }, some ⟨0x10, tag.setWidth 64⟩) }

def semBprom (s : BitVec 5) (tag : BitVec 4) : SlotSem :=
  .result fun st =>
    let t := st.me.flow.issue.tags.get tag.toFin
    st.pend 1 (.scalar s false (BitVec.ofNat 64 (if t.isOpen then t.promise else 0)))

/-! ## Atomics (R271 to R277) -/

def Ord.isAcq : Ord → Bool
  | .acq | .ar => true
  | _ => false

def Ord.isRel : Ord → Bool
  | .rel | .ar => true
  | _ => false

/-- The low bits of a scalar operand, a register pair for 128 bits. -/
def State.atomicOperand (s : State) (w : AWidth) (r : BitVec 5) : Nat :=
  match w with
  | .w32 => (s.sReg r).toNat % 2 ^ 32
  | .w64 => (s.sReg r).toNat
  | .w128 => (s.sReg r).toNat + (s.sReg (r + 1)).toNat * 2 ^ 64

/-- A part of the reply of an atomic, due at issue + 32 (R273, R357). -/
def State.pendReply (s : State) (r : Result) (id part : Nat) : State :=
  s.modMe fun x => x.modFlow fun f =>
    { f with pending := f.pending ++
        [{ left := 32, res := r, id := id, part := part, need := 1, ready := false, slot := f.issue.slot, bun := f.bun, reply := true }] }

/-- The returned value at issue + 32: the register or the pair, and the sequence number (R273, R275). -/
def State.atomicResults (s : State) (w : AWidth) (sd : BitVec 5) (tr : Bool) (id : Nat) : State :=
  let s := if sd = 0 then s else s.pendReply (.scalar sd false 0) id 0
  let s := if w = .w128 ∧ sd ≠ 0 then s.pendReply (.scalar (sd + 1) false 0) id 1 else s
  if tr then s.pendReply (.scalar (sd + 1) false 0) id 2 else s

/-- An atomic enters the store queue; its line leaves the cluster's read cache (R247, R273). -/
def State.sendAtomic (s : State) (id : Nat) (op : AtomicOp) (pa len v c : Nat) (sc : Scope) (ord : Ord) (l : Leaf) : State :=
  (s.dropLine (clusterOf s.cur) (pa / 128)).enqueue
    [{ id := id, bun := s.bun, kind := .atomic op v c, pa := pa, len := len, acq := Ord.isAcq ord, rel := Ord.isRel ord
       scope := sc, scPage := l.sc }]

def atomicSem (op : AtomicOp) (w : AWidth) (sd sa sb : BitVec 5) (sc : Scope) (ord : Ord) (tr : Bool) : SlotSem :=
  { wait := fun s => s.globalWait (if op = .ld then .atomicRead else .atomic) (s.sReg sa) (atomicBytes w)
    act := fun s =>
      let n := atomicBytes w
      s.globalAccess (if op = .ld then .atomicRead else .atomic) (s.sReg sa) n fun s l pa =>
        let (id, s) := s.takeId
        let v := s.atomicOperand w sb
        let c := s.atomicOperand w sd
        ((s.atomicResults w sd tr id).sendAtomic id op pa n v c sc ord l, none) }

def semAadd (w : AWidth) (sd sa sb : BitVec 5) (sc : Scope) (ord : Ord) (tr : Bool) : SlotSem := atomicSem .add w sd sa sb sc ord tr
def semAmax (w : AWidth) (sd sa sb : BitVec 5) (sc : Scope) (ord : Ord) (tr : Bool) : SlotSem := atomicSem .max w sd sa sb sc ord tr
def semAmin (w : AWidth) (sd sa sb : BitVec 5) (sc : Scope) (ord : Ord) (tr : Bool) : SlotSem := atomicSem .min w sd sa sb sc ord tr
def semAmaxn (w : AWidth) (sd sa sb : BitVec 5) (sc : Scope) (ord : Ord) (tr : Bool) : SlotSem := atomicSem .maxn w sd sa sb sc ord tr
def semAminn (w : AWidth) (sd sa sb : BitVec 5) (sc : Scope) (ord : Ord) (tr : Bool) : SlotSem := atomicSem .minn w sd sa sb sc ord tr
def semAand (w : AWidth) (sd sa sb : BitVec 5) (sc : Scope) (ord : Ord) (tr : Bool) : SlotSem := atomicSem .and w sd sa sb sc ord tr
def semAor (w : AWidth) (sd sa sb : BitVec 5) (sc : Scope) (ord : Ord) (tr : Bool) : SlotSem := atomicSem .or w sd sa sb sc ord tr
def semAxor (w : AWidth) (sd sa sb : BitVec 5) (sc : Scope) (ord : Ord) (tr : Bool) : SlotSem := atomicSem .xor w sd sa sb sc ord tr
def semAxchg (w : AWidth) (sd sa sb : BitVec 5) (sc : Scope) (ord : Ord) (tr : Bool) : SlotSem := atomicSem .xchg w sd sa sb sc ord tr
def semAcas (w : AWidth) (sd sa sb : BitVec 5) (sc : Scope) (ord : Ord) (tr : Bool) : SlotSem := atomicSem .cas w sd sa sb sc ord tr
def semAfadd (sd sa sb : BitVec 5) (sc : Scope) (ord : Ord) (tr : Bool) : SlotSem := atomicSem .fadd .w32 sd sa sb sc ord tr
def semAfmax (sd sa sb : BitVec 5) (sc : Scope) (ord : Ord) (tr : Bool) : SlotSem := atomicSem .fmax .w32 sd sa sb sc ord tr
def semAamax (sd sa sb : BitVec 5) (sc : Scope) (ord : Ord) (tr : Bool) : SlotSem := atomicSem .amax .w32 sd sa sb sc ord tr
def semAld (w : AWidth) (sd sa : BitVec 5) (sc : Scope) (ord : Ord) (tr : Bool) : SlotSem := atomicSem .ld w sd sa 0 sc ord tr
def semAst (w : AWidth) (sa sb : BitVec 5) (sc : Scope) (ord : Ord) (tr : Bool) : SlotSem := atomicSem .st w 0 sa sb sc ord tr

/-! ## Fences and cache control (R278 to R283) -/

/-- A fence with an empty mask has no effect. -/
def semFence (pred succ : BitVec 8) (sc : Scope) : SlotSem :=
  .result fun s => if pred = 0 ∨ succ = 0 then s else s.modCarry fun c => { c with fences := c.fences ++ [(pred, succ, sc)] }

/-- MARK is FENCE.CORE LD|ST|AT, LD|ST|AT. -/
def semMark : SlotSem := semFence 0x07 0x07 .core

/-- Whether the core has a load of the line that has not been looked up. -/
def Local.loadsLine (m : Local) (line : Nat) : Bool :=
  m.memq.any fun e => (match e.kind with | .load _ _ _ => true | _ => false) && e.pa / 128 == line

/-- INVL: it waits for the core's loads of the line that are in the queues, those of earlier bundles; a load in C0 of its own bundle may find the
line gone (log entry 83). -/
def semInvl (sa : BitVec 5) (sc : Scope) : SlotSem :=
  { wait := fun s =>
      match s.walkWait [s.sReg sa] with
      | some f => some f
      | none =>
        match (s.access s.cur .read (s.sReg sa) 8).2 with
        | .ok (_, pa) => if s.me.mem.loadsLine (pa / 128) then some .scOrder else none
        | .error _ => none
    act := fun s => s.withAccess .read (s.sReg sa) 8 fun s _ pa =>
      let line := pa / 128
      let s := s.dropLine (clusterOf s.cur) line
      (if wideScope sc then
        { s with replicas := s.replicas.filter fun r => !(r.line == line && some r.node == s.nodeOf s.cur) }
       else s, none) }

/-- FLUSHMS changes no value; it is privileged, and translates the address that it names. -/
def semFlushms (sa : BitVec 5) (_ : Scope) : SlotSem :=
  { check := fun s => if s.me.ctl.priv then none else some ⟨0x05, 0⟩
    wait := fun s => if sa = 0 then none else s.walkWait [s.sReg sa]
    act := fun s =>
      if sa = 0 then (s, none)
      else match s.translate s.cur (s.sReg sa) with
        | (s, .error t) => (s, some t)
        | (s, .ok _) => (s, none) }

/-! ## Events of the memories -/

def execRemoteReadService (core i : Nat) (s : State) : Answer := asEvent (fun s => s.remoteRead core i) s
def execBulkTransferComplete (core i : Nat) (s : State) : Answer := asEvent (fun s => s.bulkComplete core i) s
def execHomeLoad (core i : Nat) (s : State) : Answer := asEvent (fun s => s.homeLoad core i) s
def execHomeStore (core i : Nat) (s : State) : Answer := asEvent (fun s => s.homeStore core i) s
def execHomeAtomic (core i : Nat) (s : State) : Answer := asEvent (fun s => s.homeAtomic core i) s
def execCacheFill (cluster i : Nat) (s : State) : Answer := asEvent (fun s => s.cacheFill cluster i) s
def execLandingDataArrival (core i : Nat) (s : State) : Answer := asEvent (fun s => s.dataArrival core i) s
def execResultLanding (core : Nat) (s : State) : Answer := asEvent (fun s => s.landDue core) s

/-- PAGE_WALK: a walk for a core's address, with its effects: the leaf is installed, or a malformed entry logged (R242,
R244). A maintenance slot holds walks (R420). -/
def State.pageWalk (s : State) (c : Nat) (va : Word) : State :=
  if s.calendar.hold then s else (s.translate c va).1

def execPageWalk (core : Nat) (va : BitVec 64) (s : State) : Answer := asEvent (fun s => s.pageWalk core va) s

/-! ## Meanings -/

/-- CNOP in C0 or C1. -/
def execCnop (s : State) : Answer := inSlot 5 semCnop s

/-- LDL in C0 or C1. -/
def execLdl (row : RowOp) (a : BitVec 4) (shape : RowShape) (disp : BitVec 9) (s : State) : Answer :=
  inSlot 5 (semLdl row a shape disp) s

/-- STL in C0 or C1. -/
def execStl (row : RowOp) (a : BitVec 4) (shape : RowShape) (disp : BitVec 9) (s : State) : Answer :=
  inSlot 5 (semStl row a shape disp) s

/-- LDSH in C0 or C1. -/
def execLdsh (row : RowOp) (a : BitVec 4) (wc : RowWidth) (disp : BitVec 9) (s : State) : Answer :=
  inSlot 5 (semLdsh row a wc disp) s

/-- STSH in C0 or C1. -/
def execStsh (row : RowOp) (a : BitVec 4) (wc : RowWidth) (disp : BitVec 9) (s : State) : Answer :=
  inSlot 5 (semStsh row a wc disp) s

/-- LDR in C0 or C1. -/
def execLdr (row : RowOp) (a : BitVec 4) (shape : RowShape) (owner : BitVec 3) (disp : BitVec 6) (s : State) : Answer :=
  inSlot 5 (semLdr row a shape owner disp) s

/-- LDS in C0 or C1. -/
def execLds (s base : BitVec 5) (sx : Bool) (size : Size) (disp : BitVec 12) (st : State) : Answer :=
  inSlot 5 (semLds s base sx size disp) st

/-- STS in C0 or C1. -/
def execSts (s base : BitVec 5) (size : Size) (disp : BitVec 12) (st : State) : Answer :=
  inSlot 5 (semSts s base size disp) st

/-- LDG in C0 or C1. -/
def execLdg (row : RowOp) (a : BitVec 4) (land : BitVec 10) (wg : GlobWidth) (rh : Bool) (s : State) : Answer :=
  inSlot 5 (semLdg row a land wg rh) s

/-- STG in C0 or C1. -/
def execStg (row : RowOp) (a : BitVec 4) (wg : GlobWidth) (s : State) : Answer := inSlot 5 (semStg row a wg) s

/-- LDSG in C0 or C1. -/
def execLdsg (s base : BitVec 5) (sx : Bool) (size : Size) (land : BitVec 10) (st : State) : Answer :=
  inSlot 5 (semLdsg s base sx size land) st

/-- STSG in C0 or C1. -/
def execStsg (s base : BitVec 5) (size : Size) (st : State) : Answer := inSlot 5 (semStsg s base size) st

/-- PFG in C0 or C1. -/
def execPfg (a : BitVec 4) (wg : GlobWidth) (rh : Bool) (s : State) : Answer := inSlot 5 (semPfg a wg rh) s

/-- BGET in C0 or C1. -/
def execBget (ag al : BitVec 4) (sdesc : BitVec 5) (tag : BitVec 4) (shape : RowShape) (s : State) : Answer :=
  inSlot 5 (semBget ag al sdesc tag shape) s

/-- BPUT in C0 or C1. -/
def execBput (ag al : BitVec 4) (sdesc : BitVec 5) (tag : BitVec 4) (shape : RowShape) (s : State) : Answer :=
  inSlot 5 (semBput ag al sdesc tag shape) s

/-- BGETSH in C0 or C1. -/
def execBgetsh (ag al : BitVec 4) (sdesc : BitVec 5) (tag : BitVec 4) (wc : RowWidth) (s : State) : Answer :=
  inSlot 5 (semBgetsh ag al sdesc tag wc) s

/-- BPUTSH in C0 or C1. -/
def execBputsh (ag al : BitVec 4) (sdesc : BitVec 5) (tag : BitVec 4) (wc : RowWidth) (s : State) : Answer :=
  inSlot 5 (semBputsh ag al sdesc tag wc) s

/-- BWAIT in C0 or C1. -/
def execBwait (tag : BitVec 4) (s : State) : Answer := inSlot 5 (semBwait tag) s

/-- BPROM in C0 or C1. -/
def execBprom (s : BitVec 5) (tag : BitVec 4) (st : State) : Answer := inSlot 5 (semBprom s tag) st

/-- AADD in C0 or C1. -/
def execAadd (w : AWidth) (sd sa sb : BitVec 5) (sc : Scope) (ord : Ord) (tr : Bool) (s : State) : Answer :=
  inSlot 5 (semAadd w sd sa sb sc ord tr) s

/-- AMAX in C0 or C1. -/
def execAmax (w : AWidth) (sd sa sb : BitVec 5) (sc : Scope) (ord : Ord) (tr : Bool) (s : State) : Answer :=
  inSlot 5 (semAmax w sd sa sb sc ord tr) s

/-- AMIN in C0 or C1. -/
def execAmin (w : AWidth) (sd sa sb : BitVec 5) (sc : Scope) (ord : Ord) (tr : Bool) (s : State) : Answer :=
  inSlot 5 (semAmin w sd sa sb sc ord tr) s

/-- AMAXN in C0 or C1. -/
def execAmaxn (w : AWidth) (sd sa sb : BitVec 5) (sc : Scope) (ord : Ord) (tr : Bool) (s : State) : Answer :=
  inSlot 5 (semAmaxn w sd sa sb sc ord tr) s

/-- AMINN in C0 or C1. -/
def execAminn (w : AWidth) (sd sa sb : BitVec 5) (sc : Scope) (ord : Ord) (tr : Bool) (s : State) : Answer :=
  inSlot 5 (semAminn w sd sa sb sc ord tr) s

/-- AAND in C0 or C1. -/
def execAand (w : AWidth) (sd sa sb : BitVec 5) (sc : Scope) (ord : Ord) (tr : Bool) (s : State) : Answer :=
  inSlot 5 (semAand w sd sa sb sc ord tr) s

/-- AOR in C0 or C1. -/
def execAor (w : AWidth) (sd sa sb : BitVec 5) (sc : Scope) (ord : Ord) (tr : Bool) (s : State) : Answer :=
  inSlot 5 (semAor w sd sa sb sc ord tr) s

/-- AXOR in C0 or C1. -/
def execAxor (w : AWidth) (sd sa sb : BitVec 5) (sc : Scope) (ord : Ord) (tr : Bool) (s : State) : Answer :=
  inSlot 5 (semAxor w sd sa sb sc ord tr) s

/-- AXCHG in C0 or C1. -/
def execAxchg (w : AWidth) (sd sa sb : BitVec 5) (sc : Scope) (ord : Ord) (tr : Bool) (s : State) : Answer :=
  inSlot 5 (semAxchg w sd sa sb sc ord tr) s

/-- ACAS in C0 or C1. -/
def execAcas (w : AWidth) (sd sa sb : BitVec 5) (sc : Scope) (ord : Ord) (tr : Bool) (s : State) : Answer :=
  inSlot 5 (semAcas w sd sa sb sc ord tr) s

/-- AFADD in C0 or C1. -/
def execAfadd (sd sa sb : BitVec 5) (sc : Scope) (ord : Ord) (tr : Bool) (s : State) : Answer :=
  inSlot 5 (semAfadd sd sa sb sc ord tr) s

/-- AFMAX in C0 or C1. -/
def execAfmax (sd sa sb : BitVec 5) (sc : Scope) (ord : Ord) (tr : Bool) (s : State) : Answer :=
  inSlot 5 (semAfmax sd sa sb sc ord tr) s

/-- AAMAX in C0 or C1. -/
def execAamax (sd sa sb : BitVec 5) (sc : Scope) (ord : Ord) (tr : Bool) (s : State) : Answer :=
  inSlot 5 (semAamax sd sa sb sc ord tr) s

/-- ALD in C0 or C1. -/
def execAld (w : AWidth) (sd sa : BitVec 5) (sc : Scope) (ord : Ord) (tr : Bool) (s : State) : Answer :=
  inSlot 5 (semAld w sd sa sc ord tr) s

/-- AST in C0 or C1. -/
def execAst (w : AWidth) (sa sb : BitVec 5) (sc : Scope) (ord : Ord) (tr : Bool) (s : State) : Answer :=
  inSlot 5 (semAst w sa sb sc ord tr) s

/-- FENCE in C0 or C1. -/
def execFence (pred succ : BitVec 8) (sc : Scope) (s : State) : Answer := inSlot 5 (semFence pred succ sc) s

/-- MARK in C0 or C1. -/
def execMark (s : State) : Answer := inSlot 5 semMark s

/-- INVL in C0 or C1. -/
def execInvl (sa : BitVec 5) (sc : Scope) (s : State) : Answer := inSlot 5 (semInvl sa sc) s

/-- FLUSHMS in C0 or C1. -/
def execFlushms (sa : BitVec 5) (sc : Scope) (s : State) : Answer := inSlot 5 (semFlushms sa sc) s

end Sys2Proof.Machine
end

