-- ==== Sys2Proof/Machine/ContentNamed.lean ====
section
/-! DEFINITION. Machine/ContentNamed.lean: the content-named instructions (spec 15, R343 to R351) and the events of the
directory. -/

namespace Sys2Proof.Machine

/-- A name or a 128-bit operand in a register pair (R332). -/
def State.namePair (s : State) (r : BitVec 5) : Name := s.sReg (r + 1) ++ s.sReg r

/-- A name lands in a register pair; the first part may hold a landing-buffer entry (R140, R345). -/
def State.nameResult (s : State) (left : Nat) (r : BitVec 5) (n : Name) (buf : Bool) : State :=
  (s.modMe fun x => x.modFlow fun f =>
    { f with pending := f.pending ++
        [{ left := left, res := .scalar r false (n.extractLsb' 0 64), buf := buf, slot := f.issue.slot, bun := f.bun }] }).pend left
    (.scalar (r + 1) false (n.extractLsb' 64 64))

/-- The quarter of a row. -/
def quarterOf (r : RowBits) (qtr : BitVec 2) : Line := r.extractLsb' (1024 * qtr.toNat) 1024

/-- The row with another quarter. -/
def setQuarter (r : RowBits) (qtr : BitVec 2) (l : Line) : RowBits :=
  let m : RowBits := (BitVec.allOnes 1024).setWidth 4096 <<< (1024 * qtr.toNat)
  (r &&& ~~~m) ||| (l.setWidth 4096 <<< (1024 * qtr.toNat))

/-- The verdict of the slot that is performed (R344); an operation that needs none has an empty one. -/
def State.verdict (s : State) (req : CnReq) : CnVerdict :=
  (s.me.mem.cn.find? fun v => v.slot == s.me.flow.issue.slot).getD { slot := 0, req := req, done := true }

/-- The class and the data of an operation with a row source, at issue. -/
def State.cnSource (s : State) (sn : BitVec 5) (row : RowOp) (qtr : BitVec 2) : BitVec 8 × Line :=
  ((s.sReg sn).extractLsb' 8 8, quarterOf (s.rowBits .FP32 row) qtr)

/-- Reserved classes and malformed children (R344, R345). -/
def lineOk (cls : BitVec 8) (data : Line) : Bool :=
  cls == 0 || (cls == 1 && (children data).all Name.wellFormed)

def malformed (ok : Bool) : Option Trap := operandTrap ok

/-- What an operation with a row source checks, in order: its class, the read of its row (R226), and the children of an interior line
(R344 to R346). -/
def State.cnSourceFault (s : State) (sn : BitVec 5) (row : RowOp) (qtr : BitVec 2) (kids : Bool) : Option Trap :=
  let (cls, data) := s.cnSource sn row qtr
  firstSome [malformed (decide (cls ≤ 1)), s.sourceFault row, malformed (!kids || lineOk cls data)]

def semCnput (sn : BitVec 5) (row : RowOp) (qtr : BitVec 2) (land : BitVec 10) : SlotSem :=
  { check := fun s => s.storeTrap row
    wait := fun s => s.sourceWait row
    request := fun s =>
      let (cls, data) := s.cnSource sn row qtr
      (s, if (s.cnSourceFault sn row qtr true).isSome || data == 0 then none else some { slot := 0, req := .put cls data })
    entries := fun _ => 1
    act := fun s =>
      match s.cnSourceFault sn row qtr true with
      | some t => (s, some t)
      | none =>
        let v := s.verdict (.put 0 0)
        s.unless v.fault fun s => s.nameResult land.toNat sn v.name true }

/-- A name operand must be well formed; the name 0 sends no request. -/
def State.nameRequest (s : State) (sn : BitVec 5) (f : Name → CnReq) : State × Option CnVerdict :=
  let n := s.namePair sn
  (s, if Name.wellFormed n && n != 0 then some { slot := 0, req := f n } else none)

def State.nameFault (s : State) (sn : BitVec 5) : Option Trap :=
  firstSome [malformed (Name.wellFormed (s.namePair sn)), (s.verdict (.ref 0)).fault]

def semCnget (sn : BitVec 5) (row : RowOp) (qtr : BitVec 2) (land : BitVec 10) : SlotSem :=
  { check := fun s => firstSome [operandTrap row.isReg, s.destTrap row]
    request := fun s => s.nameRequest sn .get
    entries := fun _ => 1
    act := fun s => s.unless (s.nameFault sn) fun s =>
      let v := setQuarter (s.rowBits .FP32 row) qtr (s.verdict (.get 0)).data
      s.modMe fun x => x.modFlow fun f =>
        { f with pending := f.pending ++
            [{ left := land.toNat, res := .row (x.regs.dest row) v (x.loadTag row) (slotLatch f.issue.slot), buf := true
               slot := f.issue.slot, bun := f.bun }] } }

def semCnref (sn : BitVec 5) : SlotSem :=
  { request := fun s => s.nameRequest sn .ref, act := fun s => (s, s.nameFault sn) }

def semCndrop (sn : BitVec 5) : SlotSem :=
  { request := fun s => s.nameRequest sn .drop, act := fun s => (s, s.nameFault sn) }

/-- The address and the names of CNSWAP, checked at issue (R349): the root's physical address, and whether its page is an SC page. -/
def State.swapAccess (s : State) (sd sa sb : BitVec 5) : State × Except Trap (Nat × Bool) :=
  let va := s.sReg sa
  if va.toNat % 32 ≠ 0 then (s, .error (addrTrap 0x0A va))
  else match s.access s.cur .root va 16 with
    | (s, .error t) => (s, .error t)
    | (s, .ok (l, pa)) =>
      if Name.wellFormed (s.namePair sd) && Name.wellFormed (s.namePair sb) then (s, .ok (pa, l.sc)) else (s, .error ⟨0x03, 0⟩)

/-- The line of a root entry that CNSWAP names. -/
def CnReq.rootLine : CnReq → Nat
  | .swap pa _ _ _ => pa / 128
  | _ => 0

/-- CNSWAP: what it checks at issue goes with its request, and is not checked again (R344). -/
def semCnswap (sd sa sb : BitVec 5) (sc : Scope) : SlotSem :=
  { wait := fun s => firstSome
      [s.walkWait [s.sReg sa], if (s.sReg sa).toNat % 32 ≠ 0 then none else s.scWait .root [(s.sReg sa, 16)]]
    request := fun s =>
      match s.swapAccess sd sa sb with
      | (s, .ok r) => (s, some { slot := 0, req := .swap r.1 (s.namePair sd) (s.namePair sb) sc, sc := r.2 })
      | (s, .error t) => (s, some { slot := 0, req := .swap 0 0 0 sc, done := true, fault := some t })
    act := fun s =>
      let v := s.verdict (.swap 0 0 0 sc)
      s.unless v.fault fun s => (s.dropLine (clusterOf s.cur) v.req.rootLine).nameResult 32 sd v.name false }

/-- Whether a lookup has to wait: for a fence, for the setting of the pool, or for a maintenance slot (R279, R331, R420). -/
def State.lookWaits (s : State) : Bool := s.me.heldBack 7 || s.pool.setting || s.calendar.hold

/-- CNLOOK makes its check at issue, and its lookup there or, where that has to wait, from the core's queue (R331, R344, R346). -/
def semCnlook (sn : BitVec 5) (row : RowOp) (qtr : BitVec 2) (land : BitVec 10) : SlotSem :=
  { check := fun s => s.storeTrap row
    wait := fun s => s.sourceWait row
    act := fun s =>
      let (cls, data) := s.cnSource sn row qtr
      match firstSome [s.cnSourceFault sn row qtr false, if data != 0 && !s.poolEn then some (cnFault 0x14 3) else none] with
      | some t => (s, some t)
      | none =>
        if data != 0 && s.lookWaits then
          let (id, s) := s.takeId
          (((s.pendData land.toNat (.scalar sn false 0) id 0 1 false).pendData land.toNat (.scalar (sn + 1) false 0) id 1 1
            false).enqueue [{ id := id, bun := s.bun, kind := .look cls data }], none)
        else (s.nameResult land.toNat sn (s.lookName cls data) false, none) }

def semCnhash (sn : BitVec 5) (row : RowOp) (qtr : BitVec 2) (land : BitVec 10) : SlotSem :=
  { check := fun s => s.storeTrap row
    wait := fun s => s.sourceWait row
    act := fun s =>
      let (cls, data) := s.cnSource sn row qtr
      s.unless (s.cnSourceFault sn row qtr false) fun s =>
        s.nameResult land.toNat sn (if data = 0 then 0 else makeName (namePrefix cls data) 0 cls) false }

/-- The checks of CNOUT before its verdict (R350): depth and root, then the destination pages. -/
def State.outAccess (s : State) (ag al : BitVec 4) (sdesc : BitVec 5) : State × Except Trap (List (Nat × Nat) × Bool) :=
  let root := s.namePair sdesc
  let d := (s.aReg al).toNat
  let va := s.aReg ag
  if 12 < d ∨ !Name.wellFormed root ∨ (root ≠ 0 ∧ (Name.cls root = 0 ∧ d ≠ 0 ∨ Name.cls root = 1 ∧ d = 0)) then
    (s, .error ⟨0x03, 0⟩)
  else if va.toNat % 128 ≠ 0 then (s, .error (addrTrap 0x0A va))
  else
    let pieces := pagePieces va (8 ^ d * 128)
    match s.accessAll s.cur .engineWrite pieces with
    | (s, .error t) => (s, .error t)
    | (s, .ok l) => (s, .ok ((pieces.zip l).foldl (fun m (p : (Word × Nat) × Leaf × Nat × Nat) =>
        mapSet (p.1.1.toNat / 65536) (p.2.2.1 - p.1.1.toNat % 65536) m) [], l.any (·.1.sc)))

/-- CNOUT as a transfer. -/
def State.outBulk (s : State) (ag al : BitVec 4) (sdesc : BitVec 5) (tag : BitVec 4) : Bulk :=
  let d := (s.aReg al).toNat % 16
  { id := s.me.flow.nextId, bun := s.bun, tag := tag, kind := .cnout (s.namePair sdesc) d, shape := .row .w128
    g := s.aReg ag, l := 0, gstride := 128, lstride := 0, rows := 8 ^ d, pages := [], promise := 0
    work := [(some (s.namePair sdesc), d)], epoch := s.pool.epoch }

/-- CNOUT: what it checks at issue goes with its request, and is not checked again (R344, R350). -/
def semCnout (ag al : BitVec 4) (sdesc : BitVec 5) (tag : BitVec 4) : SlotSem :=
  { wait := fun s =>
      let pieces (_ : Unit) := pagePieces (s.aReg ag) (8 ^ ((s.aReg al).toNat % 16) * 128)
      firstSome
        [if s.calendar.hold then s.walkWait ((pieces ()).map (·.1)) else none,
         if s.me.scBusy then s.scWait .engineWrite (pieces ()) else none]
    request := fun s =>
      let root := s.namePair sdesc
      match s.outAccess ag al sdesc with
      | (s, .ok r) => (s, some { slot := 0, req := .out root, done := root == 0, pages := r.1, sc := r.2 })
      | (s, .error t) => (s, some { slot := 0, req := .out root, done := true, fault := some t })
    tokens := fun s => 1 + (8 ^ ((s.aReg al).toNat % 16) * 128 + 4095) / 4096
    act := fun s =>
      let v := s.verdict (.out 0)
      s.unless v.fault fun s =>
        let b := s.outBulk ag al sdesc tag
        (s.takeId.2).startBulk { b with pages := v.pages, sc := v.sc } }

/-! ## Events of the directory -/

def execCnDirectoryVerdict (core : Nat) (second : Bool) (s : State) : Answer := asEvent (fun s => s.cnVerdict core second) s
def execReaper (slot : Nat) (s : State) : Answer := asEvent (fun s => s.reaper slot) s

/-- DIRECTORY_FREE_SETTING_DONE: operations that wait for the setting go on (R331). -/
def execDirectoryFreeSettingDone (s : State) : Answer :=
  asEvent (fun s => { s with pool := { s.pool with setting := false } }) s

/-! ## Meanings -/

/-- CNPUT in C0 or C1. -/
def execCnput (sn : BitVec 5) (row : RowOp) (qtr : BitVec 2) (land : BitVec 10) (s : State) : Answer :=
  inSlot 5 (semCnput sn row qtr land) s

/-- CNGET in C0 or C1. -/
def execCnget (sn : BitVec 5) (row : RowOp) (qtr : BitVec 2) (land : BitVec 10) (s : State) : Answer :=
  inSlot 5 (semCnget sn row qtr land) s

/-- CNREF in C0 or C1. -/
def execCnref (sn : BitVec 5) (s : State) : Answer := inSlot 5 (semCnref sn) s

/-- CNDROP in C0 or C1. -/
def execCndrop (sn : BitVec 5) (s : State) : Answer := inSlot 5 (semCndrop sn) s

/-- CNSWAP in C0 or C1. -/
def execCnswap (sd sa sb : BitVec 5) (sc : Scope) (s : State) : Answer := inSlot 5 (semCnswap sd sa sb sc) s

/-- CNLOOK in C0 or C1. -/
def execCnlook (sn : BitVec 5) (row : RowOp) (qtr : BitVec 2) (land : BitVec 10) (s : State) : Answer :=
  inSlot 5 (semCnlook sn row qtr land) s

/-- CNHASH in C0 or C1. -/
def execCnhash (sn : BitVec 5) (row : RowOp) (qtr : BitVec 2) (land : BitVec 10) (s : State) : Answer :=
  inSlot 5 (semCnhash sn row qtr land) s

/-- CNOUT in C0 or C1. -/
def execCnout (ag al : BitVec 4) (sdesc : BitVec 5) (tag : BitVec 4) (s : State) : Answer :=
  inSlot 5 (semCnout ag al sdesc tag) s

end Sys2Proof.Machine
end

