-- ==== Sys2Proof/Machine/Matrix.lean ====
section
/-! DEFINITION. Machine/Matrix.lean: the matrix slot (spec 14) with the leases of the arrays (spec 13, R300 to R302), and
the events of the arrays. -/

namespace Sys2Proof.Machine

/-! ## Leases and the command buffer (R300, R301, R311, R314) -/

/-- An array command that reaches issue without a lease asks for one of one command. -/
def State.askLease (s : State) : State :=
  match s.me.mat.lease with
  | .idle => s.modMe fun x => x.modMat fun m => { m with lease := .wait 1 }
  | _ => s

def Lease.isHeld : Lease → Bool
  | .held _ _ _ => true
  | _ => false

def State.roomWait (s : State) : Option Freeze := if 32 ≤ s.me.mat.cmds.length then some .commands else none

def State.leaseWait (s : State) : Option Freeze := if s.me.mat.lease.isHeld then s.roomWait else some .lease

/-- One command of the lease is used. -/
def Lease.spend : Lease → Lease
  | .held n t g => if n ≤ 1 then .idle else .held (n - 1) t g
  | l => l

def Lease.grant : Lease → Option Nat
  | .held _ _ g => some g
  | _ => none

/-- A command enters the buffer; one that needs nothing but its turn may be performed at once. -/
def State.pushCmd (s : State) (grant : Option Nat) (cmd : Cmd) : State :=
  (s.modMe fun x => x.modMat fun m => { m with cmds := m.cmds ++ [{ bun := x.flow.bun, grant := grant, cmd := cmd }] }).settleCmds
    s.cur 32

/-- The command that has just entered reaches an SC page (R366). -/
def State.markSc (s : State) (sc : Bool) : State :=
  if sc then s.modMe fun x => x.modMat fun m =>
    { m with cmds := m.cmds.zipIdx.map fun p => if p.2 + 1 = m.cmds.length then { p.1 with sc := true } else p.1 }
  else s

/-- An array command enters the buffer under the lease. -/
def State.arrayCmd (s : State) (cmd : Cmd) : State :=
  let g := s.me.mat.lease.grant
  (s.modMe fun x => x.modMat fun m => { m with lease := m.lease.spend }).pushCmd g cmd

/-- The node that the acting core runs. -/
def State.myNode (s : State) : Nat := (s.nodeOf s.cur).getD 0

/-- The geometry of the array for the acting core (R317). -/
def State.arrayGeom (s : State) : Nat :=
  match ((s.cluster (clusterOf s.cur)).macros.get 0).active.key with
  | some k => if some k.node = s.nodeOf s.cur then k.geom.toNat else 0
  | none => 0

/-! ## Flat rows (R318, R319) -/

/-- Rows that (NR + 1)·K elements take. -/
def flatRows (nr : BitVec 5) (geom : Nat) (t : Tag) : Nat :=
  ((nr.toNat + 1) * inputsOf geom + tagCount t - 1) / tagCount t

/-- Whether a run of `n` rows fits from a destination on; streams are limited by their totals (R319). -/
def RowDest.fits (d : RowDest) (n : Nat) : Bool :=
  match d with
  | .tile r => decide (r.toNat + n ≤ 128)
  | .oper r => decide (r.toNat + n ≤ 8)
  | .stream _ => true

/-- Row `f` of a run. -/
def RowDest.plus (d : RowDest) (f : Nat) : RowDest :=
  match d with
  | .tile r => .tile (r + BitVec.ofNat 7 f)
  | .oper r => .oper (r + BitVec.ofNat 3 f)
  | .stream q => .stream q

/-- A row of a run as a source. -/
def Core.destRow (x : Core) : RowDest → TRow
  | .tile r => x.regs.tRow r
  | .oper r => x.regs.oRow r
  | .stream _ => {}

/-- The tags of the rows of a run that exist. -/
def Core.runTags (x : Core) (d : RowDest) (n : Nat) : List Tag :=
  match d with
  | .tile r => (List.range (min n (128 - r.toNat))).map fun f => (x.destRow (d.plus f)).tag
  | .oper r => (List.range (min n (8 - r.toNat))).map fun f => (x.destRow (d.plus f)).tag
  | .stream _ => []

/-- The fault of taking `n` rows of a stream from its head on. -/
def State.takeFault (s : State) (q : BitVec 3) (n : Nat) : Option Trap :=
  match s.me.stream? q with
  | none => none
  | some t =>
    if t.total < t.pos + n then some ⟨0x11, q.setWidth 64⟩
    else ((List.range n).find? fun f => !t.rowOk (t.pos + f)).map fun f => offsetTrap (t.offset (t.pos + f))

/-! ## Products (R310, R313, R318 to R321) -/

/-- The limits of S (R289, R310): illegal instruction. -/
def splitTrap (s : State) (np : BitVec 5) (split : BitVec 3) : Option Trap :=
  if split != 0 && (!s.part.charge || (np == 6 && decide (3 < split.toNat))) then some ⟨0x02, 0⟩ else none

/-- A command that accumulates needs rows 0 to NR of no kind or of its own (R299, R312). -/
def Matrix.kindsOk (m : Matrix) (np nr : BitVec 5) (mode : AccMode) : Bool :=
  mode == .ovr || (List.range (nr.toNat + 1)).all fun i =>
    let k := m.kinds.get (Fin.ofNat 32 i)
    k == .Z || k == profileKind np

/-- The rows of kind Z. -/
def Matrix.zeroRows (m : Matrix) : BitVec 32 :=
  (List.range 32).foldl (fun b i => if m.kinds.get (Fin.ofNat 32 i) = .Z then b ||| (1#32 <<< i) else b) 0

/-- The kinds that a product leaves (R312). -/
def Matrix.setKinds (m : Matrix) (np nr : BitVec 5) : Matrix :=
  { m with kinds := Vector.ofFn fun i => if i.val ≤ nr.toNat then profileKind np else m.kinds.get i }

def productTokens (s : State) (nr : BitVec 5) : Nat := (nr.toNat + 1) * bitCycles s.me.flow.issue.head.np / 4

/-- The command of a product: kinds, the SR numbers of profile 4, and the entry in the buffer (R320). -/
def State.enterProduct (s : State) (nr : BitVec 5) (split : BitVec 3) (mode : AccMode) (t : Tag) (rows : List RowBits)
    (fetch : Option (Nat × List Nat × RowShape)) : State :=
  let np := s.me.flow.issue.head.np
  let geom := s.arrayGeom
  let x := s.me
  let slice := match x.run with | some r => r.slice | none => 0
  let rnd := if np = 4 then some (x.ctl.rngSeed, slice, x.ctl.rndCount) else none
  let s := if np = 4 then s.advanceRnd .sr ((nr.toNat + 1) * inputsOf geom) else s
  (s.modMe fun x => x.modMat fun m => m.setKinds np nr).arrayCmd
    (.product np nr.toNat split.toNat mode t geom rows rnd fetch x.mat.zeroRows)

/-- Profile 6 has no geometry 3 (R318). -/
def State.geomTrap (s : State) : Option Trap :=
  operandTrap (!(s.me.flow.issue.head.np == 6 && s.arrayGeom == 3))

def semMnop : SlotSem := {}

def semMmul (A : RowOp) (nr : BitVec 5) (split : BitVec 3) (mode : AccMode) : SlotSem :=
  { check := fun s =>
      let x := s.me
      let np := x.flow.issue.head.np
      let t := x.rowTag A
      let tags := x.runTags (x.regs.dest A) (flatRows nr s.arrayGeom t)
      firstSome [splitTrap s np split, (match A with | .latch _ => some ⟨0x03, 0⟩ | _ => none), s.sourceTrap A,
        tagTrap (profileAccepts np t && tags.all (· == t) && x.mat.kindsOk np nr mode)]
    reach := State.askLease
    wait := fun s => firstSome [s.sourceWait A, s.leaseWait]
    tokens := fun s => productTokens s nr
    act := fun s =>
      let x := s.me
      let t := x.rowTag A
      let n := flatRows nr s.arrayGeom t
      let d := x.regs.dest A
      match firstSome [s.geomTrap, operandTrap (d.fits n),
          (match d with | .stream q => s.takeFault q n | _ => none)] with
      | some e => (s, some e)
      | none =>
        match d with
        | .stream q =>
          let rows := match x.stream? q with
            | some v => (List.range n).map fun f => s.streamRow s.cur v (v.pos + f)
            | none => []
          ((s.enterProduct nr split mode t rows none).modCarry fun c => { c with take := some (q, n) }, none)
        | _ => (s.enterProduct nr split mode t ((List.range n).map fun f => (x.destRow (d.plus f)).bits) none, none) }

/-- The tag of activations that MMULS reads (R321). -/
def mmulsTag (np : BitVec 5) : Tag :=
  match np.toNat with
  | 5 => .I8
  | 6 => .I4
  | 7 => .E4M3
  | _ => .BF16

/-- Whether operands in the core's own scratchpad, which are read at issue, have to wait: for a local store that is held, or for an acquire,
which holds every later access (R222, R361). -/
def Core.operandHeld (x : Core) : Bool := x.mem.memq.any fun e => e.isLocalStore || (e.acq && decide (e.bun < x.flow.bun))

/-- The rows that a matrix command takes from the core's own scratchpad, by their banks (R220, R321). -/
def State.fetchBanks (s : State) (l : List (List Nat)) : State := s.modMe fun x => x.modIssue fun i => { i with rowBanks := l }

def semMmuls (a : BitVec 4) (core : BitVec 3) (col : Bool) (nr : BitVec 5) (split : BitVec 3) (mode : AccMode) : SlotSem :=
  { check := fun s =>
      let x := s.me
      let np := x.flow.issue.head.np
      firstSome [splitTrap s np split, tagTrap (x.mat.kindsOk np nr mode)]
    reach := State.askLease
    wait := fun s => firstSome
      [s.leaseWait, if core.toNat == laneOf s.cur && s.me.operandHeld then some .fence else none]
    tokens := fun s => productTokens s nr
    act := fun s =>
      let t := mmulsTag s.me.flow.issue.head.np
      let e : ElemSize := if t = .BF16 then .e2 else .e1
      let sh : RowShape := if col then .col e else .row .w512
      let step := if col then elemBytes e else 512
      let offs := (List.range (flatRows nr s.arrayGeom t)).map fun f => s.aReg a + BitVec.ofNat 64 (step * f)
      match firstSome (s.geomTrap :: offs.map (localFault spadSize sh)) with
      | some e => (s, some e)
      | none =>
        let owner := coreOfCluster (clusterOf s.cur) core.toNat
        let offs := offs.map (·.toNat)
        if owner = s.cur then ((s.fetchBanks (offs.map (shapeBanks sh))).enterProduct nr split mode t (offs.map (readShape (s.spadByte s.cur) sh)) none, none)
        else (s.enterProduct nr split mode t [] (some (owner, offs, sh)), none) }

/-! ## Weights (R315, R317, R305) -/

def imageSize (w : WFmt) : Nat := if w = .wbx4 then 32768 else 33792

/-- The images of a load: macro and pieces of its image, in ascending order. -/
def imagePieces (a : Word) (mask : BitVec 8) (w : WFmt) : List (Nat × List (Word × Nat)) :=
  (bitsOf 8 mask).map fun m => (m, pagePieces (a + BitVec.ofNat 64 (m * imageSize w)) (imageSize w))

/-- Translation of every image, up to the first address that fails. -/
def State.imageAccess (s : State) :
    List (Nat × List (Word × Nat)) → State × Except Trap (List (Nat × List (Nat × Nat)) × Bool)
  | [] => (s, .ok ([], false))
  | (m, l) :: t =>
    match s.accessAll s.cur .image l with
    | (s, .error e) => (s, .error e)
    | (s, .ok r) =>
      match s.imageAccess t with
      | (s, .error e) => (s, .error e)
      | (s, .ok q) => (s, .ok ((m, r.map (·.2)) :: q.1, q.2 || r.any fun p => p.1.sc))

def semMwld (a : BitVec 4) (mask : BitVec 8) (geom : BitVec 2) (wfmt : WFmt) : SlotSem :=
  { reach := State.askLease
    wait := fun s => firstSome
      [s.leaseWait, s.walkWait ((imagePieces (s.aReg a) mask wfmt).flatMap fun p => p.2.map (·.1)),
       s.scWait .image ((imagePieces (s.aReg a) mask wfmt).flatMap (·.2))]
    tokens := fun _ => 4 * (bitsOf 8 mask).length
    act := fun s =>
      let va := s.aReg a
      if va.toNat % 512 ≠ 0 then (s, some (addrTrap 0x0A va))
      else match s.imageAccess (imagePieces va mask wfmt) with
        | (s, .error e) => (s, some e)
        | (s, .ok images) => ((s.arrayCmd (.load geom wfmt images.1)).markSc images.2, none) }

/-- Whether a queued load fills a shadow of the mask. -/
def Queued.fills (q : Queued) (mask : BitVec 8) : Bool :=
  match q.cmd with
  | .load _ _ images => images.any fun p => mask.getLsbD p.1
  | _ => false

/-- What MSWAP waits for (R305, R317): the core's earlier commands, loads into its shadows, and earlier grants. -/
def State.swapWait (s : State) (mask : BitVec 8) : Option Freeze :=
  let loads := (List.range 8).any fun i =>
    (s.core (coreOfCluster (clusterOf s.cur) i)).mat.cmds.any (·.fills mask)
  let older := match s.me.mat.lease.grant with | some g => s.olderGrants s.cur g | none => false
  if !s.me.mat.cmds.isEmpty || loads || older || s.majorNow then some .commands else none

/-- The load of one macro's shadow from the image of its key. -/
def reloadCmd (m : Nat) (k : PlaneKey) : Cmd := .load k.geom k.wfmt [(m, k.pages)]

/-- Shadows that an MSWAP of a reissue loads again, once (R305). -/
def State.reloadFailed (s : State) (mask : BitVec 8) : State :=
  (bitsOf 8 mask).foldl (fun s m =>
    let p := ((s.cluster (clusterOf s.cur)).macros.get (Fin.ofNat 8 m)).shadow
    match p.key with
    | some k =>
      if p.onlyBurst s.myNode then
        (s.modMacro (clusterOf s.cur) m fun x => { x with shadow := { x.shadow with burst := false } }).pushCmd s.me.mat.lease.grant
          (reloadCmd m k)
      else s
    | none => s) s

/-- The masked macros whose shadow is invalid. -/
def State.invalidShadows (s : State) (mask : BitVec 8) : BitVec 8 :=
  (bitsOf 8 mask).foldl (fun b m =>
    if ((s.cluster (clusterOf s.cur)).macros.get (Fin.ofNat 8 m)).shadow.invalidFor s.myNode then b ||| (1#8 <<< m) else b) 0

def semMswap (mask : BitVec 8) : SlotSem :=
  { reach := fun s =>
      let s := s.askLease
      if s.me.flow.redo.getLsbD 12 && s.me.mat.lease.isHeld then s.reloadFailed mask else s
    wait := fun s => firstSome [s.leaseWait, s.swapWait mask]
    act := fun s =>
      let bad := s.invalidShadows mask
      if bad != 0 then (s, some ⟨0x12, bad.setWidth 64⟩)
      else
        let s := (bitsOf 8 mask).foldl (fun s m => s.modMacro (clusterOf s.cur) m fun x => ⟨x.shadow, x.active⟩) s
        (s.modMe fun x => (x.modMat fun m => { m with lease := m.lease.spend }).countArray false, none) }

def semMwinv (mask : BitVec 8) : SlotSem :=
  { reach := State.askLease, wait := State.leaseWait, act := fun s => (s.arrayCmd (.inval mask), none) }

/-! ## Bank commands (R322 to R329) -/

def semMzero : SlotSem :=
  { wait := State.roomWait
    act := fun s =>
      ((s.modMe fun x => x.modMat fun m => { m with kinds := Vector.replicate 32 .Z }).pushCmd none .zero, none) }

/-- The kinds of rows 0 to NR. -/
def Matrix.rowKinds (m : Matrix) (nr : BitVec 5) : List RowKind :=
  (List.range (nr.toNat + 1)).map fun i => m.kinds.get (Fin.ofNat 32 i)

/-- A drain that copies lanes takes no mixture of F and I rows (R324). -/
def mixedKinds (ofmt : DrainFmt) (l : List RowKind) : Bool := DrainFmt.isCopy ofmt && l.contains .F && l.contains .I

/-- Rows of a drain. -/
def drainRows (nr : BitVec 5) (ofmt : DrainFmt) : Nat := (nr.toNat + 1) * (drainShape ofmt).2

/-- The last two checks of a drain (R324, R325, R467), and what it then does. -/
def State.drainChecks (s : State) (ofmt : DrainFmt) (amx : Option (BitVec 4 × Scope))
    (f : State → Nat → Option MemOp → State) : State × Option Trap :=
  let amax := s.me.regs.ls.toNat % 2 ^ 32
  let isBx := ofmt.isBx4
  if isBx && badAmax amax then (s, some ⟨0x03, 0⟩)
  else match amx with
    | none => (f s amax none, none)
    | some (a, sc) =>
      let va := s.aReg a
      if va.toNat % 4 ≠ 0 then (s, some (addrTrap 0x0A va))
      else s.withAccess .atomic va 4 fun s l pa =>
        let (id, s) := s.takeId
        (f (s.dropLine (clusterOf s.cur) (pa / 128)) amax
          (some { id := id, bun := s.me.flow.bun, kind := .atomic .amax 0 0, pa := pa, len := 4, scope := sc, scPage := l.sc, engine := true }), none)

def amxAddrs (s : State) (amx : Option (BitVec 4 × Scope)) : List Word :=
  match amx with
  | some (a, _) => [s.aReg a]
  | none => []

def drainCheck (nr : BitVec 5) (ofmt : DrainFmt) (s : State) : Option Trap :=
  tagTrap (!mixedKinds ofmt (s.me.mat.rowKinds nr))

def semMdrain (nr : BitVec 5) (tag : BitVec 4) (ofmt : DrainFmt) (amx : Option (BitVec 4 × Scope)) : SlotSem :=
  { check := drainCheck nr ofmt
    wait := fun s => firstSome [s.roomWait, s.walkWait (amxAddrs s amx), s.scWait .atomic ((amxAddrs s amx).map fun v => (v, 4))]
    entries := fun _ => drainRows nr ofmt
    act := fun s => s.drainChecks ofmt amx fun s amax at_ =>
      let kinds := s.me.mat.rowKinds nr
      let (id, s) := s.takeId
      let row : DrainRow := ⟨tag, id, none, drainTag ofmt kinds⟩
      ((s.modMe fun x => x.modMat fun m => { m with drains := m.drains ++ List.replicate (drainRows nr ofmt) row }).pushCmd none
        (.drain nr.toNat ofmt kinds amax at_ (.buffer tag id))).markSc (at_.any (·.scPage)) }

/-- Column size of a drain to the scratchpad (R327). -/
def drainElem (ofmt : DrainFmt) : ElemSize :=
  match ofmt with
  | .bf256 | .bf512 | .bf1024 => .e2
  | .e512 | .e1024 => .e1
  | _ => .e4

def semMdrains (nr : BitVec 5) (a : BitVec 4) (ofmt : DrainFmt) (amx : Option (BitVec 4 × Scope)) (glob col : Bool) : SlotSem :=
  let rowAddrs (s : State) (step : Nat) : List Word :=
    (List.range (drainRows nr ofmt)).map fun f => s.aReg a + BitVec.ofNat 64 (step * f)
  { check := drainCheck nr ofmt
    wait := fun s => firstSome
      [s.roomWait, s.walkWait (amxAddrs s amx ++ if glob then rowAddrs s 512 else []),
       s.scWait .atomic ((amxAddrs s amx).map fun v => (v, 4)),
       if glob then s.scWait .engineWrite ((rowAddrs s 512).map fun v => (v, 512)) else none]
    act := fun s =>
      let finish (dest : DrainTo) (sc : Bool) (s : State) : State × Option Trap := s.drainChecks ofmt amx fun s amax at_ =>
        let s := match dest with | .global pas _ => s.dropRuns s.cur (pas.map fun pa => (pa, 512)) | _ => s
        (s.pushCmd none (.drain nr.toNat ofmt (s.me.mat.rowKinds nr) amax at_ dest)).markSc (sc || at_.any (·.scPage))
      if glob then
        if (s.aReg a).toNat % 512 ≠ 0 then (s, some (addrTrap 0x0A (s.aReg a)))
        else match s.accessAll s.cur .engineWrite ((rowAddrs s 512).map fun v => (v, 512)) with
          | (s, .error e) => (s, some e)
          | (s, .ok l) => finish (.global (l.map (·.2.1)) (l.any (·.1.sc))) (l.any (·.1.sc)) s
      else
        let e := drainElem ofmt
        let sh : RowShape := if col then .col e else .row .w512
        match firstSome ((rowAddrs s (if col then elemBytes e else 512)).map (localFault spadSize sh)) with
        | some t => (s, some t)
        | none => finish (.spad (s.aReg a).toNat col) false s }

/-- Rows of a drain tag, oldest first. -/
def Matrix.drained (m : Matrix) (tag : BitVec 4) : List DrainRow := m.drains.filter fun d => d.tag == tag

/-- The rows of a tag without its first `n`. -/
def dropDrains (tag : BitVec 4) : Nat → List DrainRow → List DrainRow
  | 0, l => l
  | _, [] => []
  | n + 1, d :: t => if d.tag = tag then dropDrains tag n t else d :: dropDrains tag (n + 1) t

/-- Pushes of `n` rows to a destination stream (R328). -/
def State.pushesFault (s : State) (q : BitVec 3) (n : Nat) : Option Trap :=
  match s.me.stream? q with
  | none => none
  | some t =>
    let k := t.pos + (s.me.flow.issue.pushes.filter (· == q)).length
    if t.total < k + n then some ⟨0x11, q.setWidth 64⟩
    else ((List.range n).find? fun f => !t.rowOk (k + f)).map fun f => offsetTrap (t.offset (k + f))

def semMcommit (D : RowOp) (tag : BitVec 4) (nr : BitVec 5) : SlotSem :=
  let n := nr.toNat + 1
  { check := fun s => s.destTrap D
    wait := fun s =>
      let l := (s.me.mat.drained tag).take n
      if l.length = n && l.any (·.row.isNone) then some .commit else none
    pushes := (List.replicate n (pushesOf D)).flatten
    act := fun s =>
      let rows := (s.me.mat.drained tag).take n
      let d := s.me.regs.dest D
      match firstSome [(if rows.length < n then some ⟨0x03, tag.setWidth 64⟩ else none),
          tagTrap (rows.all fun r => r.fmtTag == (rows.map (·.fmtTag)).headD .EMPTY),
          operandTrap (d.fits n),
          (match d with | .stream q => s.pushesFault q n | _ => none)] with
      | some t => (s, some t)
      | none =>
        let s := s.modMe fun x => x.modMat fun m => { m with drains := dropDrains tag n m.drains }
        let new := rows.zipIdx.map fun (p : DrainRow × Nat) =>
          let v := p.1.row.getD {}
          ({ left := 2, res := .row (d.plus p.2) v.bits v.tag (some .LM), buf := true, slot := 4, bun := s.bun } : Pending)
        (s.modMe fun x => (x.modFlow fun f => { f with pending := f.pending ++ new }).modIssue fun i =>
          { i with pushes := i.pushes ++ (List.replicate n (pushesOf D)).flatten }, none) }

/-- MLEASE: a lease that is held ends, and a new one is asked for, once for each bundle. -/
def semMlease (ln : BitVec 6) : SlotSem :=
  { reach := fun s =>
      if s.me.flow.leased then s
      else s.modMe fun x => x.modMat fun m =>
        { m with lease := match m.lease with | .wait k => .wait k | _ => .wait (ln.toNat + 1) }
    wait := fun s => if s.me.flow.leased && s.me.mat.lease.isHeld then none else some .lease }

def semMunlease : SlotSem :=
  { act := fun s => (s.modMe fun x => x.modMat fun m =>
      { m with lease := match m.lease with | .held _ _ _ => .idle | l => l }, none) }

def semMclip (d : BitVec 5) : SlotSem :=
  { wait := fun s => if s.me.mat.cmds.any (·.grant.isSome) then some .commands else none
    act := fun s =>
      let v := s.me.ctl.clip
      ((s.modMe fun x => x.modCtl fun t => { t with clip := 0 }).pend 2 (.scalar d false v), none) }

/-! ## Events of the arrays (R300 to R307) -/

/-- The core of a cluster that is granted next, and its node: the waiting core of the claiming node that follows the last
holder; without a claim the first waiting core (R300, R302). -/
def State.nextGrant (s : State) (k : Nat) : Option Nat :=
  let cl := s.cluster k
  let waiting (c : Nat) : Bool := match (s.core c).mat.lease with | .wait _ => true | _ => false
  let order : List Nat := match cl.claim, cl.lastHolder with
    | some _, some h => (List.range 8).map fun i => (h + 1 + i) % 8
    | _, _ => List.range 8
  ((order.map (coreOfCluster k)).find? fun c =>
    waiting c && (match cl.claim with | some id => s.nodeOf c == some id | none => (s.nodeOf c).isSome))

/-- LEASE_GRANT: no lease of the cluster is held, none is granted in a major slot. -/
def State.leaseGrant (s : State) (k : Nat) : State :=
  let held := (List.range 8).any fun i => (s.core (coreOfCluster k i)).mat.lease.isHeld
  if held || s.majorNow then s
  else match s.nextGrant k with
    | none => s
    | some c =>
      let s := s.modCluster k fun x => { x with claim := s.nodeOf c, lastHolder := some (laneOf c) }
      { s.modCore c fun x =>
          (x.modMat fun m =>
            { m with lease := match m.lease with | .wait n => .held n s.now s.grants | l => l }).modFlow fun f =>
            { f with leased := true } with
        grants := s.grants + 1 }

/-- Ticks of 4,096 periods of a core's clock. -/
def leaseTicks (op : BitVec 3) : Nat := (4096 * 10 + opFreq op - 1) / opFreq op

/-- LEASE_TIMEOUT: 4,096 periods of the core's clock since the grant. -/
def State.leaseTimeout (s : State) (c : Nat) : State :=
  let x := s.core c
  match x.mat.lease with
  | .held _ start _ =>
    if start + leaseTicks x.ctl.opCur ≤ s.now then
      s.modCore c fun x => (x.modMat fun m => { m with lease := .idle }).modFlow fun f => { f with leased := false }
    else s
  | _ => s

/-- Whether a load has begun to read the image of a macro. -/
def Queued.feeds (q : Queued) (m : Nat) : Bool := !q.got.isEmpty && q.fills (1#8 <<< m)

/-- The burst that feeds macro `m` of a cluster fails: the load in progress, or the shadow that the last one has filled. -/
def State.failBurst (s : State) (k m : Nat) : State :=
  let cs := (List.range 8).map (coreOfCluster k)
  if cs.any fun c => (s.core c).mat.cmds.any (·.feeds m) then
    cs.foldl (fun (s : State) c => s.modCore c fun x => x.modMat fun t =>
      { t with cmds := t.cmds.map fun q => if q.feeds m then { q with failed := q.failed ||| (1#8 <<< m) } else q }) s
  else s.modMacro k m fun x =>
    { x with shadow := { x.shadow with burst := true, key := x.shadow.key.map fun q => { q with watch := false } } }

/-- FLUE_SIGNAL_FAILURE: the burst fails, every shadow that it fed becomes invalid, and the loss is logged (R307). -/
def State.flueSignalFailure (s : State) (d : BitVec 3) (signal : BitVec 17) (k : Nat) (mask : BitVec 8) : State :=
  let group (n : Nat) : Nat := n / 32
  let lost := s.wear.flueLost
  let again := lost.any fun p => p.1 == d.toNat && group p.2 == group signal.toNat && p.2 != signal.toNat
  let s := (bitsOf 8 mask).foldl (fun (s : State) m => s.failBurst k m) s
  let s := { s with wear := { s.wear with
    flueLost := lost ++ [(d.toNat, signal.toNat)]
    flueRepair := if again then s.wear.flueRepair.set d.toNat true d.isLt else s.wear.flueRepair } }
  s.logError d.toNat 0x32 [field 29 d ||| field 0 signal]

def execLeaseGrant (cluster : Nat) (s : State) : Answer := asEvent (fun s => s.leaseGrant cluster) s
def execLeaseTimeout (core : Nat) (s : State) : Answer := asEvent (fun s => s.leaseTimeout core) s
def execArrayProduct (core : Nat) (s : State) : Answer := asEvent (fun s => s.arrayProduct core) s
def execWeightLoadComplete (core : Nat) (s : State) : Answer := asEvent (fun s => s.weightLoad core) s
def execFlueSignalFailure (die : BitVec 3) (signal : BitVec 17) (cluster : Nat) (mask : BitVec 8) (s : State) : Answer :=
  asEvent (fun s => s.flueSignalFailure die signal cluster mask) s
def execDrainPerform (core : Nat) (s : State) : Answer := asEvent (fun s => s.drainPerform core) s

/-! ## Meanings -/

/-- MNOP in M. -/
def execMnop (s : State) : Answer := inSlot 4 semMnop s

/-- MMUL in M. -/
def execMmul (A : RowOp) (nr : BitVec 5) (split : BitVec 3) (mode : AccMode) (s : State) : Answer :=
  inSlot 4 (semMmul A nr split mode) s

/-- MMULS in M. -/
def execMmuls (a : BitVec 4) (core : BitVec 3) (col : Bool) (nr : BitVec 5) (split : BitVec 3) (mode : AccMode) (s : State) : Answer :=
  inSlot 4 (semMmuls a core col nr split mode) s

/-- MWLD in M. -/
def execMwld (a : BitVec 4) (mask : BitVec 8) (geom : BitVec 2) (wfmt : WFmt) (s : State) : Answer :=
  inSlot 4 (semMwld a mask geom wfmt) s

/-- MSWAP in M. -/
def execMswap (mask : BitVec 8) (s : State) : Answer := inSlot 4 (semMswap mask) s

/-- MWINV in M. -/
def execMwinv (mask : BitVec 8) (s : State) : Answer := inSlot 4 (semMwinv mask) s

/-- MZERO in M. -/
def execMzero (s : State) : Answer := inSlot 4 semMzero s

/-- MDRAIN in M. -/
def execMdrain (nr : BitVec 5) (tag : BitVec 4) (ofmt : DrainFmt) (amx : Option (BitVec 4 × Scope)) (s : State) : Answer :=
  inSlot 4 (semMdrain nr tag ofmt amx) s

/-- MDRAINS in M. -/
def execMdrains (nr : BitVec 5) (a : BitVec 4) (ofmt : DrainFmt) (amx : Option (BitVec 4 × Scope)) (glob col : Bool) (s : State) : Answer :=
  inSlot 4 (semMdrains nr a ofmt amx glob col) s

/-- MCOMMIT in M. -/
def execMcommit (D : RowOp) (tag : BitVec 4) (nr : BitVec 5) (s : State) : Answer := inSlot 4 (semMcommit D tag nr) s

/-- MLEASE in M. -/
def execMlease (ln : BitVec 6) (s : State) : Answer := inSlot 4 (semMlease ln) s

/-- MUNLEASE in M. -/
def execMunlease (s : State) : Answer := inSlot 4 semMunlease s

/-- MCLIP in M. -/
def execMclip (d : BitVec 5) (s : State) : Answer := inSlot 4 (semMclip d) s

end Sys2Proof.Machine
end

