-- ==== Sys2Proof/Machine/Scalar.lean ====
section
/-! DEFINITION. Machine/Scalar.lean: the header words, and the S slot's arithmetic and control flow (spec 06 R100, R101; 08
R156 to R164). -/

namespace Sys2Proof.Machine

/-! ## Header words (R100, R101) -/

def semNormal (np : BitVec 5) (op : Option (BitVec 3)) (pop : BitVec 8) : SlotSem := (Head.mk np op pop .normal).sem

def semSync (np : BitVec 5) (op : Option (BitVec 3)) (pop : BitVec 8) (g : Group) : SlotSem := (Head.mk np op pop (.sync g)).sem

def semLock (np : BitVec 5) (op : Option (BitVec 3)) (pop pairs : BitVec 8) (count : BitVec 4) : SlotSem :=
  (Head.mk np op pop (.lock pairs count)).sem

def semXph (np : BitVec 5) (op : Option (BitVec 3)) (pop : BitVec 8) : SlotSem := (Head.mk np op pop .xph).sem

/-! ## Integer operations (R156, R157) -/

def widthBits : Width → Nat
  | .d64 => 64
  | _ => 32

/-- The word that an exact integer leaves under a width (R156). -/
def fromWidth (w : Width) (r : Int) : Word :=
  match w with
  | .d64 => BitVec.ofInt 64 r
  | .s32 => (BitVec.ofInt 32 r).signExtend 64
  | .z32 => (BitVec.ofInt 32 r).setWidth 64

/-- An operation on the unsigned views x and y of s[a] and s[b], of n bits. -/
def intSem (left : Nat) (w : Width) (d a b : BitVec 5) (f : (n x y : Nat) → Int) : SlotSem :=
  .result fun s =>
    let n := widthBits w
    s.scalarResult left d (fromWidth w (f n ((s.sReg a).toNat % 2 ^ n) ((s.sReg b).toNat % 2 ^ n)))

/-- An operation on the signed views. -/
def signedSem (left : Nat) (w : Width) (d a b : BitVec 5) (f : (n : Nat) → (xs ys : Int) → Int) : SlotSem :=
  intSem left w d a b fun n x y => f n (signedVal n x) (signedVal n y)

/-- Zero bits above the highest one, of n. -/
def leadingZeros (n x : Nat) : Nat := if x = 0 then n else n - 1 - x.log2

/-- Zero bits below the lowest one, of n. -/
def trailingZeros (n x : Nat) : Nat := ((List.range n).find? fun i => x.testBit i).getD n

def onesCount (n x : Nat) : Nat := ((List.range n).filter fun i => x.testBit i).length

/-- The n/8 bytes of x in reverse order. -/
def swapBytes (n x : Nat) : Nat := bytesNat (natBytes (n / 8) x).reverse

/-- The field that EXTS and EXTZ take: its length (0 means 64) and its bits. -/
def extField (x y : Nat) : Nat × Nat :=
  let len := y / 2 ^ 8 % 64
  let len := if len = 0 then 64 else len
  (len, x / 2 ^ (y % 64) % 2 ^ len)

def semNop : SlotSem := {}
def semAdd (w : Width) (d a b : BitVec 5) : SlotSem := intSem 1 w d a b fun _ x y => x + y
def semSub (w : Width) (d a b : BitVec 5) : SlotSem := intSem 1 w d a b fun _ x y => (x : Int) - y
def semAnd (w : Width) (d a b : BitVec 5) : SlotSem := intSem 1 w d a b fun _ x y => ((x &&& y : Nat) : Int)
def semOr (w : Width) (d a b : BitVec 5) : SlotSem := intSem 1 w d a b fun _ x y => ((x ||| y : Nat) : Int)
def semXor (w : Width) (d a b : BitVec 5) : SlotSem := intSem 1 w d a b fun _ x y => ((x ^^^ y : Nat) : Int)
def semShl (w : Width) (d a b : BitVec 5) : SlotSem := intSem 1 w d a b fun n x y => ((x <<< (y % n) : Nat) : Int)
def semShr (w : Width) (d a b : BitVec 5) : SlotSem := intSem 1 w d a b fun n x y => ((x >>> (y % n) : Nat) : Int)
def semSar (w : Width) (d a b : BitVec 5) : SlotSem := intSem 1 w d a b fun n x y => signedVal n x / 2 ^ (y % n)
def semMul (w : Width) (d a b : BitVec 5) : SlotSem := intSem 3 w d a b fun _ x y => ((x * y : Nat) : Int)
def semMulhi (w : Width) (d a b : BitVec 5) : SlotSem := signedSem 3 w d a b fun n x y => x * y / 2 ^ n
def semMulhn (w : Width) (d a b : BitVec 5) : SlotSem := intSem 3 w d a b fun n x y => ((x * y / 2 ^ n : Nat) : Int)
def semDiv (w : Width) (d a b : BitVec 5) : SlotSem := signedSem 18 w d a b fun n x y => if y = 0 then 2 ^ n - 1 else x.tdiv y
def semDivn (w : Width) (d a b : BitVec 5) : SlotSem :=
  intSem 18 w d a b fun n x y => if y = 0 then 2 ^ n - 1 else ((x / y : Nat) : Int)
def semRem (w : Width) (d a b : BitVec 5) : SlotSem := signedSem 18 w d a b fun _ x y => if y = 0 then x else x.tmod y
def semRemn (w : Width) (d a b : BitVec 5) : SlotSem := intSem 18 w d a b fun _ x y => ((x % y : Nat) : Int)
def semMin (w : Width) (d a b : BitVec 5) : SlotSem := signedSem 1 w d a b fun _ x y => if x ≤ y then x else y
def semMax (w : Width) (d a b : BitVec 5) : SlotSem := signedSem 1 w d a b fun _ x y => if x ≤ y then y else x
def semMinn (w : Width) (d a b : BitVec 5) : SlotSem := intSem 1 w d a b fun _ x y => if x ≤ y then x else y
def semMaxn (w : Width) (d a b : BitVec 5) : SlotSem := intSem 1 w d a b fun _ x y => if x ≤ y then y else x
def semSlt (w : Width) (d a b : BitVec 5) : SlotSem := signedSem 1 w d a b fun _ x y => if x < y then 1 else 0
def semSltn (w : Width) (d a b : BitVec 5) : SlotSem := intSem 1 w d a b fun _ x y => if x < y then 1 else 0
def semSeq (w : Width) (d a b : BitVec 5) : SlotSem := intSem 1 w d a b fun _ x y => if x = y then 1 else 0

/-- SEL reads s[d] as a source too. -/
def semSel (w : Width) (d a b : BitVec 5) : SlotSem :=
  .result fun s =>
    let n := widthBits w
    let v := if (s.sReg d).toNat % 2 ^ n ≠ 0 then s.sReg a else s.sReg b
    s.scalarResult 1 d (fromWidth w ((v.toNat % 2 ^ n : Nat) : Int))

def semClz (w : Width) (d a : BitVec 5) : SlotSem := intSem 1 w d a 0 fun n x _ => (leadingZeros n x : Int)
def semPopc (w : Width) (d a : BitVec 5) : SlotSem := intSem 1 w d a 0 fun n x _ => (onesCount n x : Int)
def semCtz (w : Width) (d a : BitVec 5) : SlotSem := intSem 1 w d a 0 fun n x _ => (trailingZeros n x : Int)
def semRotl (w : Width) (d a b : BitVec 5) : SlotSem :=
  intSem 1 w d a b fun n x y => ((x <<< (y % n) ||| x >>> ((n - y % n) % n) : Nat) : Int)
def semBswap (w : Width) (d a : BitVec 5) : SlotSem := intSem 1 w d a 0 fun n x _ => (swapBytes n x : Int)
def semExts (w : Width) (d a b : BitVec 5) : SlotSem :=
  intSem 1 w d a b fun _ x y => signedVal (extField x y).1 (extField x y).2
def semExtz (w : Width) (d a b : BitVec 5) : SlotSem := intSem 1 w d a b fun _ x y => ((extField x y).2 : Int)

/-! ## Immediate operations (R158, R159) -/

def sext15 (imm : BitVec 15) : Word := imm.signExtend 64

def immSem (left : Nat) (d a : BitVec 5) (f : Word → Word) : SlotSem :=
  .result fun s => s.scalarResult left d (f (s.sReg a))

def semAddi (d a : BitVec 5) (imm : BitVec 15) : SlotSem := immSem 1 d a fun x => x + sext15 imm
def semAndi (d a : BitVec 5) (imm : BitVec 15) : SlotSem := immSem 1 d a fun x => x &&& sext15 imm
def semOri (d a : BitVec 5) (imm : BitVec 15) : SlotSem := immSem 1 d a fun x => x ||| sext15 imm
def semXori (d a : BitVec 5) (imm : BitVec 15) : SlotSem := immSem 1 d a fun x => x ^^^ sext15 imm
def semShli (d a : BitVec 5) (k : BitVec 6) : SlotSem := immSem 1 d a fun x => x <<< k.toNat
def semShri (d a : BitVec 5) (k : BitVec 6) : SlotSem := immSem 1 d a fun x => x >>> k.toNat
def semSari (d a : BitVec 5) (k : BitVec 6) : SlotSem := immSem 1 d a fun x => x.sshiftRight k.toNat
def semSlti (d a : BitVec 5) (imm : BitVec 15) : SlotSem := immSem 1 d a fun x => boolWord (x.slt (sext15 imm))
def semSltni (d a : BitVec 5) (imm : BitVec 15) : SlotSem := immSem 1 d a fun x => boolWord (x.ult (sext15 imm))
def semMuli (d a : BitVec 5) (imm : BitVec 15) : SlotSem := immSem 3 d a fun x => x * sext15 imm
def semLi (d : BitVec 5) (imm : BitVec 20) : SlotSem := .result fun s => s.scalarResult 1 d (imm.signExtend 64)
def semLis (d : BitVec 5) (imm : BitVec 20) : SlotSem := immSem 1 d d fun x => (x <<< 20) + imm.setWidth 64

/-! ## Control flow (R163, R164) -/

/-- The bundle is left for `t`. -/
def State.goTo (s : State) (t : Pc) : State := s.modCarry fun c => { c with target := some t }

/-- PC + Sext(off). -/
def State.relative {n : Nat} (s : State) (off : BitVec n) : Pc := s.me.flow.pc + off.signExtend 59

/-- Byte address of the next bundle in memory. -/
def State.linkAddr (s : State) : Word := (s.me.flow.pc + 1).setWidth 64 <<< 5

/-- JMPR and RET. -/
def jumpSem (d a : BitVec 5) : SlotSem :=
  { act := fun s =>
      let t := s.sReg a
      if t.extractLsb' 0 5 ≠ 0 then (s, some (addrTrap 0x0A t))
      else ((s.scalarResult 1 d s.linkAddr).goTo (t.extractLsb' 5 59), none) }

def semBr (cond : BrCond) (a : BitVec 5) (off : BitVec 16) : SlotSem :=
  .result fun s => if brHolds cond (s.sReg a) then s.goTo (s.relative off) else s

def semJmp (off : BitVec 25) : SlotSem := .result fun s => s.goTo (s.relative off)

def semCall (off : BitVec 25) : SlotSem := .result fun s => (s.scalarResult 1 31 s.linkAddr).goTo (s.relative off)

def semJmpr (d a : BitVec 5) : SlotSem := jumpSem d a

def semRet : SlotSem := jumpSem 0 31

/-! ## FP32 (R160 to R162) -/

/-- F(s[a]). -/
def fpArg (v : Word) : Nat := v.toNat % 2 ^ 32

/-- A rounded result of FP32 operands A, B and D; an SR instruction counts one element. -/
def fpSem (rm : RMode) (d a b : BitVec 5) (f : (A B D : Val) → Val) : SlotSem :=
  .result fun s =>
    let arg (r : BitVec 5) : Val := decodeFloat fp32 (fpArg (s.sReg r))
    let v := roundVal fp32 rm (s.rnd 0) false (f (arg a) (arg b) (arg d))
    (s.scalarResult 4 d (BitVec.ofNat 64 v)).advanceRnd rm 1

def semFadd (rm : RMode) (d a b : BitVec 5) : SlotSem := fpSem rm d a b fun A B _ => valAdd (rm == .rd) A B
def semFsub (rm : RMode) (d a b : BitVec 5) : SlotSem := fpSem rm d a b fun A B _ => valAdd (rm == .rd) A (valNeg B)
def semFmul (rm : RMode) (d a b : BitVec 5) : SlotSem := fpSem rm d a b fun A B _ => valMul A B
def semFfma (rm : RMode) (d a b : BitVec 5) : SlotSem := fpSem rm d a b fun A B D => valAdd (rm == .rd) D (valMul A B)
def semFmin (d a b : BitVec 5) : SlotSem := fpSem .rne d a b fun A B _ => valMin A B
def semFmax (d a b : BitVec 5) : SlotSem := fpSem .rne d a b fun A B _ => valMax A B

def semFcmp (cond : FCond) (d a b : BitVec 5) : SlotSem :=
  .result fun s =>
    s.scalarResult 4 d (boolWord (valCmp cond (decodeFloat fp32 (fpArg (s.sReg a))) (decodeFloat fp32 (fpArg (s.sReg b)))))

/-- A value rounded to an integer and clamped to lo..hi; NaN gives 0. -/
def floatToInt (rm : RMode) (rnd : Nat) (lo hi : Int) (v : Val) : Int :=
  match v with
  | .nan => 0
  | .inf neg => if neg then lo else hi
  | v => let k := (valToInt rm rnd v).getD 0; if k < lo then lo else if hi < k then hi else k

/-- FRINT: the integral value nearest under the mode, with the sign kept on zero. -/
def roundIntegral (rm : RMode) (rnd : Nat) (c : Nat) : Nat :=
  match decodeFloat fp32 c with
  | .fin neg m e =>
    let k := ((valToInt rm rnd (.fin neg m e)).getD 0).natAbs
    roundVal fp32 .rne 0 false (.fin neg k 0)
  | v => rne fp32 v

/-- The value that FCVT leaves (R162). -/
def fcvtValue (kind : FcvtKind) (rm : RMode) (rnd : Nat) (v : Word) : Word :=
  let c := fpArg v
  let toInt (lo hi : Int) : Int := floatToInt rm rnd lo hi (decodeFloat fp32 c)
  let toF (k : Int) : Word := BitVec.ofNat 64 (roundVal fp32 rm rnd false (valOfNum k))
  match kind with
  | .ftoi64 => BitVec.ofInt 64 (toInt (-2 ^ 63) (2 ^ 63 - 1))
  | .fton64 => BitVec.ofInt 64 (toInt 0 (2 ^ 64 - 1))
  | .i64tof => toF v.toInt
  | .n64tof => toF v.toNat
  | .ftoi32 => BitVec.ofInt 64 (toInt (-2 ^ 31) (2 ^ 31 - 1))
  | .fton32 => BitVec.ofInt 64 (toInt 0 (2 ^ 32 - 1))
  | .frint => BitVec.ofNat 64 (roundIntegral rm rnd c)
  | .i32tof => toF (v.setWidth 32).toInt

def semFcvt (kind : FcvtKind) (rm : RMode) (d a : BitVec 5) : SlotSem :=
  .result fun s => (s.scalarResult 4 d (fcvtValue kind rm (s.rnd 0) (s.sReg a))).advanceRnd rm 1

/-! ## Meanings -/

/-- NORMAL in the header. -/
def execNormal (np : BitVec 5) (op : Option (BitVec 3)) (pop : BitVec 8) (s : State) : Answer :=
  inSlot 0 (semNormal np op pop) s

/-- SYNC in the header. -/
def execSync (np : BitVec 5) (op : Option (BitVec 3)) (pop : BitVec 8) (g : Group) (s : State) : Answer :=
  inSlot 0 (semSync np op pop g) s

/-- LOCK in the header. -/
def execLock (np : BitVec 5) (op : Option (BitVec 3)) (pop : BitVec 8) (pairs : BitVec 8) (count : BitVec 4) (s : State) : Answer :=
  inSlot 0 (semLock np op pop pairs count) s

/-- XPH in the header. -/
def execXph (np : BitVec 5) (op : Option (BitVec 3)) (pop : BitVec 8) (s : State) : Answer :=
  inSlot 0 (semXph np op pop) s

/-- NOP in S. -/
def execNop (s : State) : Answer := inSlot 1 semNop s

/-- ADD in S. -/
def execAdd (w : Width) (d a b : BitVec 5) (s : State) : Answer := inSlot 1 (semAdd w d a b) s

/-- SUB in S. -/
def execSub (w : Width) (d a b : BitVec 5) (s : State) : Answer := inSlot 1 (semSub w d a b) s

/-- AND in S. -/
def execAnd (w : Width) (d a b : BitVec 5) (s : State) : Answer := inSlot 1 (semAnd w d a b) s

/-- OR in S. -/
def execOr (w : Width) (d a b : BitVec 5) (s : State) : Answer := inSlot 1 (semOr w d a b) s

/-- XOR in S. -/
def execXor (w : Width) (d a b : BitVec 5) (s : State) : Answer := inSlot 1 (semXor w d a b) s

/-- SHL in S. -/
def execShl (w : Width) (d a b : BitVec 5) (s : State) : Answer := inSlot 1 (semShl w d a b) s

/-- SHR in S. -/
def execShr (w : Width) (d a b : BitVec 5) (s : State) : Answer := inSlot 1 (semShr w d a b) s

/-- SAR in S. -/
def execSar (w : Width) (d a b : BitVec 5) (s : State) : Answer := inSlot 1 (semSar w d a b) s

/-- MUL in S. -/
def execMul (w : Width) (d a b : BitVec 5) (s : State) : Answer := inSlot 1 (semMul w d a b) s

/-- MULHI in S. -/
def execMulhi (w : Width) (d a b : BitVec 5) (s : State) : Answer := inSlot 1 (semMulhi w d a b) s

/-- MULHN in S. -/
def execMulhn (w : Width) (d a b : BitVec 5) (s : State) : Answer := inSlot 1 (semMulhn w d a b) s

/-- DIV in S. -/
def execDiv (w : Width) (d a b : BitVec 5) (s : State) : Answer := inSlot 1 (semDiv w d a b) s

/-- DIVN in S. -/
def execDivn (w : Width) (d a b : BitVec 5) (s : State) : Answer := inSlot 1 (semDivn w d a b) s

/-- REM in S. -/
def execRem (w : Width) (d a b : BitVec 5) (s : State) : Answer := inSlot 1 (semRem w d a b) s

/-- REMN in S. -/
def execRemn (w : Width) (d a b : BitVec 5) (s : State) : Answer := inSlot 1 (semRemn w d a b) s

/-- MIN in S. -/
def execMin (w : Width) (d a b : BitVec 5) (s : State) : Answer := inSlot 1 (semMin w d a b) s

/-- MAX in S. -/
def execMax (w : Width) (d a b : BitVec 5) (s : State) : Answer := inSlot 1 (semMax w d a b) s

/-- MINN in S. -/
def execMinn (w : Width) (d a b : BitVec 5) (s : State) : Answer := inSlot 1 (semMinn w d a b) s

/-- MAXN in S. -/
def execMaxn (w : Width) (d a b : BitVec 5) (s : State) : Answer := inSlot 1 (semMaxn w d a b) s

/-- SLT in S. -/
def execSlt (w : Width) (d a b : BitVec 5) (s : State) : Answer := inSlot 1 (semSlt w d a b) s

/-- SLTN in S. -/
def execSltn (w : Width) (d a b : BitVec 5) (s : State) : Answer := inSlot 1 (semSltn w d a b) s

/-- SEQ in S. -/
def execSeq (w : Width) (d a b : BitVec 5) (s : State) : Answer := inSlot 1 (semSeq w d a b) s

/-- SEL in S. -/
def execSel (w : Width) (d a b : BitVec 5) (s : State) : Answer := inSlot 1 (semSel w d a b) s

/-- CLZ in S. -/
def execClz (w : Width) (d a : BitVec 5) (s : State) : Answer := inSlot 1 (semClz w d a) s

/-- POPC in S. -/
def execPopc (w : Width) (d a : BitVec 5) (s : State) : Answer := inSlot 1 (semPopc w d a) s

/-- CTZ in S. -/
def execCtz (w : Width) (d a : BitVec 5) (s : State) : Answer := inSlot 1 (semCtz w d a) s

/-- ROTL in S. -/
def execRotl (w : Width) (d a b : BitVec 5) (s : State) : Answer := inSlot 1 (semRotl w d a b) s

/-- BSWAP in S. -/
def execBswap (w : Width) (d a : BitVec 5) (s : State) : Answer := inSlot 1 (semBswap w d a) s

/-- EXTS in S. -/
def execExts (w : Width) (d a b : BitVec 5) (s : State) : Answer := inSlot 1 (semExts w d a b) s

/-- EXTZ in S. -/
def execExtz (w : Width) (d a b : BitVec 5) (s : State) : Answer := inSlot 1 (semExtz w d a b) s

/-- ADDI in S. -/
def execAddi (d a : BitVec 5) (imm : BitVec 15) (s : State) : Answer := inSlot 1 (semAddi d a imm) s

/-- ANDI in S. -/
def execAndi (d a : BitVec 5) (imm : BitVec 15) (s : State) : Answer := inSlot 1 (semAndi d a imm) s

/-- ORI in S. -/
def execOri (d a : BitVec 5) (imm : BitVec 15) (s : State) : Answer := inSlot 1 (semOri d a imm) s

/-- XORI in S. -/
def execXori (d a : BitVec 5) (imm : BitVec 15) (s : State) : Answer := inSlot 1 (semXori d a imm) s

/-- SHLI in S. -/
def execShli (d a : BitVec 5) (k : BitVec 6) (s : State) : Answer := inSlot 1 (semShli d a k) s

/-- SHRI in S. -/
def execShri (d a : BitVec 5) (k : BitVec 6) (s : State) : Answer := inSlot 1 (semShri d a k) s

/-- SARI in S. -/
def execSari (d a : BitVec 5) (k : BitVec 6) (s : State) : Answer := inSlot 1 (semSari d a k) s

/-- SLTI in S. -/
def execSlti (d a : BitVec 5) (imm : BitVec 15) (s : State) : Answer := inSlot 1 (semSlti d a imm) s

/-- SLTNI in S. -/
def execSltni (d a : BitVec 5) (imm : BitVec 15) (s : State) : Answer := inSlot 1 (semSltni d a imm) s

/-- MULI in S. -/
def execMuli (d a : BitVec 5) (imm : BitVec 15) (s : State) : Answer := inSlot 1 (semMuli d a imm) s

/-- LI in S. -/
def execLi (d : BitVec 5) (imm : BitVec 20) (s : State) : Answer := inSlot 1 (semLi d imm) s

/-- LIS in S. -/
def execLis (d : BitVec 5) (imm : BitVec 20) (s : State) : Answer := inSlot 1 (semLis d imm) s

/-- BR in S. -/
def execBr (cond : BrCond) (a : BitVec 5) (off : BitVec 16) (s : State) : Answer := inSlot 1 (semBr cond a off) s

/-- JMP in S. -/
def execJmp (off : BitVec 25) (s : State) : Answer := inSlot 1 (semJmp off) s

/-- CALL in S. -/
def execCall (off : BitVec 25) (s : State) : Answer := inSlot 1 (semCall off) s

/-- JMPR in S. -/
def execJmpr (d a : BitVec 5) (s : State) : Answer := inSlot 1 (semJmpr d a) s

/-- RET in S. -/
def execRet (s : State) : Answer := inSlot 1 semRet s

/-- FADD in S. -/
def execFadd (rm : RMode) (d a b : BitVec 5) (s : State) : Answer := inSlot 1 (semFadd rm d a b) s

/-- FSUB in S. -/
def execFsub (rm : RMode) (d a b : BitVec 5) (s : State) : Answer := inSlot 1 (semFsub rm d a b) s

/-- FMUL in S. -/
def execFmul (rm : RMode) (d a b : BitVec 5) (s : State) : Answer := inSlot 1 (semFmul rm d a b) s

/-- FFMA in S. -/
def execFfma (rm : RMode) (d a b : BitVec 5) (s : State) : Answer := inSlot 1 (semFfma rm d a b) s

/-- FMIN in S. -/
def execFmin (d a b : BitVec 5) (s : State) : Answer := inSlot 1 (semFmin d a b) s

/-- FMAX in S. -/
def execFmax (d a b : BitVec 5) (s : State) : Answer := inSlot 1 (semFmax d a b) s

/-- FCMP in S. -/
def execFcmp (cond : FCond) (d a b : BitVec 5) (s : State) : Answer := inSlot 1 (semFcmp cond d a b) s

/-- FCVT in S. -/
def execFcvt (kind : FcvtKind) (rm : RMode) (d a : BitVec 5) (s : State) : Answer := inSlot 1 (semFcvt kind rm d a) s

end Sys2Proof.Machine
end

