-- ==== Sys2Proof/Machine/System.lean ====
section
/-! DEFINITION. Machine/System.lean: the rest of the S slot: control registers and hardware queues, traps and the end of a
slice, waiting, place and time, power classes, and requests to the serai (spec 08 R165 to R177; 07 R147 to R155). -/

namespace Sys2Proof.Machine

/-! ## Hardware queues (R71, R151) -/

/-- Whether GETC finds a queue empty. -/
def Die.queueEmpty (d : Die) (n : Nat) : Bool :=
  match n with
  | 0xF00 => d.h2d.isEmpty
  | 0xF01 => d.ack.isEmpty
  | 0xF02 => d.qmsg.isEmpty
  | _ => d.qerr.isEmpty

/-- The head of a queue and the die without it; the first word that frees in the log takes a discard count owed. -/
def State.queuePop (s : State) (d n : Nat) : State × Word :=
  let x := s.die d
  match n with
  | 0xF00 => (s.modDie d fun y => { y with h2d := x.h2d.drop 1 }, x.h2d.headD 0)
  | 0xF01 => (s.modDie d fun y => { y with ack := x.ack.drop 1 }, x.ack.headD 0)
  | 0xF02 => (s.modDie d fun y => { y with qmsg := x.qmsg.drop 1 }, x.qmsg.headD 0)
  | _ => (s.modDieMsix d fun y => ({ y with qerr := x.qerr.drop 1 } : Die).payDiscard, x.qerr.headD 0)

/-- Whether SETC finds a queue full (R71, R151); a post that can enter the mailbox in the same cycle goes first (R446). -/
def State.queueFull (s : State) (d n : Nat) : Bool :=
  let x := s.die d
  match n with
  | 0xF00 => decide (256 ≤ x.d2h.length) || (!x.posts.isEmpty && decide (x.d2h.length + 3 ≤ 256))
  | 0xF01 => decide (16 ≤ x.ack.length) || (s.accepts && decide (16 ≤ x.fifo.length))
  | 0xF02 => decide (64 ≤ x.qmsg.length)
  | _ => decide (256 ≤ x.payDiscard.qerr.length)

/-- A word pushed by a core (R66, R71, R151). -/
def State.queuePush (s : State) (c n : Nat) (w : Word) : State :=
  let d := dieOf c
  match n with
  | 0xF00 => s.pushMailbox d w
  | 0xF01 =>
    let r := if s.accepts then s.enqueueLaunch d .queue w (some (c, (s.core c).flow.bun)) else (s, BitVec.allOnes 64)
    r.1.modDie d fun y => { y with ack := y.ack ++ [r.2], queueAt := some s.now }
  | 0xF02 => s.modDie d fun y => { y with qmsg := y.qmsg ++ [w] }
  | _ => s.modDieMsix d fun y => let y := y.payDiscard; { y with qerr := y.qerr ++ [w] }

/-! ## GETC and SETC (R147, R165) -/

/-- GETC of register `n`. -/
def getcSem (d : BitVec 5) (n : Nat) : SlotSem :=
  { check := fun s => cregTrap s.me.ctl.priv false n
    wait := fun s => if isQueueReg n && (s.die (dieOf s.cur)).queueEmpty n then some (.queue (BitVec.ofNat 12 n)) else none
    act := fun s =>
      let r := if isQueueReg n then s.queuePop (dieOf s.cur) n else (s, s.cregValue s.cur n)
      (r.1.scalarResult 1 d r.2, none) }

/-- SETC of register `n`: a queue takes the word at issue, any other register at issue + 1. -/
def setcSem (a : BitVec 5) (n : Nat) : SlotSem :=
  { check := fun s => cregTrap s.me.ctl.priv true n
    wait := fun s => if isQueueReg n && s.queueFull (dieOf s.cur) n then some (.queue (BitVec.ofNat 12 n)) else none
    act := fun s =>
      (if isQueueReg n then s.queuePush s.cur n (s.sReg a) else s.pend 1 (.creg (BitVec.ofNat 12 n) (s.sReg a)), none) }

def semGetc (d : BitVec 5) (creg : BitVec 12) : SlotSem := getcSem d creg.toNat
def semSetc (a : BitVec 5) (creg : BitVec 12) : SlotSem := setcSem a creg.toNat
def semGetcQhost (d : BitVec 5) : SlotSem := getcSem d 0xF00
def semGetcQserai (d : BitVec 5) : SlotSem := getcSem d 0xF01
def semGetcQmsg (d : BitVec 5) : SlotSem := getcSem d 0xF02
def semGetcQerr (d : BitVec 5) : SlotSem := getcSem d 0xF03
def semSetcQhost (a : BitVec 5) : SlotSem := setcSem a 0xF00
def semSetcQserai (a : BitVec 5) : SlotSem := setcSem a 0xF01
def semSetcQmsg (a : BitVec 5) : SlotSem := setcSem a 0xF02
def semSetcQerr (a : BitVec 5) : SlotSem := setcSem a 0xF03
def semSetcClip (a : BitVec 5) : SlotSem := setcSem a 0x020
def semSetcOplimit (a : BitVec 5) : SlotSem := setcSem a 0x470
def semCnpoolEnable (a : BitVec 5) : SlotSem := setcSem a 0x420
def semCnpoolDisable (a : BitVec 5) : SlotSem := setcSem a 0x420

/-! ## Traps and the end of a slice (R166 to R168) -/

/-- A trap taken after its bundle. -/
def afterSem (code c : BitVec 8) : SlotSem :=
  .result fun s => s.modCarry fun k => { k with after := some ⟨code, c.setWidth 64⟩ }

def semTrap (i : BitVec 8) : SlotSem := afterSem 0x21 i
def semBrk (c : BitVec 8) : SlotSem := afterSem 0x20 c

/-- ERET: its bundle freezes until every result of the handler has its data and its write stream (R407). -/
def semEret : SlotSem :=
  { check := fun s => if s.me.ctl.priv then none else some ⟨0x05, 0⟩
    wait := fun s => if s.me.flow.pending.all fun p => p.arrived && !s.me.rowHeld p then none else some .landing
    act := fun s => (s.modCarry fun k => { k with eret := true }, none) }

def semHalt : SlotSem :=
  { check := fun s => if s.me.ctl.handler then some ⟨0x02, 0⟩ else none
    act := fun s => (s.modCarry fun k => { k with halt := true }, none) }

/-! ## Waiting and waking (R169, R170) -/

/-- The first wake condition that holds, in the order of the table. -/
def State.wakeReason (s : State) (deadline : Word) : Option Nat :=
  let f := s.me.flow
  if f.signal then some 1
  else if (match f.monitor with | some (_, hit) => hit | none => false) then some 2
  else if deadline ≠ 0 ∧ deadline.toNat ≤ s.now then some 0
  else none

/-- SLEEP reaches issue: its monitor is armed once, with the only translation of its address, which is checked as that of an aligned read
and can raise page and protection faults only; and a wake condition that holds is noted. -/
def State.armSleep (s : State) (deadline va : Word) : State :=
  let s := if s.me.flow.sleepArmed then s
    else
      let s := s.modMe fun x => x.modFlow fun f => { f with sleepArmed := true }
      if va = 0 then s
      else match s.access s.cur .read va 8 with
        | (s, .ok r) => s.modMe fun x => x.modFlow fun f => { f with monitor := some (r.2 / 128, false) }
        | (s, .error t) => s.modMe fun x => x.modFlow fun f => { f with sleepFault := some t }
  if s.me.flow.sleepWoken.isSome then s
  else s.modMe fun x => x.modFlow fun f => { f with sleepWoken := s.wakeReason deadline }

/-- The walk for a monitor that is not armed yet waits while a maintenance slot holds the walkers (R420). -/
def State.armHeld (s : State) (va : Word) : Option Freeze :=
  if s.me.flow.sleepArmed ∨ va = 0 then none else s.walkWait [va]

def semSleep (d a b : BitVec 5) : SlotSem :=
  { reach := fun s => if (s.armHeld (s.sReg b)).isSome then s else s.armSleep (s.sReg a) (s.sReg b)
    wait := fun s =>
      firstSome [s.armHeld (s.sReg b), if s.me.flow.sleepWoken.isSome || s.me.flow.sleepFault.isSome then none else some .sleep]
    act := fun s =>
      match s.me.flow.sleepFault with
      | some t => (s, some t)
      | none =>
        let r := s.me.flow.sleepWoken.getD 0
        let s := if r = 1 then
            (s.modMe fun x => x.modFlow fun f => { f with signal := false }).clearCache (clusterOf s.cur) else s
        (s.scalarResult 1 d (BitVec.ofNat 64 r), none) }

/-- SLEEP_WAKE: a core frozen in SLEEP whose signal, line or deadline has come. The deadline is the model's own re-test at
issue; the event notes the other two. -/
def State.sleepWake (s : State) (c : Nat) : State :=
  let f := (s.core c).flow
  if f.frozen = some .sleep ∧ f.sleepWoken.isNone then
    let r := if f.signal then some 1
      else if (match f.monitor with | some (_, hit) => hit | none => false) then some 2 else none
    s.modCore c fun x => x.modFlow fun f => { f with sleepWoken := r }
  else s

def semSignal (a b : BitVec 5) : SlotSem :=
  .result fun s =>
    match s.me.run with
    | none => s
    | some r =>
      let k := (s.sReg a).toNat
      let g := (s.sReg b).toNat
      if r.g ≤ k ∨ r.d ≤ g then s
      else { s with signals := s.signals ++ [⟨s.cur, s.me.flow.bun, r.node, g, k⟩] }

/-- Whether what a core issued before bundle `bun` is performed: the release of SIGNAL, SPAWN and CTL.QSERAI (R360). -/
def State.releasedUpTo (s : State) (c bun : Nat) : Bool :=
  !((s.core c).mem.memq.any fun m => decide (m.bun < bun)) && !s.releaseWaits c bun

/-- SIGNAL_DELIVERY: signal `i` is performed at its target (R170). -/
def State.signalDelivery (s : State) (i : Nat) : State :=
  match s.signals[i]? with
  | none => s
  | some m =>
    if s.releasedUpTo m.core m.bun then
      let s := { s with signals := s.signals.eraseIdx i }
      let hit (r : Run) : Bool := r.node == m.node && r.gang == m.gang && r.core == m.target && !r.finished && !r.restore
      match s.cores.find? fun p => match p.2.run with | some r => hit r | none => false with
      | some (c, _) => s.modCore c fun x => x.modFlow fun f => { f with signal := true }
      | none =>
        s.modNode m.node fun n =>
          { n with saved := n.saved.map fun v =>
              if v.gang == m.gang && v.core == m.target && !(match v.ctx.run with | some r => r.finished | none => false) then
                { v with ctx := v.ctx.modFlow fun f => { f with signal := true } }
              else v }
    else s

/-! ## Time and place (R171 to R173) -/

def semTime (d : BitVec 5) : SlotSem := .result fun s => s.scalarResult 1 d (BitVec.ofNat 64 s.now)

def semCycle (d : BitVec 5) : SlotSem := .result fun s => s.scalarResult 1 d s.me.flow.count

/-- What SLOTQ answers (R172). -/
def Calendar.query (c : Calendar) (sel : BitVec 8) : Nat :=
  match sel.toNat with
  | 0 => slotStart c.nextSlot
  | 1 => slotLen c.nextSlot
  | 2 => if c.nextSlot % 1024 = 0 then 1 else 0
  | 3 => slotStart ((c.nextSlot + 1023) / 1024 * 1024)
  | _ => if c.now.isSome then 1 else 0

def semSlotq (d : BitVec 5) (sel : BitVec 8) : SlotSem :=
  .result fun s => s.scalarResult 1 d (BitVec.ofNat 64 (s.calendar.query sel))

/-- What WHO answers (R173). -/
def State.whoValue (s : State) (c : Nat) (sel : BitVec 8) : Nat :=
  let r := (s.core c).run
  let f (g : Run → Nat) : Nat := match r with | some r => g r | none => 0
  match sel.toNat with
  | 0 => f (·.slice)
  | 1 => f (·.ord)
  | 2 => f (·.core)
  | 3 => f (·.gang)
  | 4 => f (·.g)
  | 5 => f (·.d)
  | 6 => coreIdx c
  | 7 => dieOf c
  | _ => s.domMod.toNat

def semWho (d : BitVec 5) (sel : BitVec 8) : SlotSem :=
  .result fun s => s.scalarResult 1 d (BitVec.ofNat 64 (s.whoValue s.cur sel))

/-! ## Power classes (R155, R174, R175, R453, R454) -/

/-- Classes held on a die, with those that a reservation has been granted there. -/
def State.classesHeld (s : State) (d : Nat) : Nat :=
  (s.cores.map fun p => if dieOf p.1 = d ∧ p.2.run.isSome then p.2.ctl.cls.toNat else 0).sum +
  ((List.range 8).map fun h =>
    match (s.die h).resv with
    | some r =>
      if r.granted.contains d then
        (match s.node? r.node with | some n => n.classSum (r.gangs.findIdx fun p => p.1 == d) r.g | none => 0) else 0
    | none => 0).sum

/-- Whether a die grants a core a class now. -/
def State.grantsClass (s : State) (c : Nat) (cls : BitVec 3) : Bool :=
  let d := s.die (dieOf c)
  let own := (s.core c).ctl.cls
  decide (cls ≤ own) ||
    (!d.grant.fsafe && decide (s.classesHeld (dieOf c) - own.toNat + cls.toNat ≤ d.grant.budget))

def semPwracq (a : BitVec 5) : SlotSem :=
  let cls (s : State) : BitVec 3 := (s.sReg a).setWidth 3
  { reach := fun s =>
      if cls s ≤ s.me.ctl.cls then s
      else s.modMe fun x => x.modFlow fun f => { f with power := some (cls s) }
    wait := fun s => if cls s ≤ s.me.ctl.cls then none else some .power
    act := fun s => (s.modMe fun x => x.modCtl fun t => { t with cls := cls s }, none) }

/-- CLASS_GRANT: the class that a frozen PWRACQ asks for is granted. -/
def State.classGrant (s : State) (c : Nat) : State :=
  match (s.core c).flow.power with
  | none => s
  | some cls =>
    if s.grantsClass c cls then
      s.modCore c fun x => (x.modCtl fun t => { t with cls := cls }).modFlow fun f => { f with power := none }
    else s

def semPwrrel : SlotSem := .result fun s => s.modMe fun x => x.modCtl fun t => { t with cls := 0 }

/-- The highest class that a die could grant a core at once. -/
def State.grantable (s : State) (c : Nat) : BitVec 3 :=
  (List.range 8).foldl (fun b k => if s.grantsClass c (BitVec.ofNat 3 k) then BitVec.ofNat 3 k else b) 0

def semPwrq (d : BitVec 5) : SlotSem :=
  .result fun s =>
    s.scalarResult 1 d (field 16 (s.grantable s.cur) ||| pwrLevel (s.die (dieOf s.cur)) s.me.ctl.cls)

/-! ## Task requests (R176, R177) -/

/-- A request of the acting core to the serai of a die, whose answer lands in s[d] at issue + 1 by R139. -/
def State.askSerai (s : State) (d : BitVec 5) (die : Nat) (k : AskKind) : State :=
  let r := s.takeId
  (r.2.pendData 1 (.scalar d true 0) r.1 0 1 false).ask die
    { core := s.cur, id := r.1, own := if s.me.ctl.priv then none else some s.me.ctl.asid, kind := k }

/-- The launch word of SPAWN, under the caller's address space. -/
def State.spawnWord (s : State) (w : Word) : Word := (w &&& 0x000FFFFFFFFFFFFF) ||| (s.me.ctl.asid.setWidth 64 <<< 52)

def semSpawn (d a : BitVec 5) : SlotSem :=
  .result fun s => s.askSerai d (dieOf s.cur) (.launch (s.spawnWord (s.sReg a)) s.me.flow.bun)

/-- The die that a graph handle names (R68). -/
def handleDie (h : Word) : Nat := h.toNat / 2 ^ 32 % 8

def semCancel (d a b : BitVec 5) : SlotSem :=
  .result fun s => s.askSerai d (handleDie (s.sReg a)) (.cancel (s.sReg a) ((s.sReg b).toNat % 4096))

def semNodest (d a b : BitVec 5) : SlotSem :=
  .result fun s => s.askSerai d (handleDie (s.sReg a)) (.query (s.sReg a) ((s.sReg b).toNat % 4096))

/-- The node that CANCEL and NODEST name, for code of an address space or (none) the supervisor (R177). -/
def State.taskNode (s : State) (own : Option (BitVec 12)) (handle : Word) (idx : Nat) : Option Node :=
  match s.graph? handle with
  | none => none
  | some g =>
    if handle.toNat < 2 ^ 37 ∧ idx < g.nnodes ∧ (own = none ∨ own = some g.asn) then s.keptNode handle idx else none

/-- A cancel of a node: its result code (R80). The save frames of a node that is reserving on its way back from PREEMPTED are freed by it (log
entry 78). -/
def State.cancelNode (s : State) (n : Node) : State × Nat :=
  match n.state with
  | .waiting | .ready | .reserving =>
    let s := (s.releaseHolds n.id).freeFrames n
    ((s.setNodeState n.id .cancelled).propagate n.id, 0)
  | .running | .preempted | .retiring => (s, 1)
  | .done => (s, 2)
  | .cancelled | .killed | .rejected => (s, 3)

/-! ## Late writes of window registers (R387) -/

/-- A write of CTL.WCFG that is the first whose 32 ticks have passed takes effect. -/
def State.lateWindow (s : State) (w : BitVec 4) (v : Word) (en : Bool) : State :=
  match s.late with
  | [] => s
  | l :: t =>
    if decide (l.at_ ≤ s.now) && l.creg.toNat == 0x431 + 4 * w.toNat && l.v == v && v.getLsbD 63 == en then
      ({ s with late := t } : State).moduleWrite l.die l.creg.toNat l.v
    else s

/-! ## Events -/

/-- WINDOW_ENABLE. -/
def execWindowEnable (w : BitVec 4) (v : BitVec 64) (s : State) : Answer := asEvent (·.lateWindow w v true) s

/-- WINDOW_DISABLE. -/
def execWindowDisable (w : BitVec 4) (v : BitVec 64) (s : State) : Answer := asEvent (·.lateWindow w v false) s

/-- SLEEP_WAKE. -/
def execSleepWake (core : Nat) (s : State) : Answer := asEvent (·.sleepWake core) s

/-- CLASS_GRANT. -/
def execClassGrant (core : Nat) (s : State) : Answer := asEvent (·.classGrant core) s

/-- SIGNAL_DELIVERY. -/
def execSignalDelivery (i : Nat) (s : State) : Answer := asEvent (·.signalDelivery i) s

/-! ## Meanings -/

/-- GETC in S. -/
def execGetc (d : BitVec 5) (creg : BitVec 12) (s : State) : Answer := inSlot 1 (semGetc d creg) s

/-- SETC in S. -/
def execSetc (a : BitVec 5) (creg : BitVec 12) (s : State) : Answer := inSlot 1 (semSetc a creg) s

/-- GETC_QHOST in S. -/
def execGetcQhost (d : BitVec 5) (s : State) : Answer := inSlot 1 (semGetcQhost d) s

/-- GETC_QSERAI in S. -/
def execGetcQserai (d : BitVec 5) (s : State) : Answer := inSlot 1 (semGetcQserai d) s

/-- GETC_QMSG in S. -/
def execGetcQmsg (d : BitVec 5) (s : State) : Answer := inSlot 1 (semGetcQmsg d) s

/-- GETC_QERR in S. -/
def execGetcQerr (d : BitVec 5) (s : State) : Answer := inSlot 1 (semGetcQerr d) s

/-- SETC_QHOST in S. -/
def execSetcQhost (a : BitVec 5) (s : State) : Answer := inSlot 1 (semSetcQhost a) s

/-- SETC_QSERAI in S. -/
def execSetcQserai (a : BitVec 5) (s : State) : Answer := inSlot 1 (semSetcQserai a) s

/-- SETC_QMSG in S. -/
def execSetcQmsg (a : BitVec 5) (s : State) : Answer := inSlot 1 (semSetcQmsg a) s

/-- SETC_QERR in S. -/
def execSetcQerr (a : BitVec 5) (s : State) : Answer := inSlot 1 (semSetcQerr a) s

/-- SETC_CLIP in S. -/
def execSetcClip (a : BitVec 5) (s : State) : Answer := inSlot 1 (semSetcClip a) s

/-- SETC_OPLIMIT in S. -/
def execSetcOplimit (a : BitVec 5) (s : State) : Answer := inSlot 1 (semSetcOplimit a) s

/-- CNPOOL_ENABLE in S. -/
def execCnpoolEnable (a : BitVec 5) (s : State) : Answer := inSlot 1 (semCnpoolEnable a) s

/-- CNPOOL_DISABLE in S. -/
def execCnpoolDisable (a : BitVec 5) (s : State) : Answer := inSlot 1 (semCnpoolDisable a) s

/-- TRAP in S. -/
def execTrap (i : BitVec 8) (s : State) : Answer := inSlot 1 (semTrap i) s

/-- BRK in S. -/
def execBrk (c : BitVec 8) (s : State) : Answer := inSlot 1 (semBrk c) s

/-- ERET in S. -/
def execEret (s : State) : Answer := inSlot 1 semEret s

/-- HALT in S. -/
def execHalt (s : State) : Answer := inSlot 1 semHalt s

/-- SLEEP in S. -/
def execSleep (d a b : BitVec 5) (s : State) : Answer := inSlot 1 (semSleep d a b) s

/-- SIGNAL in S. -/
def execSignal (a b : BitVec 5) (s : State) : Answer := inSlot 1 (semSignal a b) s

/-- TIME in S. -/
def execTime (d : BitVec 5) (s : State) : Answer := inSlot 1 (semTime d) s

/-- CYCLE in S. -/
def execCycle (d : BitVec 5) (s : State) : Answer := inSlot 1 (semCycle d) s

/-- SLOTQ in S. -/
def execSlotq (d : BitVec 5) (sel : BitVec 8) (s : State) : Answer := inSlot 1 (semSlotq d sel) s

/-- WHO in S. -/
def execWho (d : BitVec 5) (sel : BitVec 8) (s : State) : Answer := inSlot 1 (semWho d sel) s

/-- PWRACQ in S. -/
def execPwracq (a : BitVec 5) (s : State) : Answer := inSlot 1 (semPwracq a) s

/-- PWRREL in S. -/
def execPwrrel (s : State) : Answer := inSlot 1 semPwrrel s

/-- PWRQ in S. -/
def execPwrq (d : BitVec 5) (s : State) : Answer := inSlot 1 (semPwrq d) s

/-- SPAWN in S. -/
def execSpawn (d a : BitVec 5) (s : State) : Answer := inSlot 1 (semSpawn d a) s

/-- CANCEL in S. -/
def execCancel (d a b : BitVec 5) (s : State) : Answer := inSlot 1 (semCancel d a b) s

/-- NODEST in S. -/
def execNodest (d a b : BitVec 5) (s : State) : Answer := inSlot 1 (semNodest d a b) s

end Sys2Proof.Machine
end

