-- ==== Sys2Proof/Machine/Preempt.lean ====
section
/-! DEFINITION. Machine/Preempt.lean: the supervisor kill, and pre-emption: frames, saving a context and restoring it (spec
19, R410 to R418). -/

namespace Sys2Proof.Machine

/-! ## Requests of the supervisor block (R410, R411, R439) -/

/-- A request register served: its code with DONE, and its message (R447). -/
def resultWord (code : Nat) : Word := BitVec.ofNat 64 (2 ^ 63 + code)

def State.setKResult (s : State) (d code : Nat) : State :=
  (s.modDie d fun x => { x with kResult := resultWord code }).signalDone (s.die d).kResult (8 * (d % 8) + 3)

def State.setPResult (s : State) (d code : Nat) : State :=
  (s.modDie d fun x => { x with pResult := resultWord code }).signalDone (s.die d).pResult (8 * (d % 8) + 3)

/-- KILL: a node that is RUNNING, PREEMPTED or RETIRING is stopped; the result code tells what was found. -/
def State.killRequest (s : State) (d : Nat) (v : Word) : State :=
  match s.requested d v with
  | none => s.setKResult d 15
  | some n =>
    match n.state with
    | .running | .preempted | .retiring => (s.killNode n.id).setKResult d 0
    | .waiting | .ready | .reserving => s.setKResult d 1
    | .done => s.setKResult d 2
    | .cancelled | .killed | .rejected => s.setKResult d 3

/-! ## Frames (R415, R418) -/

/-- Frames of a die's pool, and the local address of the pool. -/
def Die.nframes (d : Die) : Nat := bitsAt d.saveArea.toNat 0 12
def Die.frameBase (d : Die) : Nat := bitsAt d.saveArea.toNat 20 28 * 2 ^ 20
def frameSize : Nat := 786432

/-- The first frame of the lowest run of `n` free frames. -/
def freeRun (total : Nat) (used : List Nat) (n : Nat) : Option Nat :=
  (List.range total).find? fun f => decide (f + n ≤ total) && (List.range n).all fun i => !used.contains (f + i)

/-- Runs for a list of needs, each the lowest that remains. -/
def takeFrames (total : Nat) : List Nat → List Nat → Option (List Nat)
  | _, [] => some []
  | used, n :: t =>
    match freeRun total used n with
    | none => none
    | some f => (takeFrames total (used ++ (List.range n).map (f + ·)) t).map (f :: ·)

/-- Gang and core of each core of a node, gang-major. -/
def Node.places (n : Node) : List (Nat × Nat) :=
  (List.range n.gangs.length).flatMap fun g => (List.range n.g).map fun k => (g, k)

/-- Frames that core `k` of a gang needs: four for the lowest core of each cluster that the gang holds whole. -/
def Node.frameNeed (n : Node) (k : Nat) : Nat := if 8 ≤ n.g ∧ k % 8 = 0 then 4 else 1

/-! ## Beginning (R413, R414) -/

/-- Cause 0x30 becomes pending on every core of a node, whose frames are taken; none when the pool has too few. `die` is
the die that asks. -/
def State.beginPreemption (s : State) (n : Node) (die : Nat) : Option State :=
  let home := s.die n.die
  match takeFrames home.nframes home.frames (n.places.map fun p => n.frameNeed p.2) with
  | none => none
  | some fs =>
    let saved := (n.places.zip fs).map fun p => (⟨p.1.1, p.1.2, p.2, n.frameNeed p.1.2, {}, [], 0, [], false⟩ : SavedCore)
    let s := s.modNode n.id fun n => { n with saved := saved, stopping := true }
    let s := s.modDie n.die fun d =>
      { d with frames := d.frames ++ saved.flatMap (fun v => (List.range v.nframes).map (v.frame + ·))
               preempting := some n.id }
    let s := s.modDie die fun d => { d with preempting := some n.id }
    some ((s.coresOf n.id).foldl (fun s c => s.modCore c fun x => x.modFlow fun f => f.addCause ⟨0x30, 0⟩) s)

/-- PREEMPT: a request that meets a pre-emption in progress on its die waits for its end, and one whose node is still reloading its
contexts until they have all come back. -/
def State.preemptRequested (s : State) (d : Nat) (v : Word) : State :=
  match s.requested d v with
  | none => s.setPResult d 15
  | some n =>
    if n.state ≠ .running then s.setPResult d 1
    else if n.stopping then s.setPResult d 0
    else if (s.die d).preempting.isSome || !n.saved.isEmpty then s.modDie d fun x => { x with preemptWaits := x.preemptWaits ++ [v] }
    else match s.beginPreemption n d with
      | none => s.setPResult d 4
      | some s => s.setPResult d 0

/-- The first PREEMPT that waits on a die is served once no pre-emption is in progress there. -/
def State.serveWaiting (s : State) (d : Nat) : State :=
  match (s.die d).preempting, (s.die d).preemptWaits with
  | none, v :: t => (s.modDie d fun x => { x with preemptWaits := t }).preemptRequested d v
  | _, _ => s

/-! ## The frame (R416) -/

/-- Rows that hold entries of the landing buffer: results of timed loads, then drains. -/
def Core.bufferRows (x : Core) : List RowBits :=
  ((x.flow.pending.filter (·.buf)).map fun p => match p.res with | .row _ v _ _ => v | .scalar _ _ v => v.setWidth 4096 | _ => 0) ++
    x.mat.drains.map fun d => match d.row with | some r => r.bits | none => 0

/-- Tags of R416, a nibble each. -/
def Core.tagNibbles (x : Core) : List Nat :=
  (x.regs.tTag.toList ++ x.regs.o.toList.map (·.tag) ++
    [x.regs.lv0.tag, x.regs.lv1.tag, x.regs.lc0.tag, x.regs.lc1.tag, x.regs.lm.tag]).map encTag

def wordsBytes (l : List Word) : List Byte := l.flatMap fun w => natBytes 8 w.toNat

/-- The bytes of a frame after the scratchpad, up to 0x9_A590. -/
def Core.frameBytes (x : Core) : List Byte :=
  let rows (l : List RowBits) : List Byte := l.flatMap fun r => natBytes 512 r.toNat
  let r := x.regs
  (x.mat.bank.toList.flatMap fun b => natBytes 4096 b.toNat) ++
  (x.mat.comp.toList.flatMap fun b => natBytes 4096 b.toNat) ++
  rows r.t.toList ++
  rows ((x.bufferRows ++ List.replicate 64 0).take 64) ++
  rows (r.o.toList.map (·.bits)) ++
  rows [r.lv0.bits, r.lv1.bits, r.lc0.bits, r.lc1.bits, r.lm.bits] ++ List.replicate 0x600 0 ++
  wordsBytes r.s.toList ++ wordsBytes r.a.toList ++ wordsBytes r.k.toList ++ wordsBytes r.lc.toList ++
  wordsBytes [r.ls, x.flow.count, x.ctl.rndCount, x.ctl.cls.setWidth 64] ++
  natBytes 16 (packNat 4 x.tagNibbles) ++
  wordsBytes [x.ctl.trapPc.setWidth 64, x.ctl.trapCause, x.ctl.trapAddr, x.ctl.replay.setWidth 64] ++
  wordsBytes [x.ctl.xcoll, x.ctl.winIdx.setWidth 64] ++
  ([1, 2, 3].flatMap fun n => natBytes 128 (r.pReg (BitVec.ofNat 2 n)).toNat) ++
  wordsBytes [x.ctl.clip, 0]

/-- A block of whole lines is written at home by an engine (R416). -/
def State.blockWrite (s : State) (pa : Nat) (l : List Byte) : State :=
  let lo := pa / 128
  let hi := (pa + l.length + 127) / 128
  ({ s with hbm := memBlock s.hbm pa l, badLines := s.badLines.filter fun b => decide (b < lo) || decide (hi ≤ b) } : State).linesWritten
    lo hi

def State.frameAddr (s : State) (die f : Nat) : Nat :=
  s.domMod.toNat * 2 ^ 48 + (s.die die).frameBase + frameSize * f

/-! ## Saving (R414, R416) -/

/-- Whether what a core has issued is performed, its timed loads have arrived and its array commands are performed. -/
def Core.quiet (x : Core) : Bool :=
  x.mem.memq.isEmpty && x.mem.bulk.isEmpty && x.mem.outs.isEmpty && x.mat.cmds.isEmpty && x.flow.pending.all (·.arrived)

/-- The context of a core that has taken cause 0x30: CTL.TRAPPC and CTL.REPLAY name the bundle to resume (R400, R404). A core
that has ended its last slice takes no cause. -/
def Core.context (x : Core) : Core :=
  let sync : BitVec 16 := if x.flow.synced then 1 else 0
  let ended := match x.run with | some r => r.ended | none => false
  let y := x.withdraw.dropRows
  let y := if ended then y else y.modCtl fun t =>
    { t with trapCause := 0x930
             trapPc := if x.flow.redo = 0 then x.flow.trapPc else t.trapPc
             replay := (if x.flow.redo = 0 then 0 else t.replay) ||| sync }
  (y.modFlow fun f => { f with causes := f.causes.filter fun t => t.code != 0x30 }).modMat fun m => { m with lease := .idle }

/-- Whether a core is at a boundary where cause 0x30 is taken; the SYNC bundle of a group that has restarted comes to issue first
(R375). -/
def State.stopsHere (s : State) (c : Nat) : Bool :=
  let x := s.core c
  (match x.run with | some r => r.ended | none => false) ||
    (!x.flow.issue.isOpen && !(x.flow.restarted && x.flow.frozen.isNone) && (match x.run with | some r => !r.halted | none => false) &&
      (match s.boundaryCause c with | some t => t.code == 0x30 | none => false))

/-- The saved entry that a core of a stopping node fills. -/
def State.saveSlot (s : State) (c : Nat) : Option (Node × SavedCore) :=
  match (s.core c).run with
  | none => none
  | some r =>
    match s.node? r.node with
    | none => none
    | some n =>
      if n.stopping then (n.saved.find? fun v => v.gang == r.gang && v.core == r.core && v.ctx.run.isNone).map fun v => (n, v)
      else none

/-- Whether every other core of a node has stopped, with what it has issued done: before that no context of the node is saved (R308), and
nothing of the node changes the shared SRAM, the planes or its groups any more (R373, R414, R418). -/
def State.nodeQuiet (s : State) (id c : Nat) : Bool :=
  ((s.coresOf id).filter fun o => o != c).all fun o => s.stopsHere o && (s.core o).withdraw.quiet

/-- Whether a core is the one of its node that saves and reloads what belongs to its cluster. -/
def Node.lowest (n : Node) (g k : Nat) : Bool := k == 0 || coreIdx (n.coreAt g k) % 8 == 0

/-- A core stops: its waits are withdrawn, results that are due land, and rows of write streams that something waits for are written
(R228, R375). -/
def State.stopCore (s : State) (c : Nat) : State :=
  let s := (s.modCore c fun x => x.withdraw.modFlow fun f => { f with frozen := x.flow.frozen }).landDue c
  let below := max (s.core c).rowsBelow (s.rowsAsked c)
  s.pushAhead c fun p => decide (p.bun < below)

/-- A stopped core writes its frame and leaves the node once everything that it and the node's other cores have issued is done. -/
def State.preemptHere (s : State) (c : Nat) : State :=
  match s.saveSlot c with
  | none => s
  | some (n, v) =>
    let s := s.stopCore c
    if (s.core c).quiet && !s.calendar.hold && s.nodeQuiet n.id c then
      let ctx := (s.core c).context
      let pa := s.frameAddr n.die v.frame
      let spad := (List.range spadSize).map (s.spadByte c)
      let s := s.blockWrite pa (spad ++ ctx.frameBytes)
      let s := if v.nframes = 4 then
          s.blockWrite (pa + 0xC0000) ((List.range sramSize).map (s.sramByte (clusterOf c))) else s
      let s := s.modNode n.id fun n =>
        { n with saved := n.saved.map fun w => if w.gang == v.gang && w.core == v.core then { w with ctx := ctx } else w }
      s.modCore c Core.freed
    else s

/-- PREEMPT_REQUEST: a core at a boundary where cause 0x30 is taken (R414). -/
def State.preemptCore (s : State) (c : Nat) : State := if s.stopsHere c then s.preemptHere c else s

/-- The macros of a cluster that hold planes of a node (R308). -/
def State.ownedPlanes (s : State) (k id : Nat) : List (Nat × Macro) :=
  let own (p : Planes) : Bool := match p.key with | some q => q.node == id | none => false
  (List.range 8).filterMap fun m =>
    let x := (s.cluster k).macros.get (Fin.ofNat 8 m)
    if own x.active || own x.shadow then some (m, x) else none

/-- PREEMPTION_COMPLETE: every core of the victim has saved its frame, and the node is PREEMPTED (R414). -/
def State.preemptionDone (s : State) (id : Nat) : State :=
  match s.node? id with
  | none => s
  | some n =>
    if n.state == .running && n.stopping && n.saved.all fun v => v.ctx.run.isSome then
      let s := s.modNode id fun n =>
        { n with
          stopping := false, readyTick := s.now
          saved := n.saved.map fun v =>
            if n.lowest v.gang v.core then { v with keys := s.ownedPlanes (clusterOf (n.coreAt v.gang v.core)) id } else v }
      ((((s.setNodeState id .preempted).dropClaims id).endPreemption id).countDie n.die 0x152).serveWaiting n.die
    else s

/-! ## Restoring (R417) -/

/-- Bytes of HBM from `a` on. -/
def memBytes : Memory → Nat → Nat → List Byte
  | _, _, 0 => []
  | [], a, n + 1 => 0 :: memBytes [] (a + 1) n
  | (j, v) :: t, a, n + 1 => if j = a then v :: memBytes t (a + 1) n else 0 :: memBytes ((j, v) :: t) (a + 1) n

def State.blockRead (s : State) (pa n : Nat) : List Byte :=
  memBytes (s.hbm.filter fun p => decide (pa ≤ p.1) && decide (p.1 < pa + n)) pa n

/-- The lines of a block that hold an uncorrectable error (R426). -/
def State.blockErrors (s : State) (pa n : Nat) : List Nat :=
  s.badLines.filter fun l => decide (pa < l * 128 + 128) && decide (l * 128 < pa + n)

def tagOfNibble (n : Nat) : Tag := (decTag n).getD .EMPTY

/-- A core takes the items of R416 from the bytes of its frame after the scratchpad, and the rest from the saved context. What
belongs to the core and not to the context stays: operating point, balance, handler address, limits and timer. -/
def Core.restoreFrame (x : Core) (v : Core) (run : Run) (b : List Byte) : Core :=
  let at_ (off n : Nat) : Nat := bytesNat ((b.drop (off - 0x40000)).take n)
  let w (off : Nat) : Word := BitVec.ofNat 64 (at_ off 8)
  let row (off : Nat) : RowBits := BitVec.ofNat 4096 (at_ off 512)
  let tag (i : Nat) : Tag := tagOfNibble (at_ (0x9A3C0 + i / 2) 1 / 16 ^ (i % 2) % 16)
  let replay : BitVec 16 := BitVec.ofNat 16 (at_ 0x9A3E8 2)
  let pc : BitVec 47 := BitVec.ofNat 47 (at_ 0x9A3D0 8)
  let ended := run.ended
  { x with
    regs :=
      { s := Vector.ofFn fun i => w (0x9A000 + 8 * i.val), a := Vector.ofFn fun i => w (0x9A100 + 8 * i.val)
        k := Vector.ofFn fun i => w (0x9A180 + 8 * i.val), lc := Vector.ofFn fun i => w (0x9A380 + 8 * i.val)
        t := Vector.ofFn fun i => row (0x80000 + 512 * i.val), tTag := Vector.ofFn fun i => tag i.val
        o := Vector.ofFn fun i => ⟨row (0x98000 + 512 * i.val), tag (16 + i.val)⟩
        p := Vector.ofFn fun i => if i.val = 0 then v.regs.p.get 0 else BitVec.ofNat 1024 (at_ (0x9A400 + 128 * (i.val - 1)) 128)
        lv0 := ⟨row 0x99000, tag 24⟩, lv1 := ⟨row 0x99200, tag 25⟩, lc0 := ⟨row 0x99400, tag 26⟩
        lc1 := ⟨row 0x99600, tag 27⟩, lm := ⟨row 0x99800, tag 28⟩, ls := w 0x9A3A0 }
    ctl :=
      { v.ctl with
        rndCount := w 0x9A3B0, cls := BitVec.ofNat 3 (at_ 0x9A3B8 8), trapPc := pc, trapCause := w 0x9A3D8 &&& 0xFFF
        trapAddr := w 0x9A3E0, replay := replay, xcoll := w 0x9A3F0 &&& 3, winIdx := BitVec.ofNat 24 (at_ 0x9A3F8 8)
        clip := w 0x9A580, settle := x.ctl.settle, opTgt := x.ctl.opTgt, opCur := x.ctl.opCur
        settleLeft := x.ctl.settleLeft, bal := x.ctl.bal, trapVec := x.ctl.trapVec, opLimit := x.ctl.opLimit
        timerPassed := x.ctl.timerPassed }
    flow :=
      { v.flow with
        pc := if ended then v.flow.pc else pc.setWidth 59, count := w 0x9A3A8
        redo := if ended then 0 else replay, synced := !ended && replay.getLsbD 0, fetched := true
        bun := x.flow.bun, nextId := max x.flow.nextId v.flow.nextId }
    mem := { v.mem with epoch := x.mem.epoch, spad := [], written := 0, unseen := [], tlb := x.mem.tlb }
    mat :=
      { v.mat with
        bank := Vector.ofFn fun i => BitVec.ofNat 32768 (at_ (0x40000 + 4096 * i.val) 4096)
        comp := Vector.ofFn fun i => BitVec.ofNat 32768 (at_ (0x60000 + 4096 * i.val) 4096) }
    run := some { run with restore := false } }

/-- The planes to reload of those recorded: macro, whether active, planes and key. -/
def SavedCore.plan (v : SavedCore) (id : Nat) : List (Nat × Bool × Planes × PlaneKey) :=
  let own (m : Nat) (act : Bool) (p : Planes) : List (Nat × Bool × Planes × PlaneKey) :=
    match p.key with
    | some k => if k.node = id then [(m, act, p, k)] else []
    | none => []
  v.keys.flatMap fun e => own e.1 true e.2.active ++ own e.1 false e.2.shadow

/-- Planes take the bytes of their image, in their role (R308); they are watched where the image still holds those bytes. -/
def State.reloadPlanes (s : State) (c m : Nat) (act : Bool) (p : Planes) (k : PlaneKey) (bytes : List Byte) : State :=
  let q := planesOf k.wfmt bytes
  let s := q.2.foldl (fun s e => s.logError (dieOf c) e.2 [BitVec.ofNat 64 (imageAddr k.pages (512 * e.1))]) s
  let same := decide ((k.pages.flatMap fun r => natBytes r.2 (memRead s.hbm r.1 r.2)) = bytes)
  let new : Planes := { q.1 with key := some { k with watch := same }, inval := p.inval }
  (s.moveImage (dieOf c) bytes.length).modMacro (clusterOf c) m fun x => if act then { x with active := new } else { x with shadow := new }

/-- An entry of a node's saved contexts changed. -/
def State.modSaved (s : State) (id : Nat) (v : SavedCore) (f : SavedCore → SavedCore) : State :=
  s.modNode id fun n => { n with saved := n.saved.map fun w => if w.gang == v.gang && w.core == v.core then f w else w }

/-- Whether the planes and the SRAM of every cluster of a returning node have come back: before that none of its gangs restarts
(R308, R418). -/
def Node.loaded (n : Node) : Bool := n.saved.all fun v => v.loaded || !n.lowest v.gang v.core

/-- The shared SRAM of a cluster comes back, and its cores may restart (R418). -/
def State.restoreSram (s : State) (c : Nat) (n : Node) (v : SavedCore) : State :=
  let s := if v.nframes = 4 then
      let pa := s.frameAddr n.die v.frame + 0xC0000
      let l := s.blockRead pa sramSize
      (s.lineErrors (some c) (s.blockErrors pa sramSize)).modCluster (clusterOf c) fun k => { k with sram := memBlock [] 0 l }
    else s
  s.modSaved n.id v fun w => { w with loaded := true }

/-- A further access of what a cluster of a returning node needs before its cores restart (R308, R418): the claim on its array, which waits
for the end of another node's; a line part of an image; planes whose image has been read; then the shared SRAM. -/
def State.restoreCluster (s : State) (c : Nat) (n : Node) (v : SavedCore) : State :=
  match (v.plan n.id)[v.reloaded]? with
  | none => s.restoreSram c n v
  | some (m, act, p, k) =>
    match (s.cluster (clusterOf c)).claim with
    | none => s.modCluster (clusterOf c) fun x => { x with claim := some n.id }
    | some o =>
      if o ≠ n.id then s
      else match nextPart k.pages v.got.length with
        | some (pa, len) =>
          let r := s.physRead (some c) pa len
          r.1.modSaved n.id v fun w => { w with got := w.got ++ natBytes len r.2 }
        | none =>
          (s.reloadPlanes c m act p k v.got).modSaved n.id v fun w => { w with reloaded := w.reloaded + 1, got := [] }

/-- A core takes its context from its frame. -/
def State.restoreCore (s : State) (c : Nat) (n : Node) (v : SavedCore) (r : Run) : State :=
  let pa := s.frameAddr n.die v.frame
  let b := s.blockRead (pa + 0x40000) (0x9A590 - 0x40000)
  let spad := s.blockRead pa spadSize
  let s := s.lineErrors (some c) (s.blockErrors pa 0x9A590)
  let s := s.modCore c fun x => x.restoreFrame v.ctx r b
  s.modCore c fun x => x.modMem fun m => { m with spad := memBlock [] 0 spad, written := BitVec.allOnes 262144 }

/-- CONTEXT_RESTORE: the lowest core of a cluster of a returning node reloads what belongs to the cluster; once every cluster has it, a core
reloads its frame and resumes. The frames are free once every core has resumed. -/
def State.contextRestore (s : State) (c : Nat) : State :=
  match (s.core c).run with
  | none => s
  | some r =>
    match s.node? r.node with
    | none => s
    | some n =>
      match n.saved.find? fun v => v.gang == r.gang && v.core == r.core with
      | none => s
      | some v =>
        if !r.restore || s.calendar.hold then s
        else if n.lowest r.gang r.core && !v.loaded then s.restoreCluster c n v
        else if n.loaded then
          let s := s.restoreCore c n v r
          if (s.coresOf n.id).any fun o => match (s.core o).run with | some r => r.restore | none => false then s
          else s.freeFrames n
        else s

/-! ## Meanings -/

/-- PREEMPT_REQUEST. -/
def execPreemptRequest (core : Nat) (s : State) : Answer := asEvent (·.preemptCore core) s

/-- PREEMPTION_COMPLETE. -/
def execPreemptionComplete (node : Nat) (s : State) : Answer := asEvent (·.preemptionDone node) s

/-- CONTEXT_RESTORE. -/
def execContextRestore (core : Nat) (s : State) : Answer := asEvent (·.contextRestore core) s

end Sys2Proof.Machine
end

