-- ==== Sys2Proof/Machine/Serai.lean ====
section
/-! DEFINITION. Machine/Serai.lean: launch requests of the host, admission of graphs, and the life of the nodes that a serai
holds, up to placement (spec 03, R52 to R63; 04, R66 to R82). -/

namespace Sys2Proof.Machine

/-! ## Requests to a serai (R66, R69, R75, R80, R82, R410, R465) -/

/-- The answer to a core's request lands in its register (R139). -/
def State.answer (s : State) (a : Ask) (v : Word) : State := s.fill a.core a.id 0 (Result.setScalar v)

/-- The node that a cancel or a query names. -/
def State.askedNode (s : State) (d : Nat) (a : Ask) : Option Node :=
  match a.kind with
  | .cancel h idx | .query h idx => s.taskNode a.own h idx
  | .hostCancel v | .hostQuery v => s.requested d v
  | _ => none

def Ask.isCancel (a : Ask) : Bool :=
  match a.kind with
  | .cancel _ _ | .hostCancel _ => true
  | _ => false

def Ask.isQuery (a : Ask) : Bool :=
  match a.kind with
  | .query _ _ | .hostQuery _ => true
  | _ => false

def Ask.isLaunch (a : Ask) : Bool :=
  match a.kind with
  | .launch _ _ => true
  | _ => false

/-- The order of cancels, and of launches, in one cycle: the host first, then by die and core of the requests (R66, R82). -/
def Ask.rank (a : Ask) : Nat :=
  match a.kind with
  | .cancel _ _ | .query _ _ | .launch _ _ => a.core + 1
  | _ => 0

/-- The requests of a list in that order. -/
def inRank (l : List Ask) : List Ask := sortBy (fun a b => decide (a.rank ≤ b.rank)) l

/-- A code or a state is given to whoever asked: the host in its result register, a core in its own. -/
def State.giveCode (s : State) (d : Nat) (a : Ask) (code : Nat) : State :=
  match a.kind with
  | .hostCancel _ => (s.modDie d fun x => { x with lcResult := resultWord code }).signalDone (s.die d).lcResult (8 * (d % 8) + 2)
  | .hostQuery _ => (s.modDie d fun x => { x with lqResult := resultWord code }).signalDone (s.die d).lqResult (8 * (d % 8) + 2)
  | _ => s.answer a (BitVec.ofNat 64 code)

/-- Whether a cancel of node `r` reaches another node by propagation. -/
def State.propagatesTo (s : State) (r t : Nat) : Bool :=
  r != t && match s.node? r with
    | some n =>
      (n.state == .waiting || n.state == .ready || n.state == .reserving) &&
        (match (s.cancelNode n).1.node? t with
          | some m => m.state == .cancelled && (match s.node? t with | some m => m.state != .cancelled | none => false)
          | none => false)
    | none => false

/-- One cancel is served; `before` is the state that the cycle's cancels found and `roots` the nodes that they name: propagation from
another of these comes first (R82). -/
def State.serveCancel (before : State) (roots : List Nat) (d : Nat) (s : State) (a : Ask) : State :=
  match s.askedNode d a with
  | none => s.giveCode d a 15
  | some n =>
    let r := s.cancelNode n
    r.1.giveCode d a (if roots.any fun k => before.propagatesTo k n.id then 3 else r.2)

/-- The cancels of a cycle. -/
def State.serveCancels (s : State) (d : Nat) (l : List Ask) : State :=
  let l := inRank (l.filter Ask.isCancel)
  l.foldl (s.serveCancel (l.filterMap fun a => (s.askedNode d a).map (·.id)) d) s

/-- A SPAWN enters the launch FIFO, or has all ones for its answer (R71). -/
def State.serveSpawn (d : Nat) (s : State) (a : Ask) : State :=
  match a.kind with
  | .launch w bun =>
    if s.launchRoom d then
      let r := s.enqueueLaunch d .spawn w (some (a.core, bun))
      r.1.answer a r.2
    else s.answer a (BitVec.allOnes 64)
  | _ => s

/-- Kills and pre-emptions, in arrival order. -/
def State.serveSupervisor (d : Nat) (s : State) (a : Ask) : State :=
  match a.kind with
  | .kill v => s.killRequest d v
  | .preempt v => s.preemptRequested d v
  | _ => s

/-- The requests that have reached a serai, but for its queries, which are kept: kills and pre-emptions first (log entry 62), then the
cancels, then the launches. -/
def State.serveAsks (s : State) (d : Nat) : State :=
  let l := (s.die d).asks
  let s := s.modDie d fun x => { x with asks := l.filter Ask.isQuery }
  let s := (l.foldl (State.serveSupervisor d) s).serveCancels d l
  (inRank (l.filter Ask.isLaunch)).foldl (State.serveSpawn d) s

/-- The queries of a cycle are answered after all its other events (R82). -/
def State.serveQueries (s : State) (d : Nat) : State :=
  let l := (s.die d).asks
  let s := s.modDie d fun x => { x with asks := [] }
  l.foldl (fun s a => s.giveCode d a (match s.askedNode d a with | some n => stateCode n.state | none => 15)) s

/-! ## Reading a graph (R52, R61, R62, R72) -/

/-- The place that the serai of a die reads at a virtual address of an address space: present, HBM, not content-named. What its walk finds wrong
is logged on the serai's die (log entry 39). -/
def State.seraiAddr (s : State) (d : Nat) (asn : BitVec 12) (va : Nat) : State × Option Nat :=
  if 2 ^ 52 ≤ va then (s, none)
  else match s.walk asn va with
    | .error f =>
      ((match f.log with
        | some pa => s.logError d 0x21 [BitVec.ofNat 64 pa]
        | none => s), none)
    | .ok l => (s, if !l.cn && s.place (l.pa va) == .hbm then some (l.pa va) else none)

/-- `n` bytes at a virtual address, as a number, read by the serai; no node asks for them, and an uncorrectable line kills no one (log
entry 63). -/
def State.seraiRead (s : State) (d : Nat) (asn : BitVec 12) (va n : Nat) : State × Option Nat :=
  match (s.lineErrors none (s.walkErrors asn va)).seraiAddr d asn va with
  | (s, none) => (s, none)
  | (s, some pa) => (s.lineErrors none ((linesOf pa n).filter s.badLines.contains), some (memRead s.hbm pa n))

/-- A field of `n` bytes at byte `off` of a record. -/
def bytesAt (r off n : Nat) : Nat := bitsAt r (8 * off) (8 * n)

/-- A graph header (R61). -/
structure GraphHeader where
  nnodes : Nat
  nsuccs : Nat
  nodes : Nat
  succs : Nat
  deriving DecidableEq, Repr

/-- The address of the header and the address space that a launch word names (R67). -/
def launchVa (w : Word) : Nat := bitsAt w.toNat 6 46 * 64
def launchAsn (w : Word) : BitVec 12 := w.extractLsb' 52 12

/-- The header of a launch, when it is valid (R72). -/
def State.readHeader (s : State) (d : Nat) (w : Word) : State × Option GraphHeader :=
  if w.toNat % 64 ≠ 0 then (s, none)
  else match s.seraiRead d (launchAsn w) (launchVa w) 64 with
    | (s, none) => (s, none)
    | (s, some r) =>
      let h : GraphHeader := ⟨bytesAt r 0 4, bytesAt r 4 4, bytesAt r 8 8, bytesAt r 16 8⟩
      (s, if decide (1 ≤ h.nnodes) && decide (h.nnodes ≤ 4096) && decide (h.nsuccs ≤ 65536) && h.nodes % 256 == 0 &&
            h.succs % 4 == 0 && bytesAt r 24 40 == 0 then some h else none)

/-- The entry of a rejection (R63, R72). -/
def State.logReject (s : State) (d : Nat) (handle : Word) (va check idx : Nat) : State :=
  s.modDieMsix d fun x =>
    x.pushEntry [BitVec.ofNat 64 (0x10 + 2 * 2 ^ 8 + check * 2 ^ 16 + idx * 2 ^ 24), handle, BitVec.ofNat 64 va]

/-! ## The checks of a record (R53 to R56, R63) -/

def recExtent (r k : Nat) : Nat := bytesAt r (0x20 + 8 * k) 4
def recTile (r k : Nat) : Nat := bytesAt r (0x24 + 8 * k) 4
def recPerm (r k : Nat) : Nat := bitsAt r (8 * 0x1B + 2 * k) 2
def recBase (r j : Nat) : Nat := bytesAt r (0x90 + 16 * j) 8
def recKind (r j : Nat) : Nat := bytesAt r (0x9C + 16 * j) 1

/-- Number of tiles (R56). -/
def recTiles (r : Nat) : Nat :=
  (List.range (bytesAt r 0x1A 1)).foldl (fun n k => n * ((recExtent r k + recTile r k - 1) / recTile r k)) 1

/-- PERM lists each dimension in use once, and is zero elsewhere. -/
def permOk (r : Nat) : Bool :=
  let nd := bytesAt r 0x1A 1
  (List.range 4).all fun k =>
    if k < nd then ((List.range nd).filter fun j => recPerm r j == k).length == 1 else recPerm r k == 0

/-- EXTENT and TILE of every dimension, and the number of tiles. -/
def nestOk (r : Nat) : Bool :=
  let nd := bytesAt r 0x1A 1
  ((List.range 4).all fun k =>
    if k < nd then recExtent r k != 0 && recTile r k != 0 else recExtent r k == 1 && recTile r k == 1) &&
    decide (recTiles r ≤ 2 ^ 40)

/-- The tile operand declarations. -/
def opsOk (r : Nat) : Bool :=
  let n := bytesAt r 0x88 1
  decide (n ≤ 6) && (List.range 6).all fun j =>
    if j < n then recBase r j % 128 == 0 && recKind r j % 16 != 0 && recKind r j % 16 != 15 && bitsAt (recKind r j) 4 2 != 0
    else bytesAt r (0x90 + 16 * j) 16 == 0

/-- The reserved bits and bytes of a record that R53 to R55 name. -/
def reservedOk (r : Nat) : Bool :=
  bitsAt (bytesAt r 0x0D 1) 2 6 == 0 && bitsAt (bytesAt r 0x0E 1) 3 5 == 0 && bitsAt (bytesAt r 0x0F 1) 2 6 == 0 &&
  bytesAt r 0x1C 4 == 0 && bytesAt r 0x89 7 == 0 && bytesAt r 0xF8 8 == 0 &&
  (List.range (bytesAt r 0x88 1)).all fun j =>
    recBase r j / 2 ^ 52 == 0 && recKind r j / 64 == 0 && bytesAt r (0x9D + 16 * j) 3 == 0

/-- Checks 1 to 9 of R63 that need the record alone, with their numbers. -/
def recordChecks (nsuccs r : Nat) : List (Nat × Bool) :=
  let gang := bytesAt r 0x18 1
  let dies := bytesAt r 0x19 1
  let nd := bytesAt r 0x1A 1
  [(1, bytesAt r 0 8 % 32 == 0 && decide (bytesAt r 0 8 < 2 ^ 52)),
   (2, decide (1 ≤ bytesAt r 0x14 4) && decide (bytesAt r 0x14 4 ≤ 65536)),
   (3, decide (gang ≤ 9) || gang == 15),
   (4, decide (1 ≤ dies) && decide (dies ≤ 8) && (bitsAt (bytesAt r 0x0F 1) 1 1 == 1 || dies == 1)),
   (5, decide (1 ≤ nd) && decide (nd ≤ 4)),
   (6, permOk r), (7, nestOk r), (8, opsOk r),
   (9, decide (bytesAt r 0xF0 4 + bytesAt r 0xF4 2 ≤ nsuccs))]

/-- The number of the first failed check, if any; `ents` are the successor entries, `none` one that cannot be read. An entry that cannot
be read gives 11 whatever the values of the record's other entries are (log entry 64). -/
def rejectNumber (h : GraphHeader) (r : Nat) (ents : List (Option Nat)) : Option Nat :=
  match (recordChecks h.nsuccs r).find? fun p => !p.2 with
  | some p => some p.1
  | none =>
    let l := ents.filterMap id
    if ents.any Option.isNone then some 11
    else if l.any fun e => decide (h.nnodes ≤ e % 4096) then some 9
    else if !reservedOk r || l.any fun e => e / 4096 != 0 then some 10
    else none

/-- The fields of a record (R53). -/
def recordOf (r : Nat) (ents : List Nat) : NodeRec :=
  { entry := BitVec.ofNat 64 (bytesAt r 0 8), nodeId := BitVec.ofNat 32 (bytesAt r 8 4), stage := BitVec.ofNat 8 (bytesAt r 0x0C 1)
    prio := BitVec.ofNat 2 (bytesAt r 0x0D 1), pclass := BitVec.ofNat 3 (bytesAt r 0x0E 1)
    spread := bitsAt (bytesAt r 0x0F 1) 1 1 == 1, post := bitsAt (bytesAt r 0x0F 1) 0 1 == 1
    inst := BitVec.ofNat 32 (bytesAt r 0x10 4), vwidth := bytesAt r 0x14 4, gang := bytesAt r 0x18 1, dies := bytesAt r 0x19 1
    tiles := recTiles r, seed := BitVec.ofNat 64 (bytesAt r 0x40 8)
    args := (List.range 8).map fun k => BitVec.ofNat 64 (bytesAt r (0x48 + 8 * k) 8)
    bases := (List.range (bytesAt r 0x88 1)).map fun j => BitVec.ofNat 64 (recBase r j)
    nsucc := bytesAt r 0xF4 2, npred := bytesAt r 0xF6 2, succs := ents }

/-! ## Admission (R74) -/

/-- The successor entries that a record names, each as far as it can be read; none is read where the bound of check 9 does not hold. -/
def State.readEntries (s : State) (d : Nat) (asn : BitVec 12) (h : GraphHeader) (r : Nat) : State × List (Option Nat) :=
  let first := bytesAt r 0xF0 4
  let n := bytesAt r 0xF4 2
  if h.nsuccs < first + n then (s, [])
  else (List.range n).foldl (fun acc j =>
    let e := acc.1.seraiRead d asn (h.succs + 4 * (first + j)) 4
    (e.1, acc.2 ++ [e.2])) (s, [])

/-- One record is read and checked; its node enters the serai, and a rejection is logged. A rejected node keeps the successors that its
readable entries name, which its rejection cancels (R62, R81). -/
def State.admitNode (s : State) (d : Nat) (w : Launch) (h : GraphHeader) (idx : Nat) : State :=
  let asn := launchAsn w.word
  let va := launchVa w.word
  let id := s.nextNode
  let add (s : State) (st : NodeState) (r : NodeRec) : State :=
    { s with nextNode := id + 1
             nodes := s.nodes ++ [{ id := id, die := d, idx := idx, handle := w.handle, record := r, state := st
                                    preds := r.npred, readyTick := s.now }] }
  match s.seraiRead d asn (h.nodes + 256 * idx) 256 with
  | (s, none) => add (s.logReject d w.handle va 11 idx) .rejected {}
  | (s, some r) =>
    match s.readEntries d asn h r with
    | (s, ents) =>
      let known := (ents.filterMap fun e => e).filter fun e => decide (e % 4096 < h.nnodes)
      let rec_ := recordOf r (known.map (· % 4096))
      match rejectNumber h r ents with
      | some k => add (s.logReject d w.handle va k idx) .rejected rec_
      | none => add s (if rec_.npred = 0 then .ready else .waiting) rec_

/-- GRAPH_ADMISSION: the graph at the head of the launch FIFO, once what its launch must follow is performed (R73) and there
is room for all its nodes. While the module accepts no graph, none that waits in a FIFO is admitted either (log entry 65). -/
def State.graphAdmission (s : State) (d : Nat) : State :=
  match (s.die d).fifo with
  | [] => s
  | w :: t =>
    let released := match w.after with | some (c, bun) => s.releasedUpTo c bun | none => true
    if !s.accepts || s.calendar.hold || !released then s
    else match s.readHeader d w.word with
      | (s, none) => (s.modDie d fun x => { x with fifo := t }).logReject d w.handle (launchVa w.word) 0 0
      | (s, some h) =>
        if s.seraiFree d < h.nnodes then s
        else
          let s := s.modDie d fun x => { x with fifo := t }
          let g : Graph := ⟨w.handle, d, launchAsn w.word, BitVec.ofNat 64 (launchVa w.word), h.nnodes, none⟩
          let s : State := { s with graphs := s.graphs ++ [g] }
          let s := (List.range h.nnodes).foldl (fun s i => s.admitNode d w h i) s
          let rejected := s.nodes.filter fun n => n.handle == w.handle && n.state == .rejected
          (rejected.foldl (fun s n => s.propagate n.id) s).settleGraph w.handle

/-- NODE_STATE_EXPIRY: graph `i` of those held, all final for more than 100,000 ticks, is forgotten (R75). -/
def State.stateExpiry (s : State) (i : Nat) : State :=
  match s.graphs[i]? with
  | none => s
  | some g =>
    match g.finalAt with
    | none => s
    | some t =>
      if t + 100000 < s.now then
        { s with graphs := s.graphs.eraseIdx i, nodes := s.nodes.filter fun n => n.handle != g.handle }
      else s

/-! ## Rank (R78) -/

/-- The level of a node: its priority, or the level at which it last ran, raised by waiting. -/
def State.levelOf (s : State) (n : Node) : Nat :=
  min 3 ((if n.ranOnce then n.level else n.record.prio.toNat) + (s.now - n.readyTick) / 100000)

/-- What the dispatch order compares, the first least: level, ready tick, source, sequence number, index. -/
def State.rankKey (s : State) (n : Node) : List Nat :=
  [3 - s.levelOf n, n.readyTick, n.handle.toNat / 2 ^ 35, n.handle.toNat % 2 ^ 32, n.idx]

/-- The ranked nodes of a die, best first. -/
def State.ranked (s : State) (d : Nat) : List Node :=
  sortBy (fun a b => lexLe (s.rankKey a) (s.rankKey b)) (s.nodes.filter fun n =>
    n.die == d && (n.state == .ready || n.state == .preempted) &&
      (match n.backoff with | some t => decide (t ≤ s.now) | none => true))

/-- BACKOFF_END (R88). -/
def State.backoffEnd (s : State) (id : Nat) : State :=
  s.modNode id fun n => match n.backoff with
    | some t => if t ≤ s.now then { n with backoff := none } else n
    | none => n

/-! ## End of a slice and of a node (R92, R95, R168, R435, R438) -/

/-- Whether the work of a halted slice is complete. -/
def Core.sliceQuiet (x : Core) : Bool :=
  x.mem.memq.isEmpty && x.mem.bulk.isEmpty && x.mem.outs.isEmpty && x.mat.cmds.isEmpty && x.mem.cn.isEmpty &&
    x.mem.unseen.isEmpty && x.flow.pending.isEmpty

/-- SLICE_END: once the results of a halted slice have landed and its work is complete, its streams, loops, latches of work and signal go,
and the core's next slice starts; after the last slice of the node it is RETIRING. -/
def State.sliceEnd (s : State) (c : Nat) : State :=
  match (s.core c).run with
  | none => s
  | some r =>
    match s.node? r.node with
    | none => s
    | some n =>
      if r.halted && !r.ended && (s.core c).sliceQuiet && !s.reapingOf c then
        let s := s.modCore c fun x =>
          { x with
            flow := { x.flow with loops := Vector.replicate 4 {}, signal := false, carry := {} }
            mem := { x.mem with streams := [] }
            mat := { x.mat with drains := [], lease := .idle }
            run := some { r with ended := true } }
        let s := s.modNode n.id fun n => { n with haltedSlices := n.haltedSlices + 1 }
        if r.last then
          if n.haltedSlices + 1 = n.record.vwidth then
            ((s.freeFrames n).setNodeState n.id .retiring).dropClaims n.id
          else s
        else s.startSlice c n r.gang r.core (r.ord + 1)
      else s

/-! ## Meanings -/

/-- GRAPH_ADMISSION. -/
def execGraphAdmission (die : BitVec 3) (s : State) : Answer := asEvent (·.graphAdmission die.toNat) s

/-- NODE_STATE_EXPIRY. -/
def execNodeStateExpiry (graph : Nat) (s : State) : Answer := asEvent (·.stateExpiry graph) s

/-- BACKOFF_END. -/
def execBackoffEnd (node : Nat) (s : State) : Answer := asEvent (·.backoffEnd node) s

/-- SLICE_END. -/
def execSliceEnd (core : Nat) (s : State) : Answer := asEvent (·.sliceEnd core) s

/-- RETIREMENT. -/
def execRetirement (node : Nat) (s : State) : Answer := asEvent (·.retire node) s

/-- COMPLETION_POST. -/
def execCompletionPost (die : BitVec 3) (s : State) : Answer := asEvent (·.placePost die.toNat) s

end Sys2Proof.Machine
end

