-- ==== Sys2Proof/Machine/Placement.lean ====
section
/-! DEFINITION. Machine/Placement.lean: the serai's cycle, the two phases of a reservation, the commit of the gangs, and the
choice of a victim (spec 04, R78, R79; 05, R83 to R95; 07, R153; 19, R413; 21, R436). -/

namespace Sys2Proof.Machine

/-! ## Free cores (R19, R83, R86, R89) -/

/-- Whether both routers of a core's strip are bypassed: the strip takes no new gangs (R19). -/
def State.deadStrip (s : State) (c : Nat) : Bool :=
  let b := s.wear.routerBits (dieOf c)
  b.getLsbD (2 * s.stripOf c) && b.getLsbD (2 * s.stripOf c + 1)

/-- The cores of a range of a die. -/
def gangRange (d b g : Nat) : List Nat := (List.range g).map fun k => coreKey d (b + k)

/-- Whether no core of a range runs a node or is set aside by the supervisor. Cores that another reservation holds count as free here:
the hold then fails. -/
def State.rangeFree (s : State) (d b g : Nat) : Bool :=
  decide (b + g ≤ s.part.coreCount d) &&
    (gangRange d b g).all fun c => (s.core c).run.isNone && !s.deadStrip c && !(s.die d).aside.contains (coreIdx c)

/-- The supervisor sets a core aside, or gives it back (R86; log entry 32). -/
def State.setAside (s : State) (c : Nat) (on : Bool) : State :=
  s.modDie (dieOf c) fun d =>
    { d with aside := if on then coreIdx c :: d.aside.filter (· != coreIdx c) else d.aside.filter (· != coreIdx c) }

/-- The range that the affinity table records for a stage, when it is free (R89). -/
def State.affine (s : State) (d : Nat) (n : Node) (g : Nat) : Option Nat :=
  match (s.die d).affinity.lookup n.record.stage.toNat with
  | some e => if e.g = g ∧ s.rangeFree d e.base g then some e.base else none
  | none => none

/-- The base for a gang on a die: by affinity, or the lowest that is free. -/
def State.chooseBase (s : State) (d : Nat) (n : Node) (g : Nat) : Option Nat :=
  match s.affine d n g with
  | some b => some b
  | none => ((List.range (s.part.coreCount d / g)).map (· * g)).find? fun b => s.rangeFree d b g

/-- Gang size and the number of gangs aimed at; a returning node keeps those of its first commit (R57, R84, R85). -/
def State.sizeOf (s : State) (n : Node) : Nat := if n.saved.isEmpty then s.gangSize n.die n.record else n.g
def State.dmax (s : State) (n : Node) : Nat :=
  if n.saved.isEmpty then
    (if n.record.spread then min n.record.dies (n.record.vwidth / s.gangSize n.die n.record) else 1)
  else n.gangs.length

/-- A hold of a range for a node: it fails on a core that runs or is held (R86, R87). -/
def State.tryHold (s : State) (n : Node) (d b g : Nat) : Option State :=
  if s.rangeFree d b g && (List.range g).all fun k => mapGet 0 (b + k) (s.die d).busy == 0 then
    some (s.modDie d fun x => { x with busy := (List.range g).foldl (fun m k => mapSet (b + k) (n.id + 1) m) x.busy })
  else none

/-! ## Phase one and phase two (R86 to R88) -/

/-- Ticks of back-off after the k-th conflict. -/
def backoffTicks (k : Nat) : Nat := min 8192 (64 * 2 ^ (k - 1))

/-- A conflict: every hold is released, and the node goes back with its back-off. -/
def State.conflict (s : State) (id : Nat) : State :=
  (s.releaseHolds id).modNode id fun n =>
    { n with state := if n.saved.isEmpty then .ready else .preempted
             conflicts := n.conflicts + 1, backoff := some (s.now + backoffTicks (n.conflicts + 1)) }

def State.modResv (s : State) (d : Nat) (f : Reservation → Reservation) : State :=
  s.modDie d fun x => { x with resv := x.resv.map f }

/-- Whether a die grants gang `j` of a node its classes: the budget that it was last granted holds them (R86, R453). -/
def State.grantsGang (s : State) (d : Nat) (n : Node) (j g : Nat) : Bool :=
  decide (s.classesHeld d + n.classSum j g ≤ (s.die d).grant.budget)

/-- Phase two: the home die answers at once, the other dies are asked. A returning node needs all its gangs (R85). -/
def State.askPower (s : State) (d : Nat) : State :=
  match (s.die d).resv with
  | none => s
  | some r =>
    match s.node? r.node with
    | none => s
    | some n =>
      if (!n.saved.isEmpty && decide (r.gangs.length < n.gangs.length)) || !s.grantsGang d n 0 r.g then s.conflict r.node
      else s.modResv d fun r => { r with granted := [d], powers := (r.gangs.drop 1).map (·.1), since := s.now, asked := s.now }

/-- The next die to ask for a hold, up to `fuel` of them, or phase two. -/
def State.nextHold (s : State) (d : Nat) : Nat → State
  | 0 => s.askPower d
  | fuel + 1 =>
    match (s.die d).resv with
    | none => s
    | some r =>
      match s.node? r.node with
      | none => s
      | some n =>
        if s.dmax n ≤ r.gangs.length ∨ 7 ≤ r.tried then s.askPower d
        else
          let other := (d + r.tried + 1) % 8
          let s := s.modResv d fun r => { r with tried := r.tried + 1 }
          match s.chooseBase other n r.g with
          | some b => s.modResv d fun r => { r with holds := [(other, b)], since := s.now, asked := s.now }
          | none => s.nextHold d fuel

/-- A reservation begins: the home die's hold is answered in its cycle. -/
def State.beginReservation (s : State) (d : Nat) (n : Node) (b g : Nat) : State :=
  let s := s.modNode n.id fun n => { n with state := .reserving }
  match s.tryHold n d b g with
  | none => s.conflict n.id
  | some s => (s.modDie d fun x => { x with resv := some ⟨n.id, g, [(d, b)], [], 0, [], [], s.now, s.now⟩ }).nextHold d 7

/-- Whether an answer comes too late (R86). -/
def Reservation.late (r : Reservation) (now : Nat) : Bool := decide (r.asked + 32 < now)

/-- The hold that a die has asked for fails: the next die is asked. -/
def State.holdFails (s : State) (d : Nat) : State := (s.modResv d fun r => { r with holds := [], since := s.now }).nextHold d 7

/-- Die `other` answers the hold that the serai of die `d` has asked for; a late answer counts as a failure. -/
def State.answerHold (s : State) (d other : Nat) : State :=
  match (s.die d).resv with
  | none => s
  | some r =>
    match s.node? r.node, r.holds.lookup other with
    | some n, some b =>
      match if r.late s.now then none else s.tryHold n other b r.g with
      | some s => (s.modResv d fun r => { r with holds := [], since := s.now, gangs := r.gangs ++ [(other, b)] }).nextHold d 7
      | none => s.holdFails d
    | _, _ => s

/-- A die refuses a gang its classes: the gang is dropped with its holds; a returning node needs all its gangs (R85). -/
def State.powerRefused (s : State) (d other : Nat) (n : Node) : State :=
  if !n.saved.isEmpty then s.conflict n.id
  else
    let s := s.modDie other fun x => { x with busy := x.busy.filter fun p => p.2 != n.id + 1 }
    s.modResv d fun r => { r with gangs := r.gangs.filter fun p => p.1 != other }

/-- Die `other` answers the request for the classes of its gang, or has not answered in time, which counts as a refusal (log entry 32). -/
def State.answerPower (s : State) (d other : Nat) (late : Bool) : State :=
  match (s.die d).resv with
  | none => s
  | some r =>
    match s.node? r.node with
    | none => s
    | some n =>
      if !r.powers.contains other then s
      else
        let j := r.gangs.findIdx fun p => p.1 == other
        let s := s.modResv d fun r => { r with powers := r.powers.filter (· != other), since := s.now }
        if !late && s.grantsGang other n j r.g then s.modResv d fun r => { r with granted := r.granted ++ [other] }
        else s.powerRefused d other n

/-- HOLD_TIMEOUT: a hold, or a request for classes, that has had no answer for 32 ticks counts as failed. The time goes on during a major
slot, where no answer comes (log entry 67). -/
def State.holdTimeout (s : State) (d other : Nat) : State :=
  match (s.die d).resv with
  | none => s
  | some r =>
    if !r.late s.now then s
    else if (r.holds.lookup other).isSome then s.holdFails d
    else s.answerPower d other true

/-- POWER_ANSWER. -/
def State.powerAnswer (s : State) (d other : Nat) : State :=
  if s.majorNow then s
  else match (s.die d).resv with
    | none => s
    | some r => s.answerPower d other (r.late s.now)

/-! ## Commit (R59, R85, R86, R89, R91, R95, R153, R436) -/

/-- A core holds a class. -/
def Core.holdClass (x : Core) (c : BitVec 3) : Core := x.modCtl fun t => { t with cls := c }

/-- A saved run that waits on its core for its context. -/
def Run.returning (r : Run) (j k : Nat) : Run := { r with gang := j, core := k, restore := true }

/-- A core of a committed gang begins its first slice, or waits to reload its saved context. -/
def State.startCore (s : State) (n : Node) (c j k : Nat) : State :=
  let s := match n.saved.find? fun v => v.gang == j && v.core == k with
    | none => (s.startSlice c n j k 0).modCore c fun x => x.holdClass n.record.pclass
    | some v => s.modCore c fun x => { x.holdClass v.ctx.ctl.cls with run := v.ctx.run.map (Run.returning · j k) }
  s.requestOp c 5

/-- A gang of a committed node starts on its range; the read caches of its clusters are invalidated first, and the range is
recorded for the stage. -/
def State.startGang (s : State) (n : Node) (j d b : Nat) : State :=
  let cs := gangRange d b n.g
  let s := ((cs.map clusterOf).dedup).foldl (fun (s : State) k => s.modCluster k fun x => { x with cache := [], fills := [] }) s
  let s := cs.zipIdx.foldl (fun (s : State) (p : Nat × Nat) => s.startCore n p.1 j p.2) s
  s.modDie d fun x => { x with affinity := mapSet n.record.stage.toNat ⟨b, n.g⟩ x.affinity }

/-- The gangs of a reservation that stand on strips without routers now (R19). -/
def State.deadGangs (s : State) (r : Reservation) : List (Nat × Nat) :=
  r.gangs.filter fun p => (gangRange p.1 p.2 r.g).any s.deadStrip

/-- The kept gangs of a reservation commit, and its node is RUNNING. -/
def State.commitGangs (s : State) (n : Node) (g : Nat) (gangs : List (Nat × Nat)) : State :=
  let level := s.levelOf n
  let s := s.releaseHolds n.id
  let s := s.modNode n.id fun n =>
    { n with state := .running, ranOnce := true, level := level, conflicts := 0, backoff := none, commitTick := s.now
             g := g, gangs := gangs }
  match s.node? n.id with
  | none => s
  | some n => gangs.zipIdx.foldl (fun (s : State) (p : (Nat × Nat) × Nat) => s.startGang n p.2 p.1.1 p.1.2) s

/-- RESERVATION_COMMIT: in a serai cycle after the last answer. A strip that takes no gangs since then counts as a refusal of its die (log
entry 41). -/
def State.commit (s : State) (d : Nat) : State :=
  match (s.die d).resv with
  | none => s
  | some r =>
    match s.node? r.node with
    | none => s
    | some n =>
      if s.majorNow || !r.holds.isEmpty || !r.powers.isEmpty || !r.granted.contains d || decide (s.now ≤ r.since) then s
      else
        let dead := s.deadGangs r
        if dead.any (fun p => p.1 == d) || (!dead.isEmpty && !n.saved.isEmpty) then s.conflict n.id
        else s.commitGangs n r.g (r.gangs.filter fun p => !dead.contains p)

/-! ## The serai's cycle (R79, R413) -/

/-- Whether a node would hold the look-ahead window alone. -/
def State.starving (s : State) (n : Node) : Bool := s.levelOf n == 3 && decide (n.readyTick + 400000 ≤ s.now)

/-- The node that still holds the window of a die alone. -/
def State.aloneNode (s : State) (d : Nat) : Option Node :=
  match (s.die d).alone with
  | none => none
  | some id =>
    match s.node? id with
    | some n => if n.state == .ready || n.state == .preempted || n.state == .reserving then some n else none
    | none => none

/-- The look-ahead window, and the node that holds it alone, if one does. -/
def State.window8 (s : State) (d : Nat) : List Node × Option Nat :=
  let l := s.ranked d
  match s.aloneNode d with
  | some n => (l.filter fun m => m.id == n.id, some n.id)
  | none =>
    match l with
    | [] => ([], none)
    | n :: t => if s.starving n then ([n], some n.id) else ((n :: t).take 8, none)

/-- Whether a node with a gang on a die may be a victim there, and what decides among several. A node that is still reloading its contexts
may not (R85, R414). -/
def Node.mayYield (n : Node) (d : Nat) : Bool :=
  n.state == .running && !n.stopping && n.saved.isEmpty && decide (n.level < 3) && n.gangs.any fun p => p.1 == d

def Node.victimKey (n : Node) : List Nat :=
  [n.level, 2 ^ 64 - n.commitTick, 2 ^ 64 - n.handle.toNat / 2 ^ 35, 2 ^ 64 - n.handle.toNat % 2 ^ 32, 4096 - n.idx]

/-- SERAI_PREEMPTION: a node that holds the window alone and cannot reserve makes a victim yield (R413). -/
def State.chooseVictim (s : State) (d : Nat) : State :=
  if (s.die d).preempting.isSome then s
  else
    match sortBy (fun a b => lexLe a.victimKey b.victimKey) (s.nodes.filter fun n => n.mayYield d) with
    | [] => s
    | v :: _ => if (s.die v.die).preempting.isSome then s else (s.beginPreemption v d).getD s

/-- The window is offered to placement, nodes whose stage's range is free first; at most one reservation is in progress in a serai. One node
is tried in a cycle: after a conflict on the home die the next is offered in the next cycle (log entry 66). -/
def State.placeNext (s : State) (d : Nat) : State :=
  if s.majorNow || (s.die d).resv.isSome then s
  else
    let w := s.window8 d
    let s := s.modDie d fun x => { x with alone := w.2 }
    let near (n : Node) : Bool := (s.affine d n (s.sizeOf n)).isSome
    let order := w.1.filter near ++ w.1.filter fun n => !near n
    match order.findSome? fun n => (s.chooseBase d n (s.sizeOf n)).map fun b => (n, b) with
    | some (n, b) => s.beginReservation d n b (s.sizeOf n)
    | none => if w.2.isSome && !w.1.isEmpty then s.chooseVictim d else s

/-- Whether the serai of a die has had its cycle in this tick (R465). -/
def State.cycled (s : State) (d : Nat) : Bool := (s.die d).cycle == some s.now

/-- The one cycle of a serai in a tick: a commit that is due, the requests that have reached it, placement, and then the queries (R66,
R79, R82, R465). -/
def State.cycle (s : State) (d : Nat) : State :=
  if s.cycled d then s
  else
    let s := ({ s with lastHold := some (s.now, d) } : State).modDie d fun x => { x with cycle := some s.now }
    (((s.commit d).serveAsks d).placeNext d).serveQueries d

/-- The cycles of the dies below `n`. -/
def State.cycles (s : State) (n : Nat) : State := (List.range n).foldl State.cycle s

/-- Whether a hold of home die `d` may still come in this tick: none of a higher-numbered home die has been made in it, over which it would
have to succeed (R87). -/
def State.holdTurn (s : State) (d : Nat) : Bool :=
  match s.lastHold with
  | some (t, e) => t != s.now || decide (e ≤ d)
  | none => true

/-- SERAI_CYCLE: the cycles of a tick go by ascending die (R87). -/
def State.seraiCycle (s : State) (d : Nat) : State := s.cycles (d + 1)

/-- HOLD_ANSWER: after the holds of lower-numbered home dies in this tick, and before its home die's own cycle, whose queries see what it
brings (R82, R87). -/
def State.holdAnswer (s : State) (d other : Nat) : State :=
  let due := match (s.die d).resv with | some r => (r.holds.lookup other).isSome | none => false
  if s.majorNow || !due || s.cycled d || !s.holdTurn d then s
  else
    let s := s.cycles d
    ({ s with lastHold := some (s.now, d) } : State).answerHold d other

/-! ## Meanings -/

/-- SERAI_CYCLE. -/
def execSeraiCycle (die : BitVec 3) (s : State) : Answer := asEvent (·.seraiCycle die.toNat) s

/-- HOLD_ANSWER. -/
def execHoldAnswer (die other : BitVec 3) (s : State) : Answer := asEvent (·.holdAnswer die.toNat other.toNat) s

/-- HOLD_TIMEOUT. -/
def execHoldTimeout (die other : BitVec 3) (s : State) : Answer := asEvent (·.holdTimeout die.toNat other.toNat) s

/-- POWER_ANSWER. -/
def execPowerAnswer (die other : BitVec 3) (s : State) : Answer := asEvent (·.powerAnswer die.toNat other.toNat) s

/-- RESERVATION_COMMIT. -/
def execReservationCommit (die : BitVec 3) (s : State) : Answer := asEvent (·.commit die.toNat) s

end Sys2Proof.Machine
end

