-- ==== Sys2Proof/Machine/HostPort.lean ====
section
/-! DEFINITION. Machine/HostPort.lean: the host's requests through the PCIe function: the control window, the memory window,
atomic operations, mailboxes, MSI-X and attestation (spec 11, R245; 19, R410; 22, R441 to R447; 23, R463), and the
uncorrectable errors that they and the cores meet (19, R426, R427). -/

namespace Sys2Proof.Machine

/-! ## Uncorrectable errors (R426, R427) -/

/-- The structure codes of R427. -/
def placeCode : ErrorPlace → Nat
  | .hbm => 0
  | .msCache => 1
  | .l2Data => 2
  | .l2Tags => 3
  | .directory => 4
  | .coreState => 5
  | .planes => 6
  | .serai => 7
  | .windowPartials => 8

/-- The entry of an uncorrectable error, and its count. -/
def State.logUe (s : State) (die place : Nat) (pa : Nat) (seq : BitVec 32) : State :=
  (s.logError die 0x60 [BitVec.ofNat 64 (die % 8 * 2 ^ 16 + place * 2 ^ 8), BitVec.ofNat 64 pa, seq.setWidth 64]).countDie die 0x141

/-- SEQ of a node, and of the node that a core runs, or 0. -/
def State.nodeSeq (s : State) (id : Nat) : BitVec 32 := match s.node? id with | some n => n.handle.setWidth 32 | none => 0
def State.seqOf (s : State) (c : Nat) : BitVec 32 := match s.nodeOf c with | some id => s.nodeSeq id | none => 0

/-- The structure that holds the error of a line: the HBM, unless an error found elsewhere made the line bad. -/
def State.badPlace (s : State) (pa : Nat) : Nat := mapGet 0 (pa / 128) s.badPlaces

/-- A node ends by an uncorrectable error of its own state (R19, R426). -/
def State.stateError (s : State) (die : Nat) (place : ErrorPlace) (pa id : Nat) : State :=
  (s.logUe die (placeCode place) pa (s.nodeSeq id)).killNode id

/-- The access of a core to a module that is gone: every such access of the core's node is dropped, and the node is killed (R449). -/
def State.unreachable (s : State) (c pa : Nat) : State :=
  let gone := modOf pa
  if gone = s.domMod.toNat then s
  else
    let s := if s.lostModules.contains gone then s else { s with lostModules := s.lostModules ++ [gone] }
    if s.losing c then s.lostAccess c else (s.logError (dieOf c) 0x70 [BitVec.ofNat 64 pa]).killCore c

/-- An access met an uncorrectable line at home: the requesting node is killed, and a host request kills no one; or it met a module that
is gone. -/
def State.lineError (s : State) (who : Option Nat) (pa : Nat) : State :=
  let die := (s.homeOf pa).1
  match who with
  | none => s.logUe die (s.badPlace pa) pa 0
  | some c =>
    if s.lostModules.contains (modOf pa) then s.unreachable c pa
    else (s.logUe die (s.badPlace pa) pa (s.seqOf c)).killCore c

/-! ## The memory window (R442, R443) -/

/-- The domain address of a local physical address. -/
def State.homePa (s : State) (pa : Nat) : Nat := s.domMod.toNat * 2 ^ 48 + pa

/-- Bytes of a request at local address `pa` that lie in HBM. -/
def hbmPart (pa len : Nat) : Nat := if pa < hbmSize then min len (hbmSize - pa) else 0

/-- The first bytes of a request at `pa` that lie in one line: a line part, which is of one kind and in one unit (R355, R442). -/
def firstPart (pa len : Nat) : Nat := min len (128 - pa % 128)

/-- One line part that the host reads: none where the line is uncorrectable. The control window and reserved ranges read as zero. -/
def State.hostReadPart (s : State) (pa len : Nat) : State × Option (List Byte) :=
  match s.region pa with
  | .hbm =>
    let r := s.hbmRead none (s.homePa pa) len
    (r.1, if s.badLines.contains (s.homePa pa / 128) then none else some (natBytes len r.2))
  | .spad c off => (s, some ((List.range len).map fun i => s.remoteByte c (off + i)))
  | .sram k off => (s, some ((List.range len).map fun i => s.sramByte k (off + i)))
  | _ => (s, some (List.replicate len 0))

/-- One line part that the host writes. -/
def State.hostWritePart (s : State) (pa : Nat) (l : List Byte) : State :=
  match s.region pa with
  | .hbm => s.hbmWrite none (s.homePa pa) l
  | .spad c off => s.spadStore c (l.zipIdx.map fun p => (off + p.2, p.1))
  | .sram k off => s.sramStore k (l.zipIdx.map fun p => (off + p.2, p.1))
  | _ => s

/-- A host atomic: on aligned HBM it is one step at the home slice; elsewhere it is aborted. -/
def State.hostAtomic (s : State) (pa len : Nat) (op : AtomicOp) (v c : Nat) : State :=
  if len = 16 ∨ hbmPart pa len < len ∨ pa % len ≠ 0 then { s with reply := .abort }
  else if s.badLines.contains (s.homePa pa / 128) then { s.lineErrors none [s.homePa pa / 128] with reply := .abort }
  else
    let r := s.atomicStep none op (s.homePa pa) len v c
    { r.1 with reply := .word (BitVec.ofNat 64 r.2.1) }

/-! ## Attestation (R463) -/

/-- What a report holds: the nonce, the digests, the generation, the key, and the signature over these. -/
def State.reportBytes (s : State) : List Byte :=
  let body := natBytes 32 s.attest.nonce.toNat ++ (natBytes 32 s.fwDigest.toNat).reverse ++
    (natBytes 32 (sha256 s.capabilities)).reverse ++ natBytes 8 s.wear.generation.toNat ++ natBytes 48 Config.identityKey.toNat
  body ++ natBytes 16224 (Config.identitySign body).toNat

/-- AGO: a report begins, unless one is in progress. -/
def State.startReport (s : State) : State :=
  if s.attest.busy then s
  else { s with attest := { s.attest with busy := true, done := false, inProgress := s.reportBytes } }

/-- ATTESTATION_REPORT: the report in progress is complete. -/
def State.endReport (s : State) : State :=
  if s.attest.busy then
    { s with attest := { s.attest with busy := false, done := true, report := s.attest.inProgress, inProgress := [] } }
  else s

/-! ## The bridge (R420, R441, R442, R444) -/

/-- Whether an access of the control window is one that the host may make: eight bytes, aligned (R441). -/
def barOk (off len : Nat) : Bool := len == 8 && off % 8 == 0 && decide (off < 2 ^ 24)

/-- A host write of the control window; one of MWBASE has taken effect at its arrival. -/
def State.hostRegister (s : State) (off : Nat) (v : Word) : State :=
  if off = 0x40020 then s.startReport else if off = 0xB000 then s else s.controlWrite 0 off v

/-- A request of the host is performed, one of the memory window by its first line part, and what is left of it. -/
def State.hostServe (s : State) (r : HostReq) : State × Option HostReq :=
  match r with
  | .read pa len got =>
    let n := firstPart pa len
    match s.hostReadPart pa n with
    | (s, none) => ({ s with reply := .abort }, none)
    | (s, some l) =>
      if len ≤ n then ({ s with reply := .bytes (got ++ l) }, none) else (s, some (.read (pa + n) (len - n) (got ++ l)))
  | .write pa data =>
    let n := firstPart pa data.length
    (s.hostWritePart pa (data.take n), if data.length ≤ n then none else some (.write (pa + n) (data.drop n)))
  | .atomic pa len op v c => (s.hostAtomic pa len op v c, none)
  | .readReg off len =>
    (if barOk off len then { (s.controlRead off).1 with reply := .word (s.controlRead off).2 } else { s with reply := .unsupported }, none)
  | .writeReg off len v => (if barOk off len then s.hostRegister off v else { s with reply := .unsupported }, none)
  | .unmask v => (s.unmask v, none)

/-- Whether a request is a posted write. -/
def HostReq.posted : HostReq → Bool
  | .write _ _ | .writeReg _ _ _ | .unmask _ => true
  | _ => false

/-- Whether request `e` may go before request `q`, which has waited longer (R444). -/
def BridgeReq.passes (e q : BridgeReq) : Bool := q.slow && !(q.tc == e.tc && q.req.posted)

/-- Whether a lock holds the bank that a request reaches next (R235, R237). -/
def State.hostLocked (s : State) (r : HostReq) : Bool :=
  match r with
  | .read pa len _ => s.lockedAt (s.homePa pa) (firstPart pa len)
  | .write pa data => s.lockedAt (s.homePa pa) (firstPart pa data.length)
  | _ => false

/-- Request `i` at the bridge is performed, when no maintenance slot and no lock holds it and every request before it lets it pass. -/
def State.hostServeAt (s : State) (i : Nat) : State :=
  match s.hostQ[i]? with
  | none => s
  | some e =>
    if s.calendar.hold || s.hostLocked e.req || !((s.hostQ.take i).all e.passes) then s
    else
      match ({ s with hostQ := s.hostQ.eraseIdx i } : State).hostServe e.req with
      | (s, none) => s
      | (s, some r) => { s with hostQ := s.hostQ.take i ++ { e with req := r } :: s.hostQ.drop i }

/-- A write of MWBASE takes effect when it arrives, for the requests that arrive after it (R442). -/
def State.arrival (s : State) (r : HostReq) : State :=
  match r with
  | .writeReg off len v => if off = 0xB000 ∧ len = 8 then s.controlWrite 0 off v else s
  | _ => s

/-- A request with the local physical address that its offset names when it arrives. -/
def HostReq.based (base : Nat) : HostReq → HostReq
  | .read off len got => .read (base + off) len got
  | .write off data => .write (base + off) data
  | .atomic off len op v c => .atomic (base + off) len op v c
  | r => r

/-- A request of the host arrives: it is performed, or waits. -/
def State.host (s : State) (r : HostReq) : State :=
  let e : BridgeReq := ⟨s.hostTc, s.hostSlow.getLsbD s.hostTc.toNat, r.based s.mwbase.toNat⟩
  let s := s.arrival r
  let s := { s with hostQ := s.hostQ ++ [e] }
  if e.slow then s else s.hostServeAt (s.hostQ.length - 1)

/-- After a slot the requests that it held go on in arrival order (R420). -/
def State.wakeHost (s : State) : State := { s with hostQ := s.hostQ.map fun e => { e with slow := false } }

/-! ## Errors that the tests of the arrays find (R426, R449) -/

/-- A clean copy is dropped: of the line in read caches and replicas, and translations that name its page. -/
def State.dropCopies (s : State) (pa : Nat) : State :=
  let keep (l : Leaf) : Bool := !(decide (l.base ≤ pa) && decide (pa < l.base + l.pages * 65536))
  { s with clusters := s.clusters.map fun p => (p.1, { p.2.dropLine (pa / 128) with tlb := p.2.tlb.filter keep })
           cores := s.cores.map fun p => (p.1, p.2.modMem fun m => { m with tlb := m.tlb.filter keep })
           replicas := s.replicas.filter fun r => r.line != pa / 128 }

/-- A line holds an uncorrectable error in a structure until it is replaced. -/
def State.markBad (s : State) (line place : Nat) : State :=
  if s.badLines.contains line then s
  else { s with badLines := s.badLines ++ [line]
                badPlaces := if place = 0 then mapDel line s.badPlaces else mapSet line place s.badPlaces }

/-- Whether an error of a structure ends every node (R426). -/
def errorShared : ErrorPlace → Bool
  | .l2Tags | .directory | .serai | .windowPartials => true
  | _ => false

/-- UNCORRECTABLE_ERROR: an error is consumed, and acted on by where it lies and who consumes it. -/
def State.uncorrectable (s : State) (die : Nat) (place : ErrorPlace) (pa : Nat) (user : ErrorUser) : State :=
  let line := pa / 128
  let code := placeCode place
  if errorShared place then (s.logUe die code pa 0).killAll
  else match user with
    | .cleanCopy => (s.logUe die code pa 0).dropCopies pa
    | .reader c => ((s.markBad line code).logUe die code pa (s.seqOf c)).killCore c
    | .hostRead => { (s.markBad line code).logUe die code pa 0 with reply := .abort }
    | .fullWrite => { s.logUe die code pa 0 with badLines := s.badLines.filter (· != line) }
    | .partialWrite c => ((s.markBad line code).logUe die code pa (s.seqOf c)).killCore c
    | .nodeState id => s.stateError die place pa id
    | .shared => (s.logUe die code pa 0).killAll

/-! ## Meanings -/

/-- The base of a die's launch block and of its supervisor block (R69, R410). -/
def launchBlock (d : Nat) : Nat := 0x8000 + 0x100 * d
def superBlock (d : Nat) : Nat := 0x20000 + 0x2000 * d

/-- LAUNCH. -/
def execLaunch (die : BitVec 3) (word : BitVec 64) (s : State) : Answer :=
  asEvent (·.host (.writeReg (launchBlock die.toNat) 8 word)) s

/-- LSTAT. -/
def execLstat (die : BitVec 3) (s : State) : Answer := asEvent (·.host (.readReg (launchBlock die.toNat + 0x08) 8)) s

/-- LCANCEL. -/
def execLcancel (die : BitVec 3) (v : BitVec 64) (s : State) : Answer :=
  asEvent (·.host (.writeReg (launchBlock die.toNat + 0x10) 8 v)) s

/-- LQUERY. -/
def execLquery (die : BitVec 3) (v : BitVec 64) (s : State) : Answer :=
  asEvent (·.host (.writeReg (launchBlock die.toNat + 0x20) 8 v)) s

/-- KILL. -/
def execKill (die : BitVec 3) (v : BitVec 64) (s : State) : Answer := asEvent (·.host (.writeReg (superBlock die.toNat) 8 v)) s

/-- PREEMPT. -/
def execPreempt (die : BitVec 3) (v : BitVec 64) (s : State) : Answer :=
  asEvent (·.host (.writeReg (superBlock die.toNat + 0x10) 8 v)) s

/-- TIMER. -/
def execTimer (die : BitVec 3) (core : BitVec 9) (v : BitVec 64) (s : State) : Answer :=
  asEvent (·.host (.writeReg (superBlock die.toNat + 0x1000 + 8 * core.toNat) 8 v)) s

/-- TINV. -/
def execTinv (v : BitVec 64) (s : State) : Answer := asEvent (·.host (.writeReg 0xA000 8 v)) s

/-- TINV_COMPLETION. -/
def execTinvCompletion (s : State) : Answer := asEvent (·.tinvComplete) s

/-- MBPUSH. -/
def execMbpush (die : BitVec 3) (v : BitVec 64) (s : State) : Answer :=
  asEvent (·.host (.writeReg (0xC000 + 0x40 * die.toNat) 8 v)) s

/-- MBPOP. -/
def execMbpop (die : BitVec 3) (s : State) : Answer := asEvent (·.host (.readReg (0xC008 + 0x40 * die.toNat) 8)) s

/-- MBSTAT. -/
def execMbstat (die : BitVec 3) (s : State) : Answer := asEvent (·.host (.readReg (0xC010 + 0x40 * die.toNat) 8)) s

/-- MSIX_UNMASK. -/
def execMsixUnmask (vec : BitVec 6) (s : State) : Answer := asEvent (·.host (.unmask vec.toNat)) s

/-- HOST_MEMORY_READ. -/
def execHostMemoryRead (off len : Nat) (s : State) : Answer := asEvent (·.host (.read off len [])) s

/-- HOST_MEMORY_WRITE. -/
def execHostMemoryWrite (off : Nat) (data : List (BitVec 8)) (s : State) : Answer := asEvent (·.host (.write off data)) s

/-- FETCHADD. -/
def execFetchadd (off : Nat) (wide : Bool) (v : BitVec 64) (s : State) : Answer :=
  asEvent (·.host (.atomic off (if wide then 8 else 4) .add (if wide then v.toNat else v.toNat % 2 ^ 32) 0)) s

/-- SWAP. -/
def execSwap (off : Nat) (wide : Bool) (v : BitVec 64) (s : State) : Answer :=
  asEvent (·.host (.atomic off (if wide then 8 else 4) .xchg (if wide then v.toNat else v.toNat % 2 ^ 32) 0)) s

/-- Bytes of a CAS. -/
def casBytes : CasWidth → Nat
  | .c32 => 4
  | .c64 => 8
  | .c128 => 16

/-- CAS. -/
def execCas (off : Nat) (bits : CasWidth) (cmp v : BitVec 64) (s : State) : Answer :=
  let m := 2 ^ (8 * min 8 (casBytes bits))
  asEvent (·.host (.atomic off (casBytes bits) .cas (v.toNat % m) (cmp.toNat % m))) s

/-- AGO. -/
def execAgo (v : BitVec 64) (s : State) : Answer := asEvent (·.host (.writeReg 0x40020 8 v)) s

/-- ATTESTATION_REPORT. -/
def execAttestationReport (s : State) : Answer := asEvent (·.endReport) s

/-- CONTROL_REGISTER_WRITE. -/
def execControlRegisterWrite (off : Nat) (v : BitVec 64) (s : State) : Answer := asEvent (·.host (.writeReg off 8 v)) s

/-- UNCORRECTABLE_ERROR. -/
def execUncorrectableError (die : BitVec 3) (place : ErrorPlace) (pa : Nat) (user : ErrorUser) (s : State) : Answer :=
  asEvent (·.uncorrectable die.toNat place pa user) s

/-- REMOTE_UNREACHABLE. -/
def execRemoteUnreachable (core : Nat) (pa : Nat) (s : State) : Answer := asEvent (·.unreachable core pa) s

end Sys2Proof.Machine
end

