-- ==== Sys2Proof/Machine/Signature.lean ====
section
/-! DEFINITION. Machine/Signature.lean: the verification of SLH-DSA-SHA2-128s, as FIPS 205 gives it, that the boot logic makes of a
firmware image (spec 23, R460). Its parameters: hashes of 16 bytes, 7 layers of trees of height 9, 14 FORS trees of height 12, chains of 15
hashes. -/

namespace Sys2Proof.Machine

/-- Big-endian bytes of a number, and the number of big-endian bytes. -/
def beBytes (n v : Nat) : List Byte := (natBytes n v).reverse
def beNat (l : List Byte) : Nat := bytesNat l.reverse

/-- The first `n` digits of `b` bits of a string. -/
def beDigits (b n : Nat) (l : List Byte) : List Nat :=
  (List.range n).map fun i => beNat l / 2 ^ (8 * l.length - b * (i + 1)) % 2 ^ b

/-- The hash addresses of FIPS 205: layer, tree, type, and the three words that the type gives a meaning. -/
structure HashAddress where
  layer : Nat
  tree : Nat
  kind : Nat
  pair : Nat := 0
  height : Nat := 0
  index : Nat := 0
  deriving DecidableEq, Repr

/-- The compressed form of an address. -/
def HashAddress.bytes (a : HashAddress) : List Byte :=
  beBytes 1 a.layer ++ beBytes 8 a.tree ++ beBytes 1 a.kind ++ beBytes 4 a.pair ++ beBytes 4 a.height ++ beBytes 4 a.index

/-- The keyed hash of 16 bytes. -/
def slhHash (seed : List Byte) (a : HashAddress) (m : List Byte) : List Byte :=
  (beBytes 32 (sha256 (seed ++ List.replicate 48 0 ++ a.bytes ++ m))).take 16

/-- Hash `i` of 16 bytes of a string. -/
def slhPart (l : List Byte) (i : Nat) : List Byte := (l.drop (16 * i)).take 16

/-- `n` steps of a chain from step `i` on. -/
def slhChain (seed : List Byte) (a : HashAddress) : Nat → Nat → List Byte → List Byte
  | _, 0, x => x
  | i, n + 1, x => slhChain seed a (i + 1) n (slhHash seed { a with index := i } x)

/-- The one-time public key that a signature of a hash gives. -/
def slhOneTime (seed : List Byte) (a : HashAddress) (sig m : List Byte) : List Byte :=
  let d := beDigits 4 32 m
  let d := d ++ beDigits 4 3 (beBytes 2 (16 * (d.map fun x => 15 - x).sum))
  slhHash seed { a with kind := 1 } (d.zipIdx.flatMap fun p =>
    slhChain seed { a with height := p.2 } p.1 (15 - p.1) (slhPart sig p.2))

/-- The node that a path of siblings leads to, from a node with an index at a height. -/
def slhClimb (seed : List Byte) (a : HashAddress) : Nat → Nat → List Byte → List (List Byte) → List Byte
  | _, _, x, [] => x
  | h, i, x, y :: t =>
    slhClimb seed a (h + 1) (i / 2)
      (slhHash seed { a with height := h + 1, index := i / 2 } (if i % 2 = 0 then x ++ y else y ++ x)) t

/-- The root of a tree of a layer, from the signature of a hash by one of its leaves. -/
def slhTreeRoot (seed : List Byte) (layer tree leaf : Nat) (sig m : List Byte) : List Byte :=
  slhClimb seed ⟨layer, tree, 2, 0, 0, 0⟩ 0 leaf (slhOneTime seed ⟨layer, tree, 0, leaf, 0, 0⟩ sig m)
    ((List.range 9).map fun k => slhPart sig (35 + k))

/-- The FORS public key that a signature of the digits of a message gives. -/
def slhFewTime (seed : List Byte) (tree leaf : Nat) (sig : List Byte) (digits : List Nat) : List Byte :=
  slhHash seed ⟨0, tree, 4, leaf, 0, 0⟩ (digits.zipIdx.flatMap fun p =>
    let a : HashAddress := ⟨0, tree, 3, leaf, 0, 0⟩
    let i := p.2 * 2 ^ 12 + p.1
    slhClimb seed a 0 i (slhHash seed { a with index := i } (slhPart sig (13 * p.2)))
      ((List.range 12).map fun k => slhPart sig (13 * p.2 + 1 + k)))

/-- The message digest of 30 bytes. -/
def slhDigest (r key m : List Byte) : List Byte :=
  let inner := beBytes 32 (sha256 (r ++ key ++ m))
  (beBytes 32 (sha256 (r ++ key.take 16 ++ inner ++ [0, 0, 0, 0]))).take 30

/-- Whether a signature of a message, with the empty context, is one of a key (log entry 77). -/
def slhVerify (key msg sig : List Byte) : Bool :=
  if key.length ≠ 32 ∨ sig.length ≠ 7856 then false
  else
    let seed := key.take 16
    let d := slhDigest (sig.take 16) key (0 :: 0 :: msg)
    let tree := beNat ((d.drop 21).take 7) % 2 ^ 54
    let leaf := beNat (d.drop 28) % 2 ^ 9
    let few := slhFewTime seed tree leaf (sig.drop 16) (beDigits 12 14 (d.take 21))
    let place := tree * 2 ^ 9 + leaf
    let root := (List.range 7).foldl (fun x j =>
      slhTreeRoot seed j (place / 2 ^ (9 * (j + 1))) (place / 2 ^ (9 * j) % 2 ^ 9) (sig.drop (16 * (183 + 44 * j))) x) few
    root == key.drop 16

end Sys2Proof.Machine
end

