-- ==== Sys2Proof/Machine/Power.lean ====
section
/-! DEFINITION. Machine/Power.lean: timers, power and heat, draw tokens, the Stoker, the maintenance slots, and the reset of the
module with its boot (spec 01, R17 to R25; 07, R152 to R155; 12, R268; 13, R288, R307; 19, R412, R419 to R425; 23). -/

namespace Sys2Proof.Machine

/-! ## Causes at boundaries (R412, R424, R425) -/

/-- A boundary cause becomes pending on a core that runs a node's context. -/
def State.raise (s : State) (c : Nat) (t : Trap) : State :=
  if (s.core c).run.isSome then s.modCore c fun x => x.modFlow (·.addCause t) else s

/-- Energy in nJ that a class allows in a window; class 7 has no limit (R452). -/
def classLimits : List Nat := [150, 250, 350, 450, 600, 750, 950]

/-- The lowest class whose limit covers an energy. -/
def lowestClass (e : Nat) : BitVec 3 := BitVec.ofNat 3 ((classLimits.findIdx? fun l => decide (e ≤ l)).getD 7)

/-- POWER_EXCESS: at the end of a window of 100 ticks, the energy that the core domain has drawn, with that of the array commands issued
under its leases, lies over the limit of the held class (R424, R452). -/
def State.powerExcess (s : State) (c own array : Nat) : State :=
  let held := (s.core c).ctl.cls
  let lowest := lowestClass (own + array)
  if held < lowest ∧ 0 < s.now ∧ s.now % 100 = 0 then s.raise c ⟨0x18, field 8 lowest ||| field 0 held⟩ else s

/-! ## Operating points and tokens (R152, R154) -/

/-- SETTLE_END. -/
def Ctl.settleEnd (t : Ctl) : Ctl :=
  if t.settle && t.settleLeft == 0 then { t with settle := false, opCur := t.opTgt } else t

/-- Every core of the module, present ones only. -/
def State.allCores (s : State) : List Nat :=
  (List.range 8).flatMap fun d => (List.range (s.part.coreCount d)).map (coreKey d)

/-- A change of the control registers of every core of a die. -/
def State.modDieCores (s : State) (d : Nat) (f : Ctl → Ctl) : State :=
  (List.range (s.part.coreCount d)).foldl (fun (s : State) k => s.modCore (coreKey d k) fun x => x.modCtl f) s

/-- TOKEN_REFILL. -/
def State.tokenRefill (s : State) : State :=
  { s with cores := s.cores.map fun p =>
      let g := (s.die (dieOf p.1)).grant
      (p.1, p.2.modCtl fun t => { t with bal := min g.cap (t.bal + g.rate) }) }

/-! ## The Stoker (R453 to R455) -/

/-- A new grant or limit takes effect in every core of a die. -/
def State.newGrant (s : State) (d : Nat) (g : Grant) : State :=
  let s := s.modDie d fun x => { x with grant := g }
  let cap := (s.die d).opcap
  s.modDieCores d fun t => ({ t with bal := min g.cap t.bal } : Ctl).limitOp cap

/-- STOKER_GRANT; none reaches a die whose grants are withheld for heat (R456). RATE is never below the floor rate (R154), and the highest
point of a grant is 7 (R453): the Stoker sends none with another. -/
def State.stokerGrant (s : State) (d : Nat) (budget : Nat) (rate cap : BitVec 16) (top : BitVec 3) : State :=
  if (s.die d).withheld ∨ top ≠ 7 then s
  else s.newGrant d { budget := budget, rate := max 16 rate.toNat, cap := cap.toNat, fsafe := false, last := some s.now }

/-- FAIL_SAFE_ENTRY: 20,000 ticks without a grant. -/
def State.failSafe (s : State) (d : Nat) : State :=
  let g := (s.die d).grant
  if g.fsafe ∨ s.now < g.last.getD 0 + 20000 then s
  else s.newGrant d { g with fsafe := true, rate := 16, cap := 1024 }

/-! ## Sensor sweeps (R421, R456, R457) -/

/-- Temperature of a zone register, in sixteenths of a degree. -/
def zoneTemp (w : Word) : Int := signedVal 16 (bitsAt w.toNat 0 16)

/-- A reading as the zone's register shows it: damper and temperature as measured, and the state that the temperature gives. -/
def zoneWord (w : Word) : Word :=
  let t := zoneTemp w
  let st : Nat := if 110 * 16 ≤ t then 2 else if 100 * 16 ≤ t then 1 else 0
  (w &&& 0x0000FF000000FFFF) ||| BitVec.ofNat 64 (st * 2 ^ 32)

/-- The readings of sweep `n`. -/
def State.readZones (s : State) (n : Nat) : State :=
  { s with zones := (List.range 128).map fun i => (i, zoneWord (Config.zoneReading n (i / 16) (i % 16))) }

def State.zone (s : State) (d z : Nat) : Int := zoneTemp (mapGet 0 (16 * d + z) s.zones)

/-- The cores of a zone. -/
def State.zoneCores (s : State) (die zone : Nat) : List Nat :=
  s.cores.filterMap fun p => if dieOf p.1 = die ∧ (Config.zoneOf p.1).toNat = zone then some p.1 else none

/-- Whether a zone reads so many whole degrees, and its cores that run a node are among those named. -/
def State.readsSo (s : State) (die zone : Nat) (temp : BitVec 8) (cores : List Nat) : Bool :=
  (s.zone die zone).toNat / 16 % 256 == temp.toNat && (s.zoneCores die zone).all fun c => (s.core c).run.isNone || cores.contains c

/-- THERMAL_TRAP: a zone that was below its trip reads 100 °C or more: its cores that run a node take 0x19. The trap of a zone is armed again
by a sweep (R425, R456). -/
def State.thermalTrap (s : State) (die zone : Nat) : State :=
  let t := s.zone die zone
  if s.hot.contains (die, zone) ∨ t < 100 * 16 then s
  else
    (s.zoneCores die zone).foldl
      (fun (s : State) c => s.raise c ⟨0x19, BitVec.ofNat 64 (die * 2 ^ 16 + zone * 2 ^ 8 + t.toNat / 16 % 256)⟩)
      { s with hot := (die, zone) :: s.hot }

/-- COOLING_SHUTDOWN: the entry of kind 0x71 goes to die 0 (R466). -/
def State.shutdown (s : State) : State := s.killAll.logError 0 0x71 []

/-- SENSOR_SWEEP: the zones are read; grants are withheld and resume, traps are raised, and armed again 5 °C below the trip. -/
def State.sweep (s : State) : State :=
  let s := { s.readZones s.fresh with fresh := s.fresh + 1 }
  let s := (List.range 8).foldl (fun (s : State) d =>
    let t := (List.range 16).map (s.zone d)
    s.modDie d fun x =>
      { x with withheld := if t.any (110 * 16 ≤ ·) then true else if t.all (· < 100 * 16) then false else x.withheld }) s
  let s := { s with hot := s.hot.filter fun p => decide (95 * 16 < s.zone p.1 p.2) }
  let s := (List.range 128).foldl (fun (s : State) i => s.thermalTrap (i / 16) (i % 16)) s
  if (List.range 128).any fun i => decide (115 * 16 ≤ s.zone (i / 16) (i % 16)) then s.shutdown else s

/-! ## Housekeeping of a major slot (R17 to R19, R25, R288, R307, R458, R459) -/

/-- CONVERTER_CALIBRATION: a new measurement; every arrangement that is out of range is logged. -/
def State.calibrate (s : State) : State :=
  let e := s.calEpoch + 1
  (List.range 8).foldl (fun (s : State) d =>
    (List.range 64).foldl (fun (s : State) k =>
      if !(s.part.clusterBits d).getLsbD k then s
      else (List.range 8).foldl (fun (s : State) m =>
        (List.range 512).foldl (fun (s : State) cs =>
          (List.range 3).foldl (fun (s : State) a =>
            let o := Config.calOffset e d k m cs a
            if o < -128 ∨ 127 < o then
              s.logError d 0x31 [BitVec.ofNat 64 (d * 2 ^ 29 + k * 2 ^ 23 + m * 2 ^ 20 + cs / 128 * 2 ^ 18 + cs % 128 * 2 ^ 11 + a * 2 ^ 9)]
            else s) s) s) s) s) { s with calEpoch := e }

/-- Bits set for the units of a die that a list names. -/
def markBits (w : Nat) (l : List (Nat × Nat)) (d : Nat) (b : BitVec w) : BitVec w :=
  (l.filter fun p => p.1 == d && decide (p.2 < w)).foldl (fun b p => b ||| (BitVec.ofNat w 1 <<< p.2)) b

/-- The units of a list of levels that are worn out (R459). -/
def wornOut (l : List (Nat × Nat × BitVec 8)) : List (Nat × Nat) := l.filterMap fun p => if p.2.2 = 255 then some (p.1, p.2.1) else none

/-- The clusters of cores. -/
def clustersOf (l : List (Nat × Nat)) : List (Nat × Nat) := l.map fun p => (p.1, p.2 / 8)

/-- The wear levels that a slot's readings give, by number; `n` units to a die. -/
def setLevels (n : Nat) (l : List (Nat × Nat × BitVec 8)) (m : SMap (BitVec 8)) : SMap (BitVec 8) :=
  l.foldl (fun m p => if p.1 < 8 ∧ p.2.1 < n then mapSet (n * p.1 + p.2.1) p.2.2 m else m) m

/-- Guard-band steps rise as far as 16 and never fall (R458). -/
def setSteps (l : List (Nat × Nat × Nat)) (m : SMap Nat) : SMap Nat :=
  l.foldl (fun m p => if p.1 < 8 ∧ p.2.1 < 512 then
      mapSet (512 * p.1 + p.2.1) (max (mapGet 0 (512 * p.1 + p.2.1) m) (min 16 p.2.2)) m else m) m

/-- Router levels with both roads of a strip numbered apart. -/
def crossingLevels (f : Config.Findings) : List (Nat × Nat × BitVec 8) :=
  f.crossings.map fun p => (p.1, 2 * p.2.1 + (if p.2.2.1 then 1 else 0), p.2.2.2)

/-- WEAR_STATE_REWRITE begins with the slot: the generation is odd until the slot's end (R25). -/
def Wear.beginRewrite (w : Wear) (f : Config.Findings) : Wear := { w with generation := w.generation + 1, found := some f }

/-- What a major slot found takes its place at the slot's end: steps, levels and marks. A cluster is marked for a bond that fails, a level of
255 or a step above 16; a router of level 255 marks its strip (log entry 74). -/
def Wear.apply (w : Wear) (f : Config.Findings) : Wear :=
  let cl := f.bonds ++ clustersOf (wornOut f.cores ++ f.steps.filterMap fun p => if 16 < p.2.2 then some (p.1, p.2.1) else none)
  let st := (wornOut (crossingLevels f)).map fun p => (p.1, p.2 / 2)
  { w with
    clusters := Vector.ofFn fun d => markBits 64 cl d.val (w.clusters.get d)
    slices := Vector.ofFn fun d => markBits 64 (wornOut f.slices) d.val (w.slices.get d)
    strips := Vector.ofFn fun d => markBits 24 st d.val (w.strips.get d)
    step := setSteps f.steps w.step
    coreLevel := setLevels 512 f.cores w.coreLevel
    sliceLevel := setLevels 64 f.slices w.sliceLevel
    routerLevel := setLevels 48 (crossingLevels f) w.routerLevel
    repair := Vector.ofFn fun d => w.repair.get d || w.flueRepair.get d
    flueLost := [], found := none }

/-- The rewrite ends: the generation is even again. -/
def Wear.endRewrite (w : Wear) : Wear := { w with generation := w.generation + 1 }

/-- Nodes with a core on a strip. -/
def State.nodesOn (s : State) (d strip : Nat) : List Nat :=
  (s.cores.filterMap fun p => if dieOf p.1 = d ∧ s.stripOf p.1 = strip then p.2.run.map (·.node) else none).dedup

/-- ROUTER_BYPASS: one router is switched to bypass; a strip without routers is marked, and its nodes end by an uncorrectable error (R18,
R19, R427). -/
def State.bypassRouter (s : State) (r : Nat × Nat × Bool) : State :=
  let d := r.1
  let b := s.wear.routerBits d
  let bit := 2 * r.2.1 + (if r.2.2 then 1 else 0)
  if b.getLsbD bit || decide (8 ≤ d) || decide (24 ≤ r.2.1) then s
  else
    let s := s.logError d 0x12 [BitVec.ofNat 64 (d * 2 ^ 29 + r.2.1 * 2 ^ 16 + (if r.2.2 then 1 else 0))]
    let b := b ||| (1#64 <<< bit)
    let s : State := { s with wear := { s.wear with routers := s.wear.routers.set (d % 8) b (Nat.mod_lt d (by decide)) } }
    if b.getLsbD (2 * r.2.1) && b.getLsbD (2 * r.2.1 + 1) then
      let m := markBits 24 [(d, r.2.1)] d (s.wear.strips.get (Fin.ofNat 8 d))
      let s : State := { s with wear := { s.wear with strips := s.wear.strips.set (d % 8) m (Nat.mod_lt d (by decide)) } }
      (s.nodesOn d r.2.1).foldl (fun (s : State) i => s.stateError d .coreState 0 i) s
    else s

/-- The end of a major slot's housekeeping: the wear-state entry is rewritten, and routers found to have failed are bypassed (R18, R25,
R458, R459). -/
def State.endHousekeeping (s : State) : State :=
  match s.wear.found with
  | none => s
  | some f =>
    let s : State := { s with wear := s.wear.apply f }
    let s := f.routers.foldl (fun (s : State) r => s.bypassRouter r) s
    { s with wear := s.wear.endRewrite }

/-! ## The calendar (R419 to R423) -/

/-- Kind of slot k, the slot that follows it, and the tick at which it ends. -/
def slotKind (k : Nat) : SlotKind := if k % 1024 = 0 then .major else .minor
def slotAfter (k : Nat) : Nat := if k % 1024 = 0 then k + 2 else k + 1
def slotStop (k : Nat) : Nat := slotStart k + slotLen k

/-- SLOT_HOLD. -/
def State.slotHold (s : State) : State :=
  if slotStart s.calendar.nextSlot ≤ s.now + 64 then { s with calendar := { s.calendar with hold := true } } else s

/-- Whether the next slot begins now as a slot of a kind; a slot that is still extended does not delay it (R423). -/
def State.slotDue (s : State) (k : SlotKind) : Bool :=
  decide (slotStart s.calendar.nextSlot ≤ s.now) && slotKind s.calendar.nextSlot == k

/-- An extension of slot `k` by `ext` ticks is over: the entry of kind 0x61, and 0x3E in the cores that run a node's context. -/
def State.logOverrun (s : State) (k : Nat) (kind : SlotKind) (ext task : Nat) : State :=
  let s := s.logError 0 0x61 []
  let addr := BitVec.ofNat 64
    (min ext (2 ^ 32 - 1) * 2 ^ 32 + k % 2 ^ 16 * 2 ^ 16 + (if kind = .major then 2 ^ 8 else 0) + task)
  (s.cores.map (·.1)).foldl (fun (s : State) c => s.raise c ⟨0x3E, addr⟩) s

/-- An extension of slot `k` by `ext` ticks is over, of a task that nothing names: a free one of the nine. -/
def State.someOverrun (s : State) (k : Nat) (kind : SlotKind) (ext : Nat) : State :=
  ({ s with fresh := s.fresh + 1 } : State).logOverrun k kind ext (1 + (Config.freeWord s.fresh).toNat % 9)

/-- A slot that is still extended merges into the next, which begins: its extension is over there (log entry 73). -/
def State.mergeSlot (s : State) : State :=
  match s.calendar.now with
  | none => s
  | some (k, kind) => s.endHousekeeping.someOverrun k kind (slotStart s.calendar.nextSlot - slotStop k)

/-- The next slot begins. -/
def State.enterSlot (s : State) : State :=
  let s := s.mergeSlot
  let k := s.calendar.nextSlot
  { s with calendar := { nextSlot := slotAfter k, now := some (k, slotKind k), hold := true } }

/-- MINOR_SLOT. -/
def State.minorSlot (s : State) : State := if s.slotDue .minor then s.enterSlot.sweep else s

/-- Every lease that is held ends, one granted to an instruction that has not issued yet included (R300). -/
def State.endLeases (s : State) : State :=
  { s with cores := s.cores.map fun p =>
      match p.2.mat.lease with
      | .held _ _ _ => (p.1, (p.2.modMat fun m => { m with lease := .idle }).modFlow fun f => { f with leased := false })
      | _ => p }

/-- MAJOR_SLOT. -/
def State.majorSlot (s : State) : State :=
  if s.slotDue .major then
    let s := s.enterSlot.endLeases.sweep.calibrate
    { s with wear := s.wear.beginRewrite (Config.findings s.fresh), fresh := s.fresh + 1 }
  else s

/-- A slot is over: what it found takes effect, commands that waited at the arrays go on, and the requests that were held are served in the
order in which they came, unless the next slot holds them again (R420). -/
def State.leaveSlot (s : State) : State :=
  let held := decide (slotStart s.calendar.nextSlot ≤ s.now + 64)
  let s : State := { s with calendar := { s.calendar with now := none, hold := held } }
  let s := s.endHousekeeping
  ((s.cores.map (·.1)).foldl (fun (s : State) c => s.settleCmds c 32) s).wakeHost

/-- SLOT_END: a slot ends on time, or its extension is over (R423). -/
def State.slotEnd (s : State) : State :=
  match s.calendar.now with
  | some (k, kind) =>
    if s.now < slotStop k then s
    else if s.now = slotStop k then s.leaveSlot
    else (s.someOverrun k kind (s.now - slotStop k)).leaveSlot
  | none => s

/-- MAINTENANCE_OVERRUN: a slot that was extended by `ext` ticks ends. -/
def State.overrun (s : State) (ext : Nat) (task : BitVec 8) : State :=
  match s.calendar.now with
  | some (k, kind) => if 0 < ext ∧ slotStop k + ext = s.now then (s.logOverrun k kind ext task.toNat).leaveSlot else s
  | none => s

/-! ## Reset and boot (R20, R21, R460, R461) -/

/-- Whether a configuration is legal: clusters and slices left on each die (R20). -/
def Part.legal (p : Part) : Bool :=
  (List.range 8).all fun d => decide (56 ≤ popNat 64 (p.clusterBits d)) && decide (48 ≤ popNat 64 (p.sliceBits d))

/-- Clusters and slices that a marked strip takes with it: compute strips 3k and 3k + 1, slice strips 3k + 2 (R15, R16, R248). -/
def stripClusters (b : BitVec 24) : BitVec 64 :=
  (bitsOf 24 b).foldl (fun r i => if i % 3 = 2 then r else r ||| (0xF#64 <<< (4 * (2 * (i / 3) + i % 3)))) 0
def stripSlices (b : BitVec 24) : BitVec 64 :=
  (bitsOf 24 b).foldl (fun r i => if i % 3 = 2 then r ||| (0xFF#64 <<< (8 * (i / 3))) else r) 0

/-- The part without its marked units. -/
def Part.deconfigure (p : Part) (w : Wear) : Part :=
  { p with
    clusters := Vector.ofFn fun d => p.clusters.get d &&& ~~~(w.clusters.get d) &&& ~~~stripClusters (w.strips.get d)
    slices := Vector.ofFn fun d => p.slices.get d &&& ~~~(w.slices.get d) &&& ~~~stripSlices (w.strips.get d)
    routers := w.routers }

/-- The memory after a reset that gives the module another number: what stands at the two numbers changes places. -/
def renumber (a b n per : Nat) : Nat :=
  if n / per = a then b * per + n % per else if n / per = b then a * per + n % per else n

def Memory.renumber (m : Memory) (a b : Nat) : Memory :=
  if a = b then m else memSetAll [] (m.map fun p => (Machine.renumber a b p.1 (2 ^ 48), p.2))

/-- MODULE_RESET: deconfiguration takes effect, every register takes its reset value, the fabric assigns the module's number, and the
converters are measured. What reset does not name stays: the bytes of HBM, the wear marks, the generation word, made even where a slot
was cut short (log entry 44), and the model's own numbers. A cluster whose bond fails the test of this reset is marked by it and removed at
the next (R459; log entry 68), and marks that breach the floor are removed all the same (log entry 69). -/
def State.moduleReset (s : State) : State :=
  let f := Config.findings s.fresh
  let w : Wear := { s.wear with
    clusters := Vector.ofFn fun d => markBits 64 f.bonds d.val (s.wear.clusters.get d)
    generation := s.wear.generation + (s.wear.generation &&& 1)
    step := [], repair := Vector.replicate 8 false, flueRepair := Vector.replicate 8 false
    flueLost := [], found := none }
  let part := s.part.deconfigure s.wear
  let ok := part.legal
  let old := s.domMod.toNat
  let new := s.fabric.2.toNat
  ({ State.reset with
      part := part, wear := { w with below := !ok }, hbm := s.hbm.renumber old new
      domSize := s.fabric.1, domMod := s.fabric.2, fabric := s.fabric, homeCfgs := s.homeCfgs
      badLines := s.badLines.map (renumber old new · (2 ^ 41)), badPlaces := s.badPlaces.map fun p => (renumber old new p.1 (2 ^ 41), p.2)
      agenda := s.agenda, fresh := s.fresh + 1, nextNode := s.nextNode, resets := s.resets + 1, calEpoch := s.calEpoch } : State).calibrate

/-- Whether a boot setting may be applied (R461). -/
def settingOk (b : BootSetting) : Bool :=
  let n := b.creg.toNat
  decide (0x400 ≤ n) && decide (n ≤ 0x4FF) && cregDefined n && !cregFixed n &&
    (b.target == 0xFF || decide (b.target.toNat < 8))

/-- Whether the boot table of an image may be applied: extents wholly in HBM and in the image, and every setting legal. -/
def tableOk (i : BootImage) : Bool :=
  (i.extents.all fun e => decide (e.1 + e.2.1 ≤ hbmSize) && decide (e.2.2 + e.2.1 ≤ i.bytes.length)) && i.settings.all settingOk

/-- Whether an image is accepted: its signature is good, its key is the one whose digest is fused, and its table may be applied (R460, R461). -/
def Part.imageOk (p : Part) (sig : List Byte) (i : BootImage) : Bool :=
  slhVerify i.key i.bytes sig && sha256 i.key == p.keyDigest.toNat && tableOk i

/-- One register setting: for the module, or for the die or every core that its target names. What a setting of the module pushes to the error
log goes to the die of its target, or to die 0 (log entry 43). -/
def State.applySetting (s : State) (b : BootSetting) : State :=
  let n := b.creg.toNat
  if isModuleReg n then s.moduleWrite (if b.target = 0xFF then 0 else b.target.toNat) n b.value
  else
    let dies := if b.target = 0xFF then List.range 8 else [b.target.toNat]
    dies.foldl (fun (s : State) d =>
      if n = 0x405 then s.coreWrite (coreKey d 0) n b.value
      else (List.range (s.part.coreCount d)).foldl (fun (s : State) k => s.coreWrite (coreKey d k) n b.value) s) s

/-- One load extent copied into HBM. -/
def State.applyExtent (s : State) (i : BootImage) (e : Nat × Nat × Nat) : State :=
  s.hbmStore none (s.homePa e.1) ((i.bytes.drop e.2.2).take e.2.1)

/-- FIRMWARE_VERIFICATION of an image and its signature in the boot flash. With a good image the boot table is applied and the module
enters service; a bad one keeps it out of service until the next reset. Below the floor of R20 nothing is applied and BOOTOK stays 0 (log
entry 70). -/
def State.firmware (s : State) (sig : List Byte) (i : BootImage) : State :=
  if s.bootOk || s.bootFailed || s.wear.below then s
  else
    let s := { s with fwDigest := BitVec.ofNat 256 (sha256 i.bytes) }
    if !s.part.imageOk sig i then { s with bootFailed := true }
    else
      let s := i.extents.foldl (fun (s : State) e => s.applyExtent i e) s
      let s := i.settings.foldl (fun (s : State) b => s.applySetting b) s
      { s with bootOk := true, service := true }

/-! ## Promises (R268) -/

/-- PROMISE_TICK: a BWAIT frozen on a tag whose promise has come is tested again at its issue. -/
def State.promiseTick (s : State) (c : Nat) (tag : BitVec 4) : State :=
  let x := s.core c
  if x.flow.frozen = some (.promise tag) ∧ (x.mem.tags.get tag.toFin).promise ≤ s.now then
    s.modCore c fun x => x.modFlow fun f => { f with frozen := none }
  else s

/-! ## Meanings -/

/-- TIMER_DEADLINE. -/
def execTimerDeadline (core : Nat) (s : State) : Answer := asEvent (·.timerDeadline core) s

/-- POWER_EXCESS. -/
def execPowerExcess (core : Nat) (energy : Nat × Nat) (s : State) : Answer := asEvent (·.powerExcess core energy.1 energy.2) s

/-- THERMAL_TRAP. -/
def execThermalTrap (die : BitVec 3) (zone : BitVec 4) (temp : BitVec 8) (cores : List Nat) (s : State) : Answer :=
  asEvent (fun s => if s.readsSo die.toNat zone.toNat temp cores then s.thermalTrap die.toNat zone.toNat else s) s

/-- SETTLE_END. -/
def execSettleEnd (core : Nat) (s : State) : Answer := asEvent (·.modCore core fun x => x.modCtl Ctl.settleEnd) s

/-- TOKEN_REFILL. -/
def execTokenRefill (s : State) : Answer := asEvent (·.tokenRefill) s

/-- STOKER_GRANT. -/
def execStokerGrant (die : BitVec 3) (budget : Nat) (rate cap : BitVec 16) (top : BitVec 3) (s : State) : Answer :=
  asEvent (·.stokerGrant die.toNat budget rate cap top) s

/-- FAIL_SAFE_ENTRY. -/
def execFailSafeEntry (die : BitVec 3) (s : State) : Answer := asEvent (·.failSafe die.toNat) s

/-- SLOT_HOLD. -/
def execSlotHold (s : State) : Answer := asEvent (·.slotHold) s

/-- MINOR_SLOT. -/
def execMinorSlot (s : State) : Answer := asEvent (·.minorSlot) s

/-- MAJOR_SLOT. -/
def execMajorSlot (s : State) : Answer := asEvent (·.majorSlot) s

/-- SLOT_END. -/
def execSlotEnd (s : State) : Answer := asEvent (·.slotEnd) s

/-- MAINTENANCE_OVERRUN. -/
def execMaintenanceOverrun (ext : Nat) (task : BitVec 8) (s : State) : Answer := asEvent (·.overrun ext task) s

/-- MODULE_RESET. -/
def execModuleReset (s : State) : Answer := asEvent (·.moduleReset) s

/-- FIRMWARE_VERIFICATION. -/
def execFirmwareVerification (sig : List Byte) (image : BootImage) (s : State) : Answer := asEvent (·.firmware sig image) s

/-- PROMISE_TICK. -/
def execPromiseTick (core : Nat) (tag : BitVec 4) (s : State) : Answer := asEvent (·.promiseTick core tag) s

end Sys2Proof.Machine
end

