-- ==== Sys2Proof/Machine/Sync.lean ====
section
/-! DEFINITION. Machine/Sync.lean: road transfers and contributions to reduction windows (spec 17, R378 to R383, R388 to
R393). -/

namespace Sys2Proof.Machine

/-! ## Roads (R18, R378 to R383) -/

/-- The checks of XMIT and XSEL: an XPH bundle, and a router of the road that is not bypassed (R18, R381). -/
def State.roadTrap (s : State) (west : Bool) : Option Trap :=
  let bit := 2 * s.stripOf s.cur + if west then 1 else 0
  if s.me.flow.issue.head.kind != .xph then some ⟨0x02, 0⟩
  else operandTrap (!(s.wear.routerBits (dieOf s.cur)).getLsbD bit)

/-- 64 bytes of a row. -/
def partOf (r : RowBits) (part : BitVec 3) : BitVec 512 := r.extractLsb' (512 * part.toNat) 512

/-- The row with other 64 bytes. -/
def setPart (r : RowBits) (part : BitVec 3) (v : BitVec 512) : RowBits :=
  let m : RowBits := (BitVec.allOnes 512).setWidth 4096 <<< (512 * part.toNat)
  (r &&& ~~~m) ||| (v.setWidth 4096 <<< (512 * part.toNat))

/-- XMIT: the value reaches its own strip's latch two phase cycles later (R378). -/
def semXmit (row : RowOp) (part lane : BitVec 3) (west : Bool) : SlotSem :=
  { check := fun s => firstSome [s.roadTrap west, s.storeTrap row]
    wait := fun s => s.sourceWait row
    act := fun s => s.unless (s.sourceFault row) fun s =>
      let v : RoadValue :=
        ⟨west, lane, s.stripOf s.cur, 2, partOf (s.rowBits .FP32 row) part, [s.cur], false⟩
      s.modDie (dieOf s.cur) fun d => { d with roads := d.roads ++ [v] } }

/-- What the latches of a lane hold at a strip, and whether it is an OR. -/
def Die.latchAt (d : Die) (west : Bool) (lane : BitVec 3) (strip : Nat) : BitVec 512 × Bool :=
  match d.roads.find? fun v => v.wait == 0 && v.west == west && v.lane == lane && v.strip == strip with
  | some v => (v.data, v.met)
  | none => (0, false)

def semXsel (row : RowOp) (part lane : BitVec 3) (west : Bool) : SlotSem :=
  { check := fun s => firstSome [s.roadTrap west, operandTrap row.isReg]
    act := fun s =>
      let (v, met) := (s.die (dieOf s.cur)).latchAt west lane (s.stripOf s.cur)
      let s := if met then s.modMe fun x => x.modCtl fun t => { t with xcoll := t.xcoll ||| 1 } else s
      (s.pend 1 (.row (s.me.regs.dest row) (setPart (s.rowBits .FP32 row) part v) (s.me.loadTag row) none), none) }

/-! ## Contributions (R389, R390, R393) -/

/-- Whether a window takes a contribution: its operation and its element type (R389). -/
def Window.takes (x : Window) (op : Nat) (w : AWidth) : Bool :=
  x.op == op &&
    match op, w with
    | 0, .w32 => x.etype == 0 || x.etype == 1
    | 1, .w32 => x.etype == 3
    | 2, .w32 => x.etype != 2
    | 0, .w64 | 2, .w64 => x.etype == 2
    | _, _ => false

def contribSem (op : Nat) (w : AWidth) (sa sb : BitVec 5) (sc : Scope) (rel : Bool) : SlotSem :=
  { wait := fun s => firstSome
      [s.walkWait [s.sReg sa],
       if (s.sReg sa).toNat % atomicBytes w ≠ 0 then none else s.scWait .window [(s.sReg sa, atomicBytes w)]]
    act := fun s =>
      let va := s.sReg sa
      let n := atomicBytes w
      s.globalAccess .window va n fun s l pa =>
        match s.windowAt pa with
        | none => (s, some (addrTrap 0x09 va))
        | some k =>
          if (s.window k).takes op w then
            let (id, s) := s.takeId
            (s.enqueue
              [{ id := id, bun := s.bun, kind := .contrib (BitVec.ofNat 4 k) (s.atomicOperand w sb) s.me.ctl.winIdx, pa := pa
                 len := n, rel := rel, scope := sc, scPage := l.sc }], none)
          else (s, some (addrTrap 0x03 va)) }

def semWadd (w : AWidth) (sa sb : BitVec 5) (sc : Scope) (rel : Bool) : SlotSem := contribSem 0 w sa sb sc rel
def semWmax (w : AWidth) (sa sb : BitVec 5) (sc : Scope) (rel : Bool) : SlotSem := contribSem 2 w sa sb sc rel
def semWfadd (sa sb : BitVec 5) (sc : Scope) (rel : Bool) : SlotSem := contribSem 1 .w32 sa sb sc rel

def execWindowContribution (core i : Nat) (s : State) : Answer := asEvent (fun s => s.homeContrib core i) s
def execSwitchMerge (w : BitVec 4) (pa : Nat) (idx : BitVec 24) (v peerCfg : BitVec 64) (s : State) : Answer :=
  asEvent (fun s => s.switchMerge w pa idx v peerCfg) s

/-! ## Meanings -/

/-- XMIT in C0 or C1. -/
def execXmit (row : RowOp) (part lane : BitVec 3) (west : Bool) (s : State) : Answer :=
  inSlot 5 (semXmit row part lane west) s

/-- XSEL in C0 or C1. -/
def execXsel (row : RowOp) (part lane : BitVec 3) (west : Bool) (s : State) : Answer :=
  inSlot 5 (semXsel row part lane west) s

/-- WADD in C0 or C1. -/
def execWadd (w : AWidth) (sa sb : BitVec 5) (sc : Scope) (rel : Bool) (s : State) : Answer :=
  inSlot 5 (semWadd w sa sb sc rel) s

/-- WMAX in C0 or C1. -/
def execWmax (w : AWidth) (sa sb : BitVec 5) (sc : Scope) (rel : Bool) (s : State) : Answer :=
  inSlot 5 (semWmax w sa sb sc rel) s

/-- WFADD in C0 or C1. -/
def execWfadd (sa sb : BitVec 5) (sc : Scope) (rel : Bool) (s : State) : Answer := inSlot 5 (semWfadd sa sb sc rel) s

end Sys2Proof.Machine
end

