-- ==== Sys2Proof/Machine/Sfu.lean ====
section
/-! DEFINITION. Machine/Sfu.lean: the special functions (spec 09, R211, R212). A function value is enclosed between
two exact values, far closer to one another than neighbours of a format; where both round alike, that is the correctly
rounded result. -/

namespace Sys2Proof.Machine

/-! ## Fixed-point intervals at 384 fraction bits -/

/-- Fraction bits of the enclosures. -/
def fxBits : Nat := 384

/-- An interval of fixed-point numbers. -/
abbrev Fx := Int × Int

def fxOne : Int := (2 ^ fxBits : Nat)
def fxOfInt (k : Int) : Fx := (k * fxOne, k * fxOne)
def fxAdd (a b : Fx) : Fx := (a.1 + b.1, a.2 + b.2)
def fxSub (a b : Fx) : Fx := (a.1 - b.2, a.2 - b.1)
def fxNeg (a : Fx) : Fx := (-a.2, -a.1)

/-- Quotient rounded up. -/
def fxCeilDiv (a b : Int) : Int := -((-a) / b)

def fxMul (a b : Fx) : Fx :=
  let p := [a.1 * b.1, a.1 * b.2, a.2 * b.1, a.2 * b.2]
  let lo := p.foldl min (a.1 * b.1)
  let hi := p.foldl max (a.1 * b.1)
  (lo / fxOne, fxCeilDiv hi fxOne)

/-- Division by a positive integer. -/
def fxDivNat (a : Fx) (n : Nat) : Fx := (a.1 / n, fxCeilDiv a.2 n)

/-- Division by an interval above zero, of an interval not below zero. -/
def fxDiv (a b : Fx) : Fx := (a.1 * fxOne / b.2, fxCeilDiv (a.2 * fxOne) b.1)

/-- The interval widened by `k` units of the last place at each end. -/
def fxWiden (a : Fx) (k : Int) : Fx := (a.1 - k, a.2 + k)

/-- mant · 2^exp as an interval. -/
def fxOfDyadic (neg : Bool) (m : Nat) (e : Int) : Fx :=
  let s : Int := e + fxBits
  let lo : Int := if 0 ≤ s then shlNat m s else (m / 2 ^ (-s).toNat : Nat)
  let hi : Int := if 0 ≤ s then shlNat m s else fxCeilDiv m (2 ^ (-s).toNat : Nat)
  if neg then (-hi, -lo) else (lo, hi)

/-- The sum over k of the terms that `next k term` steps through, from the term `t`; the tail past the fuel is at most the last
term, which stays below one unit there. -/
def fxSeries (next : Nat → Fx → Fx) : Nat → Nat → Fx → Fx → Fx
  | 0, _, _, acc => fxWiden acc 2
  | fuel + 1, k, t, acc => fxSeries next fuel (k + 1) (next k t) (fxAdd acc t)

/-- atanh(1/n) by its series. -/
def atanhInv (n : Nat) : Fx :=
  let z := fxDivNat (fxOfInt 1) n
  ((List.range 260).foldl (fun (acc : Fx × Fx) k =>
    (fxAdd acc.1 (fxDivNat acc.2 (2 * k + 1)), fxDivNat acc.2 (n * n))) ((0, 0), z)).1 |> (fxWiden · 2)

/-- atan(1/n) by its alternating series. -/
def atanInv (n : Nat) : Fx :=
  let z := fxDivNat (fxOfInt 1) n
  ((List.range 260).foldl (fun (acc : Fx × Fx) k =>
    let t := fxDivNat acc.2 (2 * k + 1)
    (if k % 2 = 0 then fxAdd acc.1 t else fxSub acc.1 t, fxDivNat acc.2 (n * n))) ((0, 0), z)).1 |> (fxWiden · 2)

/-- ln 2 = 2 atanh(1/3). -/
def fxLn2 : Fx := fxAdd (atanhInv 3) (atanhInv 3)

/-- π = 16 atan(1/5) − 4 atan(1/239). -/
def fxPi : Fx := fxSub (fxMul (fxOfInt 16) (atanInv 5)) (fxMul (fxOfInt 4) (atanInv 239))

/-- e^r for r between 0 and 1, by its series. -/
def expSmall (r : Fx) : Fx :=
  fxSeries (fun k t => fxDivNat (fxMul t r) (k + 1)) 110 0 (fxOfInt 1) (0, 0)

/-- ln m for m between 1 and 2: 2 atanh((m − 1)/(m + 1)). -/
def lnMant (m : Fx) : Fx :=
  let z := fxDiv (fxSub m (fxOfInt 1)) (fxAdd m (fxOfInt 1))
  let z2 := fxMul z z
  let s := ((List.range 130).foldl (fun (acc : Fx × Fx) k =>
    (fxAdd acc.1 (fxDivNat acc.2 (2 * k + 1)), fxMul acc.2 z2)) ((0, 0), z)).1
  fxAdd (fxWiden s 2) (fxWiden s 2)

/-- Sine and cosine of r, |r| below 2, by their series. -/
def sinSmall (r : Fx) : Fx :=
  let r2 := fxMul r r
  fxSeries (fun k t => fxNeg (fxDivNat (fxMul t r2) ((2 * k + 2) * (2 * k + 3)))) 60 0 r (0, 0)

def cosSmall (r : Fx) : Fx :=
  let r2 := fxMul r r
  fxSeries (fun k t => fxNeg (fxDivNat (fxMul t r2) ((2 * k + 1) * (2 * k + 2)))) 60 0 (fxOfInt 1) (0, 0)

/-- Floor of the square root, bit by bit from bit `k` down. -/
def isqrtLoop (n : Nat) : Nat → Nat → Nat
  | 0, r => r
  | k + 1, r =>
    let c := r + 2 ^ k
    isqrtLoop n k (if c * c ≤ n then c else r)

def isqrt (n : Nat) : Nat := isqrtLoop n (n.log2 / 2 + 1) 0

/-! ## Enclosures -/

/-- A function value: a special result, an exact value (or one whose last bit stands for a remainder), or an open
interval between two values. -/
inductive SfuVal
  | exact (v : Val)
  | between (lo hi : Val)
  deriving DecidableEq, Repr

/-- An interval times 2^e, as values. -/
def fxBetween (a : Fx) (e : Int) : SfuVal :=
  .between (valOfInt false a.1 (e - fxBits)) (valOfInt false a.2 (e - fxBits))

/-- e^x of an interval: 2^n times an interval of e^r. -/
def expFx (x : Fx) : Fx × Int :=
  let n : Int := x.1 / fxLn2.2
  let r := fxSub x (fxMul (fxOfInt n) fxLn2)
  (expSmall r, n)

/-- An interval times 2^e, back at the fixed point. -/
def fxShift (a : Fx) (e : Int) : Fx :=
  if 0 ≤ e then (a.1 * 2 ^ e.toNat, a.2 * 2 ^ e.toNat)
  else (a.1 / (2 ^ (-e).toNat : Nat), fxCeilDiv a.2 (2 ^ (-e).toNat : Nat))

/-- Σ (2x²)^n / (1·3·…·(2n+1)), times x·e^(−x²)·2/√π: erf x, for x between 0 and 12. -/
def erfFx (x : Fx) : Fx :=
  let x2 := fxMul x x
  let s := fxSeries (fun k t => fxDivNat (fxMul t (fxAdd x2 x2)) (2 * k + 3)) 900 0 x (0, 0)
  let e := expFx (fxNeg x2)
  let em := fxShift e.1 e.2
  let sp : Fx := ((isqrt (fxPi.1.toNat * fxOne.toNat) : Nat), (isqrt (fxPi.2.toNat * fxOne.toNat) + 1 : Nat))
  fxDiv (fxMul (fxMul s em) (fxOfInt 2)) sp

/-- 1/√2. -/
def fxInvSqrt2 : Fx :=
  let r : Int := (isqrt (2 ^ (2 * fxBits - 1)) : Nat)
  (r, r + 1)

/-- x·(1 + c) for c between two powers of two, x of the given sign: an interval close to x·2^k. -/
def nearBelow (neg : Bool) (m : Nat) (e : Int) : SfuVal :=
  .between (.fin neg (m * 2 ^ 100 - 1) (e - 100)) (.fin neg m e)

/-- The integer part of a magnitude exponent: ⌊log2(m·2^e)⌋. -/
def magLog (m : Nat) (e : Int) : Int := (m.log2 : Int) + e

/-- x + k·x² for k between k1/2^j and k2/2^j, exactly, on x = ±m·2^e with the leading factor 2^(−1). -/
def halfPlusSquare (neg : Bool) (m : Nat) (e : Int) (k1 k2 j : Nat) : SfuVal :=
  let x : Val := .fin neg m (e - 1)
  .between (valAdd false x (.fin false (k1 * m * m) (2 * e - j))) (valAdd false x (.fin false (k2 * m * m) (2 * e - j)))

/-- The square root to at least 80 bits, with the remainder in the last bit. -/
def sqrtMag (m : Nat) (e : Int) : Val :=
  let k : Nat := 200 + (e % 2).toNat
  let n := m * 2 ^ k
  let r := isqrt n
  .fin false (2 * r + (if r * r = n then 0 else 1)) ((e - k) / 2 - 1)

/-- 1/√(m·2^e), likewise. -/
def rsqrtMag (m : Nat) (e : Int) : Val :=
  let k : Nat := 400 + ((-e) % 2).toNat + 2 * m.log2
  let k := if (((k : Int) - e) % 2) = 0 then k else k + 1
  let n := 2 ^ k
  let r := isqrt (n / m)
  .fin false (2 * r + (if r * r * m = n then 0 else 1)) ((-e - k) / 2 - 1)

/-- Sine (`false`) or cosine (`true`) of m·2^e with sign, its argument reduced exactly by π/2. -/
def trig (cosine neg : Bool) (m : Nat) (e : Int) : SfuVal :=
  let x := fxOfDyadic false m e
  let q : Int := 2 * x.1 / fxPi.2
  let r := fxSub x (fxShift (fxMul (fxOfInt q) fxPi) (-1))
  let quad := ((q + (if cosine then 1 else 0)) % 4).toNat
  let v := if quad % 2 = 0 then sinSmall r else cosSmall r
  let v := if quad / 2 = 1 then fxNeg v else v
  fxBetween (if neg && !cosine then fxNeg v else v) 0

/-- Finite arguments other than zero: the function by its enclosure (R211). -/
def sfuFinite (fn : SfuFn) (neg : Bool) (m : Nat) (e : Int) : SfuVal :=
  let lg := magLog m e
  let tiny : Bool := decide (lg < -60)
  let x := fxOfDyadic neg m e
  match fn with
  | .exp =>
    if 9 < lg then (if neg then .between (.fin false 1 (-500)) (.fin false 1 (-400)) else .between (.fin false 1 400) (.fin false 1 500))
    else fxBetween (expFx x).1 (expFx x).2
  | .exp2 =>
    if 9 < lg then (if neg then .between (.fin false 1 (-500)) (.fin false 1 (-400)) else .between (.fin false 1 400) (.fin false 1 500))
    else
      let n : Int := x.1 / fxOne
      if x.1 % fxOne = 0 ∧ x.1 = x.2 then .exact (.fin false 1 n)
      else
        let y := expFx (fxMul (fxSub x (fxOfInt n)) fxLn2)
        fxBetween y.1 (y.2 + n)
  | .log =>
    if neg then .exact .nan
    else if m = 2 ^ m.log2 ∧ lg = 0 then .exact (.fin false 0 0)
    else fxBetween (fxAdd (lnMant (fxOfDyadic false m (-(m.log2 : Int)))) (fxMul (fxOfInt lg) fxLn2)) 0
  | .log2 =>
    if neg then .exact .nan
    else if m = 2 ^ m.log2 then .exact (valOfNum lg)
    else
      let l := lnMant (fxOfDyadic false m (-(m.log2 : Int)))
      fxBetween (fxAdd (fxDiv l fxLn2) (fxOfInt lg)) 0
  | .rcp => .exact (valDiv (.fin neg 1 0) (.fin false m e))
  | .sqrt => if neg then .exact .nan else .exact (sqrtMag m e)
  | .rsqrt => if neg then .exact .nan else .exact (rsqrtMag m e)
  | .sin => if tiny then nearBelow neg m e else trig false neg m e
  | .cos => trig true neg m e
  | .tanh =>
    if tiny then nearBelow neg m e
    else if 6 < lg then .between (.fin neg (2 ^ 100 - 1) (-100)) (.fin neg 1 0)
    else
      let p := expFx (fxAdd x x)
      let y := fxShift p.1 p.2
      if neg then
        fxBetween (fxNeg (fxDiv (fxSub (fxOfInt 1) y) (fxAdd y (fxOfInt 1)))) 0
      else fxBetween (fxDiv (fxSub y (fxOfInt 1)) (fxAdd y (fxOfInt 1))) 0
  | .sigmoid =>
    if 9 < lg then (if neg then .between (.fin false 1 (-500)) (.fin false 1 (-400)) else .between (.fin false (2 ^ 100 - 1) (-100)) (.fin false 1 0))
    else
      let p := expFx (fxNeg x)
      if 0 ≤ p.2 then
        -- 1/(1 + 2^n E) = 2^(−n) / (2^(−n) + E)
        fxBetween (fxDiv (fxOfInt 1) (fxAdd (fxShift (fxOfInt 1) (-p.2)) p.1)) (-p.2)
      else fxBetween (fxDiv (fxOfInt 1) (fxAdd (fxOfInt 1) (fxShift p.1 p.2))) 0
  | .silu =>
    if tiny then halfPlusSquare neg m e 1 4 3
    else if 9 < lg then (if neg then .between (.fin true 1 (-500)) (.fin true 1 (-600)) else nearBelow false m e)
    else
      let p := expFx (fxNeg x)
      if neg then
        -- x is negative: −|x| 2^(−n) / (2^(−n) + E)
        fxBetween (fxNeg (fxDiv (fxNeg x) (fxAdd (fxShift (fxOfInt 1) (-p.2)) p.1))) (-p.2)
      else fxBetween (fxDiv x (fxAdd (fxOfInt 1) (fxShift p.1 p.2))) 0
  | .erf =>
    if tiny then
      let c := fxDiv (fxOfInt 2) ((isqrt (fxPi.1.toNat * fxOne.toNat) : Nat), (isqrt (fxPi.2.toNat * fxOne.toNat) + 1 : Nat))
      .between (valMul (.fin neg m e) (.fin false ((c.1 - c.1 / 2 ^ 100).toNat) (-fxBits)))
        (valMul (.fin neg m e) (.fin false c.2.toNat (-fxBits)))
    else if 3 ≤ lg then .between (.fin neg (2 ^ 80 - 1) (-80)) (.fin neg 1 0)
    else
      let y := erfFx (fxOfDyadic false m e)
      fxBetween (if neg then fxNeg y else y) 0
  | .gelu =>
    if tiny then halfPlusSquare neg m e 1 2 2
    else if 4 ≤ lg then (if neg then .between (.fin true 1 (-500)) (.fin true 1 (-600)) else nearBelow false m e)
    else
      let y := erfFx (fxMul (fxOfDyadic false m e) fxInvSqrt2)
      let h := if neg then fxSub (fxOfInt 1) y else fxAdd (fxOfInt 1) y
      let v := fxShift (fxMul (fxOfDyadic false m e) h) (-1)
      fxBetween (if neg then fxNeg v else v) 0

/-- The special arguments of R212. -/
def sfuSpecial (fn : SfuFn) (v : Val) : Option Val :=
  let one : Val := .fin false 1 0
  match v with
  | .nan => some .nan
  | .fin neg 0 _ =>
    some (match fn with
      | .exp | .exp2 | .cos => one
      | .log | .log2 => .inf true
      | .rcp | .rsqrt => .inf neg
      | .sigmoid => .fin false 1 (-1)
      | .sqrt | .sin | .tanh | .erf | .gelu | .silu => .fin neg 0 0)
  | .inf neg =>
    some (match fn with
      | .exp | .exp2 => if neg then .fin false 0 0 else .inf false
      | .log | .log2 | .sqrt => if neg then .nan else .inf false
      | .rcp => .fin neg 0 0
      | .rsqrt => if neg then .nan else .fin false 0 0
      | .sin | .cos => .nan
      | .tanh | .erf => .fin neg 1 0
      | .sigmoid => if neg then .fin false 0 0 else one
      | .gelu | .silu => if neg then .fin true 0 0 else .inf false)
  | _ => none

/-- Rounding with the limits of R212: a value beyond the largest finite one is infinite. -/
def sfuRound (f : FloatFmt) (v : Val) : Nat :=
  match v with
  | .fin neg m e =>
    if valLt (.fin false (codeMag f f.maxCode).1 (codeMag f f.maxCode).2) (.fin false m e) then infOf f neg
    else rne f v
  | v => rne f v

/-- The middle of two values of one sign, exactly. -/
def valMiddle (a b : Val) : Val :=
  match valAdd false a b with
  | .fin s m e => .fin s m (e - 1)
  | v => v

/-- The result of a special function on a code of format `f` (R211, R212): the value rounded once. Where the two ends of an enclosure
round differently, its middle is rounded, which lies closer to the exact value than any difference that the enclosure can show (log
entry 7). -/
def sfu (fn : SfuFn) (f : FloatFmt) (c : Nat) : Nat :=
  let v := decodeFloat f c
  match sfuSpecial fn v with
  | some r => rne f r
  | none =>
    match v with
    | .fin neg m e =>
      match sfuFinite fn neg m e with
      | .exact r => sfuRound f r
      | .between lo hi => if sfuRound f lo = sfuRound f hi then sfuRound f lo else sfuRound f (valMiddle lo hi)
    | _ => nanOf f

end Sys2Proof.Machine
end

