-- ==== Sys2Proof/Machine/Vector.lean ====
section
/-! DEFINITION. Machine/Vector.lean: the vector slots (spec 09). -/

namespace Sys2Proof.Machine

/-! ## Views and checks (R189 to R193) -/

/-- The tag of the element view: that of A, of B where A is LS, else FP32 (R189). -/
def Core.viewTag (x : Core) (A : RowOp) (B : Option RowOp) : Tag :=
  if !isLs A then x.rowTag A
  else match B with
    | some b => if isLs b then .FP32 else x.rowTag b
    | none => .FP32

/-- The families of source tags of R193. -/
def okFloat (t : Tag) : Bool := t == .FP32 || t == .BF16 || t == .FP16
def okArith (t : Tag) : Bool := okFloat t || tagInt t
def okAny (t : Tag) : Bool := t != .EMPTY
def okElem (t : Tag) : Bool := t != .EMPTY && t != .BX4
def okPerm (t : Tag) : Bool := okElem t && tagBits t != 4
def okScan (t : Tag) : Bool := t == .FP32 || t == .I32 || t == .N32

/-- The unsigned tag of an element size (R210). -/
def unsignedTag (w : Nat) : Tag := if w = 8 then .N8 else if w = 16 then .N16 else .N32

/-- Whether the tags of the sources are accepted: the view, the tag that B must have for it, and no LS under BX4
(R146, R189, R193). -/
def Core.tagsOk (x : Core) (A : RowOp) (B : Option RowOp) (ok : Tag → Bool) (bTag : Tag → Tag) : Bool :=
  let t := x.viewTag A B
  ok t &&
    match B with
    | none => true
    | some b => (if isLs A || isLs b then t else x.rowTag b) == bTag t && !((isLs A || isLs b) && t == .BX4)

/-- The guard's conditions on the destination (R191). -/
def Core.guardOk (x : Core) (g : BitVec 2) (D : RowOp) (t r : Tag) : Bool :=
  g == 0 || (t != .BX4 && r != .BX4 && (x.destTag D == r || x.destTag D == .EMPTY))

/-- Elements that are off keep the destination's (R191). -/
def State.blend (s : State) (g : BitVec 2) (D : RowOp) (n w : Nat) (r : RowBits) : RowBits :=
  if g = 0 then r else guarded (s.guardOf g) n w (s.destOld D) (elem w r)

/-- A row from what each element of a view is. -/
def viewRow (t : Tag) (f : Nat → Nat) : RowBits := packRow (tagBits t) ((List.range (tagCount t)).map f)

/-- A vector instruction whose result is one row: accepted tags, the tag that B must have, a further 0x03 check, the tag
and latency of the result, and its value from the sources. -/
structure RowForm where
  ok : Tag → Bool
  bTag : Tag → Tag := id
  field : Core → Tag → Bool := fun _ _ => true
  res : Tag → Tag := id
  left : Tag → Nat
  value : State → Tag → RowBits → RowBits → RowBits

def vecSem (D A : RowOp) (B : Option RowOp) (g : BitVec 2) (f : RowForm) : SlotSem :=
  let srcs := A :: B.toList
  { check := fun s =>
      let x := s.me
      let t := x.viewTag A B
      firstSome (s.destTrap D :: srcs.map s.sourceTrap ++
        [operandTrap (!f.ok t || f.field x t), tagTrap (x.tagsOk A B f.ok f.bTag && x.guardOk g D t (f.res t))])
    wait := fun s => firstSome (srcs.map s.sourceWait)
    pushes := pushesOf D
    act := fun s =>
      let t := s.me.viewTag A B
      s.unless (s.rowFault D srcs) fun s =>
        let r := f.value s t (s.rowBits t A) ((B.map (s.rowBits t)).getD 0)
        s.rowResult (f.left t) D (s.blend g D (tagCount t) (tagBits t) r) (f.res t) }

/-- A function of the elements (R195). -/
def elemwise (f : Tag → Nat → Nat → Nat) (_ : State) (t : Tag) (a b : RowBits) : RowBits :=
  let w := tagBits t
  viewRow t fun i => f t (elem w a i) (elem w b i)

def arithForm (op : ArithOp) (ok : Tag → Bool) (left : Nat) : RowForm :=
  { ok := ok, left := fun _ => left, value := elemwise fun t a b => arith op t a b 0 }

def shiftForm (op : ShiftOp) : RowForm :=
  { ok := tagInt, left := fun _ => 2, value := elemwise fun t a b => shiftElem op (tagBits t) a b }

/-- A function of the rows' bits (R197). -/
def bitsForm (f : RowBits → RowBits → RowBits) : RowForm :=
  { ok := okAny, left := fun _ => 2, value := fun _ _ a b => f a b }

/-- A choice of source elements (R209). -/
def moveForm (left : Nat) (f : (w n : Nat) → RowBits → RowBits → Nat → Nat) : RowForm :=
  { ok := okElem, left := fun _ => left, value := fun _ t a b => viewRow t (f (tagBits t) (tagCount t) a b) }

/-! ## Arithmetic, logic and shifts (R195 to R197) -/

def semVnop : SlotSem := {}
def semVadd (D A B : RowOp) (g : BitVec 2) : SlotSem := vecSem D A (some B) g (arithForm .add okArith 2)
def semVsub (D A B : RowOp) (g : BitVec 2) : SlotSem := vecSem D A (some B) g (arithForm .sub okArith 2)
def semVmul (D A B : RowOp) (g : BitVec 2) : SlotSem := vecSem D A (some B) g (arithForm .mul okArith 4)

/-- VFMA reads D also as its addend: it must hold the view's tag, and no stream can be read and written (R196). -/
def semVfma (D A B : RowOp) (g : BitVec 2) : SlotSem :=
  let base := vecSem D A (some B) g
    { ok := okArith
      left := fun _ => 4
      value := fun s t a b =>
        let w := tagBits t
        let d := s.rowBits t D
        viewRow t fun i => arith .fma t (elem w a i) (elem w b i) (elem w d i) }
  { base with
    check := fun s => firstSome
      [s.sourceTrap D, base.check s, tagTrap (s.me.destTag D == s.me.viewTag A (some B))] }

def semVmin (D A B : RowOp) (g : BitVec 2) : SlotSem := vecSem D A (some B) g (arithForm .min okArith 2)
def semVmax (D A B : RowOp) (g : BitVec 2) : SlotSem := vecSem D A (some B) g (arithForm .max okArith 2)
def semVabs (D A : RowOp) (g : BitVec 2) : SlotSem := vecSem D A none g (arithForm .abs okArith 2)
def semVneg (D A : RowOp) (g : BitVec 2) : SlotSem := vecSem D A none g (arithForm .neg okArith 2)
def semVadds (D A B : RowOp) (g : BitVec 2) : SlotSem := vecSem D A (some B) g (arithForm .adds tagInt 2)
def semVsubs (D A B : RowOp) (g : BitVec 2) : SlotSem := vecSem D A (some B) g (arithForm .subs tagInt 2)
def semVmulh (D A B : RowOp) (g : BitVec 2) : SlotSem := vecSem D A (some B) g (arithForm .mulh tagInt 4)
def semVand (D A B : RowOp) (g : BitVec 2) : SlotSem := vecSem D A (some B) g (bitsForm (· &&& ·))
def semVor (D A B : RowOp) (g : BitVec 2) : SlotSem := vecSem D A (some B) g (bitsForm (· ||| ·))
def semVxor (D A B : RowOp) (g : BitVec 2) : SlotSem := vecSem D A (some B) g (bitsForm (· ^^^ ·))
def semVnot (D A : RowOp) (g : BitVec 2) : SlotSem := vecSem D A none g (bitsForm fun a _ => ~~~a)
def semVshl (D A B : RowOp) (g : BitVec 2) : SlotSem := vecSem D A (some B) g (shiftForm .left)
def semVshr (D A B : RowOp) (g : BitVec 2) : SlotSem := vecSem D A (some B) g (shiftForm .right)
def semVsar (D A B : RowOp) (g : BitVec 2) : SlotSem := vecSem D A (some B) g (shiftForm .arithRight)

/-! ## Compare, select and predicates (R198 to R200) -/

/-- A predicate result (R111). -/
def State.predResult (s : State) (pd : BitVec 2) (v : Pred) : State := s.pend 2 (.pred pd v)

def semVcmp (cond : FCond) (pd : BitVec 2) (A B : RowOp) (g : BitVec 2) : SlotSem :=
  { check := fun s => firstSome [operandTrap (pd != 0), s.sourceTrap A, s.sourceTrap B,
      tagTrap (s.me.tagsOk A (some B) okArith id)]
    wait := fun s => firstSome [s.sourceWait A, s.sourceWait B]
    act := fun s => s.unless (firstSome [s.sourceFault A, s.sourceFault B]) fun s =>
      let t := s.me.viewTag A (some B)
      let w := tagBits t
      let a := s.rowBits t A
      let b := s.rowBits t B
      s.predResult pd (predOf (s.guardOf g) (s.me.regs.pReg pd) (tagCount t) fun i =>
        cmpElem cond t (elem w a i) (elem w b i)) }

def semVsel (D A : RowOp) (ps : BitVec 2) (g : BitVec 2) : SlotSem :=
  vecSem D A none g
    { ok := okElem
      left := fun _ => 2
      value := fun s t a _ => viewRow t fun i => if onLane (s.guardOf ps) (tagCount t) i then elem (tagBits t) a i else 0 }

/-- Predicate logic. -/
def predSem (pd : BitVec 2) (g : BitVec 2) (f : State → Pred) : SlotSem :=
  { check := fun _ => operandTrap (pd != 0)
    act := fun s => (s.predResult pd (predLogic (s.guardOf g) (s.me.regs.pReg pd) (f s)), none) }

def semPand (pd pa pb : BitVec 2) (g : BitVec 2) : SlotSem := predSem pd g fun s => s.guardOf pa &&& s.guardOf pb
def semPor (pd pa pb : BitVec 2) (g : BitVec 2) : SlotSem := predSem pd g fun s => s.guardOf pa ||| s.guardOf pb
def semPxor (pd pa pb : BitVec 2) (g : BitVec 2) : SlotSem := predSem pd g fun s => s.guardOf pa ^^^ s.guardOf pb
def semPnot (pd pa : BitVec 2) (g : BitVec 2) : SlotSem := predSem pd g fun s => ~~~(s.guardOf pa)

/-! ## Conversions (R201 to R205) -/

/-- A one-to-one conversion needs formats of one element size, none of them BX4 (R201). -/
def cvtOk (tgt t : Tag) : Bool := okElem t && okElem tgt && tagBits t == tagBits tgt

/-- Rows of the wider side of a conversion: 2 or 4, else none (R201). -/
def convRatio (wide narrow : Tag) : Option Nat :=
  if okElem wide && okElem narrow then
    match groupRatio (tagBits wide) (tagBits narrow) with
    | some 1 => none
    | r => r
  else none

/-- A conversion of one element of the acting core. -/
def State.convElem (s : State) (t tgt : Tag) (rm : RMode) (sat : Bool) (i c : Nat) : Nat :=
  convert t tgt rm (s.rnd i) sat c

def semVcvt (D A : RowOp) (tgt : Tag) (rm : RMode) (sat : Bool) (g : BitVec 2) : SlotSem :=
  let base := vecSem D A none g
    { ok := cvtOk tgt
      res := fun _ => tgt
      left := fun _ => 3
      value := fun s t a _ => viewRow t fun i => s.convElem t tgt rm sat i (elem (tagBits t) a i) }
  { base with
    act := fun s =>
      let r := base.act s
      (if r.2 = none then r.1.advanceRnd rm (tagCount (s.me.viewTag A none)) else r.1, r.2) }

/-- The elements of a group as the destination holds them, zero for EMPTY (R191). -/
def State.groupOld (s : State) (D : RowOp) (k : Nat) : List RowBits :=
  if s.me.destTag D = .EMPTY then [] else s.me.regs.groupRows D k

/-- A sequence of n elements under a guard, placed in the k rows of a group; one row for k = 1 (R51, R202). -/
def State.placeGroup (s : State) (g : BitVec 2) (D : RowOp) (tgt : Tag) (k n : Nat) (f : Nat → Nat) : State :=
  let w := tagBits tgt
  if k = 1 then s.rowResult 3 D (s.blend g D n w (packRow w ((List.range n).map f))) tgt
  else
    let old := s.groupOld D k
    s.groupResult 3 D (groupRows w k n fun i => if onLane (s.guardOf g) n i then f i else groupElem w k old i) tgt

/-- VWID. A pairing that the table does not have raises 0x04 whatever the alignment of the rows: it makes no group (log entry 80). -/
def semVwid (D A : RowOp) (tgt : Tag) (rm : RMode) (sat : Bool) (g : BitVec 2) : SlotSem :=
  { check := fun s =>
      let x := s.me
      let t := x.viewTag A none
      firstSome [s.destTrap D, s.sourceTrap A,
        match convRatio tgt t with
        | none => some ⟨0x04, 0⟩
        | some k => firstSome [operandTrap (x.regs.groupOk D k), tagTrap (x.guardOk g D t tgt)]]
    wait := fun s => s.sourceWait A
    act := fun s => s.unless (s.sourceFault A) fun s =>
      let t := s.me.viewTag A none
      let a := s.rowBits t A
      let n := tagCount t
      (s.placeGroup g D tgt ((convRatio tgt t).getD 2) n fun i =>
        s.convElem t tgt rm sat i (elem (tagBits t) a i)).advanceRnd rm n }

/-- VNAR, with the checks of VWID (log entry 80). -/
def semVnar (D A : RowOp) (tgt : Tag) (rm : RMode) (sat : Bool) (g : BitVec 2) : SlotSem :=
  { check := fun s =>
      let x := s.me
      let t := x.viewTag A none
      firstSome [s.destTrap D, s.sourceTrap A,
        match convRatio t tgt with
        | none => some ⟨0x04, 0⟩
        | some k => firstSome [operandTrap (x.regs.groupOk A k), tagTrap (x.guardOk g D t tgt)]]
    pushes := pushesOf D
    act := fun s => s.unless (s.pushFault D) fun s =>
      let t := s.me.viewTag A none
      let k := (convRatio t tgt).getD 2
      let rows := s.me.regs.groupRows A k
      let n := tagCount tgt
      (s.placeGroup g D tgt 1 n fun j =>
        s.convElem t tgt rm sat j (groupElem (tagBits t) k rows j)).advanceRnd rm n }

/-- VQUANT: the quad of FP32 rows that it reads, and the tag of B (R204). What is wrong with B's value comes before what is wrong with the push
of the result (log entry 81). -/
def semVquant (D A B : RowOp) : SlotSem :=
  { check := fun s =>
      let x := s.me
      firstSome [s.destTrap D, s.sourceTrap A, s.sourceTrap B, operandTrap (x.regs.groupOk A 4),
        tagTrap (x.rowTag A == .FP32 && (isLs B || x.rowTag B == .FP32))]
    wait := fun s => s.sourceWait B
    pushes := pushesOf D
    act := fun s =>
      let amax := elem 32 (s.rowBits .FP32 B) 0
      s.unless (firstSome [s.sourceFault B, operandTrap (!badAmax amax), s.pushFault D]) fun s =>
        let rows := s.me.regs.groupRows A 4
        s.rowResult 8 D (quantise ((List.range 512).map (groupElem 32 4 rows)) amax) .BX4 }

/-- CTL.TRAPADDR for a row that the check of R44 rejects (R205). -/
def bx4Trap : Bx4Error → Trap
  | .bound => ⟨0x04, 1⟩
  | .scale => ⟨0x04, 2⟩
  | .band => ⟨0x04, 3⟩

/-- VDEQ (R205). What is wrong with the row comes before what is wrong with the push of the result (log entry 81). -/
def semVdeq (D A : RowOp) (tgt : Tag) (rm : RMode) (sat : Bool) (g : BitVec 2) : SlotSem :=
  let k := ((vdeqBits tgt).getD 8) / 8
  { check := fun s =>
      let x := s.me
      firstSome [s.destTrap D, s.sourceTrap A, operandTrap (vdeqBits tgt).isSome,
        operandTrap (k == 1 || x.regs.groupOk D k),
        tagTrap (x.viewTag A none == .BX4 && x.guardOk g D tgt tgt)]
    wait := fun s => s.sourceWait A
    pushes := pushesOf D
    act := fun s =>
      let a := s.rowBits .BX4 A
      s.unless (firstSome [s.sourceFault A, (bx4Check a).map bx4Trap, s.pushFault D]) fun s =>
        let v := bx4Values a
        (s.placeGroup g D tgt k 512 fun i =>
          roundVal (tagFmt tgt) rm (s.rnd i) sat (v.getD i (.fin false 0 0))).advanceRnd rm 512 }

def semVsettag (D A : RowOp) (tag : Tag) (g : BitVec 2) : SlotSem :=
  vecSem D A none g
    { ok := okAny, field := fun _ _ => tag != .EMPTY, res := fun _ => tag, left := fun _ => 2, value := fun _ _ a _ => a }

/-! ## Reductions and scans (R206, R207) -/

/-- A reduction writes its row whole, whatever the guard. -/
def redSem (D A : RowOp) (amax : Bool) (f : Tag → RowBits → Nat) : SlotSem :=
  vecSem D A none 0
    { ok := okElem, res := redTag amax, left := fun _ => 6, value := fun _ t a _ => BitVec.ofNat 4096 (f t a % 2 ^ 32) }

/-- The same with a guard that acts on the lanes. -/
def guardedRed (D A : RowOp) (g : BitVec 2) (amax : Bool) (f : Tag → Pred → RowBits → Nat) : SlotSem :=
  { redSem D A amax (fun t a => f t 0 a) with
    act := fun s => (redSem D A amax (fun t a => f t (s.guardOf g) a)).act s }

def semVredsum (D A : RowOp) (g : BitVec 2) : SlotSem := guardedRed D A g false redSum
def semVredmax (D A : RowOp) (g : BitVec 2) : SlotSem := guardedRed D A g false (redExt .max)
def semVredmin (D A : RowOp) (g : BitVec 2) : SlotSem := guardedRed D A g false (redExt .min)
def semVamax (D A : RowOp) (g : BitVec 2) : SlotSem := guardedRed D A g true (redExt .amax)

/-- VSCAN. A NaN in lane 0 is combined with nothing and keeps its payload (log entry 58). -/
def semVscan (D A : RowOp) (g : BitVec 2) : SlotSem :=
  vecSem D A none g
    { ok := okScan
      left := fun _ => 7
      value := fun s t a _ =>
        packRow 32 (scanSum t ((List.range 128).map fun i => if onLane (s.guardOf g) 128 i then elem 32 a i else 0)) }

/-! ## Moves and permutes (R208 to R210) -/

def semVbcast (D A : RowOp) (m : BitVec 8) (g : BitVec 2) : SlotSem :=
  vecSem D A none g
    { moveForm 2 (fun w _ a _ _ => elem w a m.toNat) with field := fun _ t => decide (m.toNat < tagCount t) }

def semVperm (D A B : RowOp) (g : BitVec 2) : SlotSem :=
  vecSem D A (some B) g
    { moveForm 3 (fun w n a b i => elem w a (permIndex n i (elem w b i))) with
      ok := okPerm, bTag := fun t => unsignedTag (tagBits t) }

def semVshuf (D A : RowOp) (kind : Shuffle) (g : BitVec 2) : SlotSem :=
  vecSem D A none g (moveForm 3 fun w n a _ i => elem w a (shufIndex kind n i))

def semVslide (D A : RowOp) (k : BitVec 8) (g : BitVec 2) : SlotSem :=
  vecSem D A none g (moveForm 3 fun w n a _ i => slideElem w n a k i)

def semVmov (D A : RowOp) (g : BitVec 2) : SlotSem := vecSem D A none g (bitsForm fun a _ => a)

/-- VSPLAT has no source: its view is that of the tag it names. -/
def semVsplat (D : RowOp) (tag : Tag) (imm : BitVec 8) (g : BitVec 2) : SlotSem :=
  { check := fun s => firstSome [s.destTrap D, operandTrap (okElem tag), tagTrap (s.me.guardOk g D tag tag)]
    pushes := pushesOf D
    act := fun s => s.unless (s.pushFault D) fun s =>
      let e := convert .I32 tag .rne 0 true (wrap 32 imm.toInt)
      s.rowResult 2 D (s.blend g D (tagCount tag) (tagBits tag) (viewRow tag fun _ => e)) tag }

def semVext (D A B : RowOp) (g : BitVec 2) : SlotSem := vecSem D A (some B) g (moveForm 3 fun w n a b i => extElem w n a b i)

/-! ## Special functions and division (R211 to R213) -/

def semVsfu (D A : RowOp) (fn : SfuFn) (g : BitVec 2) : SlotSem :=
  vecSem D A none g
    { ok := okFloat
      left := fun t => if t = .FP32 then 18 else 12
      value := elemwise fun t a _ => sfu fn (tagFmt t) a }

def semVdiv (D A B : RowOp) (g : BitVec 2) : SlotSem :=
  vecSem D A (some B) g
    { ok := okFloat, left := fun _ => 18, value := elemwise fun t a b => fDiv (tagFmt t) a b }

/-! ## Meanings -/

/-- VNOP in V0 or V1. -/
def execVnop (s : State) : Answer := inSlot 2 semVnop s

/-- VADD in V0 or V1. -/
def execVadd (D A B : RowOp) (g : BitVec 2) (s : State) : Answer := inSlot 2 (semVadd D A B g) s

/-- VSUB in V0 or V1. -/
def execVsub (D A B : RowOp) (g : BitVec 2) (s : State) : Answer := inSlot 2 (semVsub D A B g) s

/-- VMUL in V0 or V1. -/
def execVmul (D A B : RowOp) (g : BitVec 2) (s : State) : Answer := inSlot 2 (semVmul D A B g) s

/-- VFMA in V0 or V1. -/
def execVfma (D A B : RowOp) (g : BitVec 2) (s : State) : Answer := inSlot 2 (semVfma D A B g) s

/-- VMIN in V0 or V1. -/
def execVmin (D A B : RowOp) (g : BitVec 2) (s : State) : Answer := inSlot 2 (semVmin D A B g) s

/-- VMAX in V0 or V1. -/
def execVmax (D A B : RowOp) (g : BitVec 2) (s : State) : Answer := inSlot 2 (semVmax D A B g) s

/-- VABS in V0 or V1. -/
def execVabs (D A : RowOp) (g : BitVec 2) (s : State) : Answer := inSlot 2 (semVabs D A g) s

/-- VNEG in V0 or V1. -/
def execVneg (D A : RowOp) (g : BitVec 2) (s : State) : Answer := inSlot 2 (semVneg D A g) s

/-- VADDS in V0 or V1. -/
def execVadds (D A B : RowOp) (g : BitVec 2) (s : State) : Answer := inSlot 2 (semVadds D A B g) s

/-- VSUBS in V0 or V1. -/
def execVsubs (D A B : RowOp) (g : BitVec 2) (s : State) : Answer := inSlot 2 (semVsubs D A B g) s

/-- VMULH in V0 or V1. -/
def execVmulh (D A B : RowOp) (g : BitVec 2) (s : State) : Answer := inSlot 2 (semVmulh D A B g) s

/-- VAND in V0 or V1. -/
def execVand (D A B : RowOp) (g : BitVec 2) (s : State) : Answer := inSlot 2 (semVand D A B g) s

/-- VOR in V0 or V1. -/
def execVor (D A B : RowOp) (g : BitVec 2) (s : State) : Answer := inSlot 2 (semVor D A B g) s

/-- VXOR in V0 or V1. -/
def execVxor (D A B : RowOp) (g : BitVec 2) (s : State) : Answer := inSlot 2 (semVxor D A B g) s

/-- VNOT in V0 or V1. -/
def execVnot (D A : RowOp) (g : BitVec 2) (s : State) : Answer := inSlot 2 (semVnot D A g) s

/-- VSHL in V0 or V1. -/
def execVshl (D A B : RowOp) (g : BitVec 2) (s : State) : Answer := inSlot 2 (semVshl D A B g) s

/-- VSHR in V0 or V1. -/
def execVshr (D A B : RowOp) (g : BitVec 2) (s : State) : Answer := inSlot 2 (semVshr D A B g) s

/-- VSAR in V0 or V1. -/
def execVsar (D A B : RowOp) (g : BitVec 2) (s : State) : Answer := inSlot 2 (semVsar D A B g) s

/-- VCMP in V0 or V1. -/
def execVcmp (cond : FCond) (pd : BitVec 2) (A B : RowOp) (g : BitVec 2) (s : State) : Answer :=
  inSlot 2 (semVcmp cond pd A B g) s

/-- VSEL in V0 or V1. -/
def execVsel (D A : RowOp) (ps : BitVec 2) (g : BitVec 2) (s : State) : Answer := inSlot 2 (semVsel D A ps g) s

/-- PAND in V0 or V1. -/
def execPand (pd pa pb : BitVec 2) (g : BitVec 2) (s : State) : Answer := inSlot 2 (semPand pd pa pb g) s

/-- POR in V0 or V1. -/
def execPor (pd pa pb : BitVec 2) (g : BitVec 2) (s : State) : Answer := inSlot 2 (semPor pd pa pb g) s

/-- PXOR in V0 or V1. -/
def execPxor (pd pa pb : BitVec 2) (g : BitVec 2) (s : State) : Answer := inSlot 2 (semPxor pd pa pb g) s

/-- PNOT in V0 or V1. -/
def execPnot (pd pa : BitVec 2) (g : BitVec 2) (s : State) : Answer := inSlot 2 (semPnot pd pa g) s

/-- VCVT in V0 or V1. -/
def execVcvt (D A : RowOp) (tgt : Tag) (rm : RMode) (sat : Bool) (g : BitVec 2) (s : State) : Answer :=
  inSlot 2 (semVcvt D A tgt rm sat g) s

/-- VWID in V0 or V1. -/
def execVwid (D A : RowOp) (tgt : Tag) (rm : RMode) (sat : Bool) (g : BitVec 2) (s : State) : Answer :=
  inSlot 2 (semVwid D A tgt rm sat g) s

/-- VNAR in V0 or V1. -/
def execVnar (D A : RowOp) (tgt : Tag) (rm : RMode) (sat : Bool) (g : BitVec 2) (s : State) : Answer :=
  inSlot 2 (semVnar D A tgt rm sat g) s

/-- VQUANT in V0 or V1. -/
def execVquant (D A B : RowOp) (s : State) : Answer := inSlot 2 (semVquant D A B) s

/-- VDEQ in V0 or V1. -/
def execVdeq (D A : RowOp) (tgt : Tag) (rm : RMode) (sat : Bool) (g : BitVec 2) (s : State) : Answer :=
  inSlot 2 (semVdeq D A tgt rm sat g) s

/-- VSETTAG in V0 or V1. -/
def execVsettag (D A : RowOp) (tag : Tag) (g : BitVec 2) (s : State) : Answer := inSlot 2 (semVsettag D A tag g) s

/-- VREDSUM in V0 or V1. -/
def execVredsum (D A : RowOp) (g : BitVec 2) (s : State) : Answer := inSlot 2 (semVredsum D A g) s

/-- VREDMAX in V0 or V1. -/
def execVredmax (D A : RowOp) (g : BitVec 2) (s : State) : Answer := inSlot 2 (semVredmax D A g) s

/-- VREDMIN in V0 or V1. -/
def execVredmin (D A : RowOp) (g : BitVec 2) (s : State) : Answer := inSlot 2 (semVredmin D A g) s

/-- VAMAX in V0 or V1. -/
def execVamax (D A : RowOp) (g : BitVec 2) (s : State) : Answer := inSlot 2 (semVamax D A g) s

/-- VSCAN in V0 or V1. -/
def execVscan (D A : RowOp) (g : BitVec 2) (s : State) : Answer := inSlot 2 (semVscan D A g) s

/-- VBCAST in V0 or V1. -/
def execVbcast (D A : RowOp) (m : BitVec 8) (g : BitVec 2) (s : State) : Answer := inSlot 2 (semVbcast D A m g) s

/-- VPERM in V0 or V1. -/
def execVperm (D A B : RowOp) (g : BitVec 2) (s : State) : Answer := inSlot 2 (semVperm D A B g) s

/-- VSHUF in V0 or V1. -/
def execVshuf (D A : RowOp) (kind : Shuffle) (g : BitVec 2) (s : State) : Answer := inSlot 2 (semVshuf D A kind g) s

/-- VSLIDE in V0 or V1. -/
def execVslide (D A : RowOp) (k : BitVec 8) (g : BitVec 2) (s : State) : Answer := inSlot 2 (semVslide D A k g) s

/-- VMOV in V0 or V1. -/
def execVmov (D A : RowOp) (g : BitVec 2) (s : State) : Answer := inSlot 2 (semVmov D A g) s

/-- VSPLAT in V0 or V1. -/
def execVsplat (D : RowOp) (tag : Tag) (imm : BitVec 8) (g : BitVec 2) (s : State) : Answer :=
  inSlot 2 (semVsplat D tag imm g) s

/-- VEXT in V0 or V1. -/
def execVext (D A B : RowOp) (g : BitVec 2) (s : State) : Answer := inSlot 2 (semVext D A B g) s

/-- VSFU in V0 or V1. -/
def execVsfu (D A : RowOp) (fn : SfuFn) (g : BitVec 2) (s : State) : Answer := inSlot 2 (semVsfu D A fn g) s

/-- VDIV in V0 or V1. -/
def execVdiv (D A B : RowOp) (g : BitVec 2) (s : State) : Answer := inSlot 2 (semVdiv D A B g) s

end Sys2Proof.Machine
end

