-- ==== Sys2Proof/Machine/Sems.lean ====
section
/-! DEFINITION. Machine/Sems.lean: what each instruction does in its slot, by constructor: the semantics that a bundle asks
for its checks and freezes, and that the meanings perform. -/

namespace Sys2Proof.Machine

/-- The slot semantics of an instruction; an event has none. -/
def semOf : Instr → SlotSem
  | .normal np op pop => semNormal np op pop
  | .sync np op pop g => semSync np op pop g
  | .lock np op pop pairs count => semLock np op pop pairs count
  | .xph np op pop => semXph np op pop
  | .nop => semNop
  | .add w d a b => semAdd w d a b
  | .sub w d a b => semSub w d a b
  | .and w d a b => semAnd w d a b
  | .or w d a b => semOr w d a b
  | .xor w d a b => semXor w d a b
  | .shl w d a b => semShl w d a b
  | .shr w d a b => semShr w d a b
  | .sar w d a b => semSar w d a b
  | .mul w d a b => semMul w d a b
  | .mulhi w d a b => semMulhi w d a b
  | .mulhn w d a b => semMulhn w d a b
  | .div w d a b => semDiv w d a b
  | .divn w d a b => semDivn w d a b
  | .rem w d a b => semRem w d a b
  | .remn w d a b => semRemn w d a b
  | .min w d a b => semMin w d a b
  | .max w d a b => semMax w d a b
  | .minn w d a b => semMinn w d a b
  | .maxn w d a b => semMaxn w d a b
  | .slt w d a b => semSlt w d a b
  | .sltn w d a b => semSltn w d a b
  | .seq w d a b => semSeq w d a b
  | .sel w d a b => semSel w d a b
  | .clz w d a => semClz w d a
  | .popc w d a => semPopc w d a
  | .ctz w d a => semCtz w d a
  | .rotl w d a b => semRotl w d a b
  | .bswap w d a => semBswap w d a
  | .exts w d a b => semExts w d a b
  | .extz w d a b => semExtz w d a b
  | .addi d a imm => semAddi d a imm
  | .andi d a imm => semAndi d a imm
  | .ori d a imm => semOri d a imm
  | .xori d a imm => semXori d a imm
  | .shli d a k => semShli d a k
  | .shri d a k => semShri d a k
  | .sari d a k => semSari d a k
  | .slti d a imm => semSlti d a imm
  | .sltni d a imm => semSltni d a imm
  | .muli d a imm => semMuli d a imm
  | .li d imm => semLi d imm
  | .lis d imm => semLis d imm
  | .br cond a off => semBr cond a off
  | .jmp off => semJmp off
  | .call off => semCall off
  | .jmpr d a => semJmpr d a
  | .ret => semRet
  | .fadd rm d a b => semFadd rm d a b
  | .fsub rm d a b => semFsub rm d a b
  | .fmul rm d a b => semFmul rm d a b
  | .ffma rm d a b => semFfma rm d a b
  | .fmin d a b => semFmin d a b
  | .fmax d a b => semFmax d a b
  | .fcmp cond d a b => semFcmp cond d a b
  | .fcvt kind rm d a => semFcvt kind rm d a
  | .getc d creg => semGetc d creg
  | .setc a creg => semSetc a creg
  | .getcQhost d => semGetcQhost d
  | .getcQserai d => semGetcQserai d
  | .getcQmsg d => semGetcQmsg d
  | .getcQerr d => semGetcQerr d
  | .setcQhost a => semSetcQhost a
  | .setcQserai a => semSetcQserai a
  | .setcQmsg a => semSetcQmsg a
  | .setcQerr a => semSetcQerr a
  | .setcClip a => semSetcClip a
  | .setcOplimit a => semSetcOplimit a
  | .cnpoolEnable a => semCnpoolEnable a
  | .cnpoolDisable a => semCnpoolDisable a
  | .trap i => semTrap i
  | .eret => semEret
  | .sleep d a b => semSleep d a b
  | .time d => semTime d
  | .cycle d => semCycle d
  | .halt => semHalt
  | .brk c => semBrk c
  | .slotq d sel => semSlotq d sel
  | .who d sel => semWho d sel
  | .pwracq a => semPwracq a
  | .pwrrel => semPwrrel
  | .pwrq d => semPwrq d
  | .spawn d a => semSpawn d a
  | .cancel d a b => semCancel d a b
  | .nodest d a b => semNodest d a b
  | .signal a b => semSignal a b
  | .vnop => semVnop
  | .vadd D A B g => semVadd D A B g
  | .vsub D A B g => semVsub D A B g
  | .vmul D A B g => semVmul D A B g
  | .vfma D A B g => semVfma D A B g
  | .vmin D A B g => semVmin D A B g
  | .vmax D A B g => semVmax D A B g
  | .vabs D A g => semVabs D A g
  | .vneg D A g => semVneg D A g
  | .vadds D A B g => semVadds D A B g
  | .vsubs D A B g => semVsubs D A B g
  | .vmulh D A B g => semVmulh D A B g
  | .vand D A B g => semVand D A B g
  | .vor D A B g => semVor D A B g
  | .vxor D A B g => semVxor D A B g
  | .vnot D A g => semVnot D A g
  | .vshl D A B g => semVshl D A B g
  | .vshr D A B g => semVshr D A B g
  | .vsar D A B g => semVsar D A B g
  | .vcmp cond pd A B g => semVcmp cond pd A B g
  | .vsel D A ps g => semVsel D A ps g
  | .pand pd pa pb g => semPand pd pa pb g
  | .por pd pa pb g => semPor pd pa pb g
  | .pxor pd pa pb g => semPxor pd pa pb g
  | .pnot pd pa g => semPnot pd pa g
  | .vcvt D A tgt rm sat g => semVcvt D A tgt rm sat g
  | .vwid D A tgt rm sat g => semVwid D A tgt rm sat g
  | .vnar D A tgt rm sat g => semVnar D A tgt rm sat g
  | .vquant D A B => semVquant D A B
  | .vdeq D A tgt rm sat g => semVdeq D A tgt rm sat g
  | .vsettag D A tag g => semVsettag D A tag g
  | .vredsum D A g => semVredsum D A g
  | .vredmax D A g => semVredmax D A g
  | .vredmin D A g => semVredmin D A g
  | .vamax D A g => semVamax D A g
  | .vbcast D A m g => semVbcast D A m g
  | .vperm D A B g => semVperm D A B g
  | .vshuf D A kind g => semVshuf D A kind g
  | .vslide D A k g => semVslide D A k g
  | .vscan D A g => semVscan D A g
  | .vmov D A g => semVmov D A g
  | .vsplat D tag imm g => semVsplat D tag imm g
  | .vext D A B g => semVext D A B g
  | .vsfu D A fn g => semVsfu D A fn g
  | .vdiv D A B g => semVdiv D A B g
  | .mnop => semMnop
  | .mmul A nr split mode => semMmul A nr split mode
  | .mmuls a core col nr split mode => semMmuls a core col nr split mode
  | .mwld a mask geom wfmt => semMwld a mask geom wfmt
  | .mswap mask => semMswap mask
  | .mzero => semMzero
  | .mwinv mask => semMwinv mask
  | .mdrain nr tag ofmt amx => semMdrain nr tag ofmt amx
  | .mdrains nr a ofmt amx glob col => semMdrains nr a ofmt amx glob col
  | .mcommit D tag nr => semMcommit D tag nr
  | .mlease ln => semMlease ln
  | .munlease => semMunlease
  | .mclip d => semMclip d
  | .cnop => semCnop
  | .ldl row a shape disp => semLdl row a shape disp
  | .stl row a shape disp => semStl row a shape disp
  | .ldr row a shape owner disp => semLdr row a shape owner disp
  | .ldsh row a wc disp => semLdsh row a wc disp
  | .stsh row a wc disp => semStsh row a wc disp
  | .lds s base sx size disp => semLds s base sx size disp
  | .sts s base size disp => semSts s base size disp
  | .ldg row a land wg rh => semLdg row a land wg rh
  | .stg row a wg => semStg row a wg
  | .ldsg s base sx size land => semLdsg s base sx size land
  | .stsg s base size => semStsg s base size
  | .pfg a wg rh => semPfg a wg rh
  | .bget ag al sdesc tag shape => semBget ag al sdesc tag shape
  | .bput ag al sdesc tag shape => semBput ag al sdesc tag shape
  | .bgetsh ag al sdesc tag wc => semBgetsh ag al sdesc tag wc
  | .bputsh ag al sdesc tag wc => semBputsh ag al sdesc tag wc
  | .bwait tag => semBwait tag
  | .bprom s tag => semBprom s tag
  | .aadd w sd sa sb sc ord tr => semAadd w sd sa sb sc ord tr
  | .amax w sd sa sb sc ord tr => semAmax w sd sa sb sc ord tr
  | .amin w sd sa sb sc ord tr => semAmin w sd sa sb sc ord tr
  | .amaxn w sd sa sb sc ord tr => semAmaxn w sd sa sb sc ord tr
  | .aminn w sd sa sb sc ord tr => semAminn w sd sa sb sc ord tr
  | .aand w sd sa sb sc ord tr => semAand w sd sa sb sc ord tr
  | .aor w sd sa sb sc ord tr => semAor w sd sa sb sc ord tr
  | .axor w sd sa sb sc ord tr => semAxor w sd sa sb sc ord tr
  | .axchg w sd sa sb sc ord tr => semAxchg w sd sa sb sc ord tr
  | .acas w sd sa sb sc ord tr => semAcas w sd sa sb sc ord tr
  | .afadd sd sa sb sc ord tr => semAfadd sd sa sb sc ord tr
  | .afmax sd sa sb sc ord tr => semAfmax sd sa sb sc ord tr
  | .aamax sd sa sb sc ord tr => semAamax sd sa sb sc ord tr
  | .ald w sd sa sc ord tr => semAld w sd sa sc ord tr
  | .ast w sa sb sc ord tr => semAst w sa sb sc ord tr
  | .fence pred succ sc => semFence pred succ sc
  | .mark => semMark
  | .wadd w sa sb sc rel => semWadd w sa sb sc rel
  | .wmax w sa sb sc rel => semWmax w sa sb sc rel
  | .wfadd sa sb sc rel => semWfadd sa sb sc rel
  | .cnput sn row qtr land => semCnput sn row qtr land
  | .cnget sn row qtr land => semCnget sn row qtr land
  | .cnref sn => semCnref sn
  | .cndrop sn => semCndrop sn
  | .cnswap sd sa sb sc => semCnswap sd sa sb sc
  | .cnlook sn row qtr land => semCnlook sn row qtr land
  | .cnout ag al sdesc tag => semCnout ag al sdesc tag
  | .cnhash sn row qtr land => semCnhash sn row qtr land
  | .xmit row part lane west => semXmit row part lane west
  | .xsel row part lane west => semXsel row part lane west
  | .flushms sa sc => semFlushms sa sc
  | .invl sa sc => semInvl sa sc
  | .anop => semAnop
  | .loop lvl count len => semLoop lvl count len
  | .loops lvl s len => semLoops lvl s len
  | .lbrk lvl => semLbrk lvl
  | .ainc a l => semAinc a l
  | .ainc2 a l a2 l2 => semAinc2 a l a2 l2
  | .aset a s => semAset a s
  | .aget a s => semAget a s
  | .aaddi a imm => semAaddi a imm
  | .amod a s => semAmod a s
  | .sbind q a => semSbind q a
  | .sunbind q => semSunbind q
  | .squery q s => semSquery q s
  | .kset a l s => semKset a l s
  | _ => {}

end Sys2Proof.Machine
end

