-- ==== Sys2Proof/Machine/Bundle.lean ====
section
/-! DEFINITION. Machine/Bundle.lean: the fetch of a bundle, its words, and how it comes to issue (spec 06, R96 to R103, R121,
R122; 07, R131, R132; 19, R404, R407, R409). -/

namespace Sys2Proof.Machine

/-! ## Words (R96, R98, R102, R121) -/

/-- The kind of slot of a word. -/
def slotOfWord (k : Nat) : Slot :=
  match k with
  | 0 => .H
  | 1 => .S
  | 2 | 3 => .V
  | 4 => .M
  | 5 | 6 => .C
  | _ => .A

/-- The words of 32 bytes, as a number. -/
def bundleWords (b : Nat) : List Nat := (List.range 8).map fun k => bitsAt b (32 * k) 32

/-- The cause of a word that is no instruction. -/
def badCode : BadWord → BitVec 8
  | .bundle => 0x01
  | .illegal => 0x02
  | .operand => 0x03

/-- Whether a word with an illegal operand is an illegal instruction where it stands (R121, R122): XMIT or XSEL outside an XPH bundle
(R381), or MMUL with a charge split that its profile or the part does not have (R318). -/
def State.barsWord (s : State) (k w : Nat) : Bool :=
  match slotOfWord k with
  | .C => [0x40, 0x41].contains (fld w 25 7) && s.me.flow.issue.head.kind != .xph
  | .M => fld w 26 6 == 0x01 && (splitTrap s s.me.flow.issue.head.np (bvf 3 w 10)).isSome
  | _ => false

/-- What a word in its slot does, or its decode failure. -/
def wordSem (k w : Nat) : SlotSem :=
  match decodeSlot (slotOfWord k) w with
  | .error .operand => { check := fun s => some ⟨if s.barsWord k w then 0x02 else 0x03, 0⟩ }
  | .error e => { check := fun _ => some ⟨badCode e, 0⟩ }
  | .ok i => semOf i

/-- Whether a header word asks for a caravan cycle. -/
def isXph (w : Nat) : Bool :=
  match decodeSlot .H w with
  | .ok (.xph _ _ _) => true
  | _ => false

/-- Whether an XPH bundle may hold a word (R102). -/
def xphAllows (k w : Nat) : Bool :=
  w == 0 ||
  (match slotOfWord k with
   | .H => true
   | .C => [0x40, 0x41].contains (fld w 25 7)
   | .A => [0x04, 0x05, 0x08, 0x09].contains (fld w 26 6)
   | _ => false)

/-- Checks of the words of a bundle against one another: an XPH bundle (R102), and ERET (R167). -/
def bundleShape (ws : List Nat) (header : Nat) (k : Nat) : Option Trap :=
  if k = 0 then (if isXph header && !(ws.zipIdx.all fun p => xphAllows p.2 p.1) then some ⟨0x01, 0⟩ else none)
  else if k = 1 ∧ decodeSlot .S (ws.getD 1 0) = .ok .eret ∧ (ws.drop 2).any (· != 0) then some ⟨0x02, 0⟩
  else none

/-- The words of a bundle that are still to perform: the header, and those neither zero nor performed before. -/
def activeWords (ws : List Nat) (redo : BitVec 16) : List (Nat × Nat) :=
  (ws.zipIdx.map fun p => (p.2, p.1)).filter fun p => p.1 == 0 || (p.2 != 0 && !redo.getLsbD p.1)

/-- Words that count as performed: the zero words and those performed before (R404). -/
def performedMask (ws : List Nat) (redo : BitVec 16) : BitVec 8 :=
  (List.range 8).foldl (fun m k => if k ≠ 0 ∧ (ws.getD k 0 = 0 ∨ redo.getLsbD k) then m ||| (1#8 <<< k) else m) 0

/-- The semantics of the words still to perform, with the checks of the words against one another first. -/
def wordSems (ws : List Nat) (redo : BitVec 16) : List (Nat × SlotSem) :=
  let masked := ws.zipIdx.map fun p => if p.2 ≠ 0 ∧ redo.getLsbD p.2 then 0 else p.1
  (activeWords ws redo).map fun p =>
    let m := wordSem p.1 p.2
    let shape := if p.1 = 0 then bundleShape masked (ws.getD 0 0) 0 else bundleShape ws 0 p.1
    (p.1, { m with check := fun s => match shape with | some t => some t | none => m.check s })

/-- The instructions of the words still to perform. -/
def wordInstrs (ws : List Nat) (redo : BitVec 16) : List (Nat × Instr) :=
  (activeWords ws redo).filterMap fun p =>
    match decodeSlot (slotOfWord p.1) p.2 with
    | .ok i => some (p.1, i)
    | .error _ => none

/-! ## Fetch (R97, R132) -/

/-- The byte address of a bundle. -/
def fetchVa (pc : Pc) : Word := (pc ++ 0#5 : BitVec 64)

/-- The bundle at a core's PC: its words, or the fault of its fetch. -/
def State.fetchAt (s : State) (c : Nat) (pc : Pc) : State × Except Trap (List Nat) :=
  match s.access c .fetch (fetchVa pc) 32 with
  | (s, .error t) => (s, .error t)
  | (s, .ok r) => ((s.physRead (some c) r.2 32).1, .ok (bundleWords (s.physRead (some c) r.2 32).2))

/-- BUNDLE_FETCH: the bubble after a taken branch ends; a fault of the fetch arises when the bundle comes to issue. -/
def State.bundleFetch (s : State) (c : Nat) : State :=
  s.modCore c fun x => x.modFlow fun f =>
    { f with fetched := true, frozen := if f.frozen = some .fetch then none else f.frozen }

/-! ## Issue (R131, R132, R409) -/

/-- Whether a core has a bundle to issue. -/
def Core.mayIssue (x : Core) : Bool :=
  match x.run with
  | some r => !r.halted && !r.restore
  | none => false

/-- Whether the current core waits for the other members of its phase before its next bundle, whatever that bundle is (R377). -/
def State.phaseWaits (s : State) : Bool :=
  match s.lockstep s.cur with
  | some p => !s.me.flow.synced && s.phaseHolds s.cur p
  | none => false

/-- The words of the current core's next bundle: fetched, but for a bundle whose requests the directory has, which is not fetched again
(R344). -/
def State.nextWords (s : State) : State × Except Trap (List Nat) :=
  if s.me.mem.cn.isEmpty then s.fetchAt s.cur s.me.flow.pc else (s, .ok s.me.flow.words)

/-- The words of a bundle that waits for its verdicts stay. -/
def State.keepWords (s : State) (ws : List Nat) : State :=
  if s.me.mem.cn.isEmpty then s else s.modMe fun x => x.modFlow fun f => { f with words := ws }

/-- The current core's next bundle comes to issue: what its words are to perform, or the state in which it waits or has trapped. -/
def State.tryBundle (s : State) : Except State (State × List (Nat × Instr)) :=
  let f := s.me.flow
  if s.me.landingDue then .error (s.freeze .landing)
  else if !f.fetched then .error (s.freeze .fetch)
  else if s.phaseWaits then .error (s.freeze .phase)
  else if s.calendar.hold && s.me.mem.cn.isEmpty && s.needsWalk s.cur (fetchVa f.pc) then .error (s.freeze .walk)
  else
    match s.nextWords with
    | (s, .error t) => .error (s.decodeTrap 10 t)
    | (s, .ok ws) =>
      match s.reachIssue (wordSems ws f.redo) (performedMask ws f.redo) with
      | .error s => .error (s.keepWords ws)
      | .ok s =>
        let l := wordInstrs ws f.redo
        .ok (s.modMe fun x => x.modIssue fun i => { i with slot := 0, more := l.length - 1 }, l)

/-- The current core's turn. A boundary cause is taken first; but where the group of its SYNC bundle has just restarted, that bundle issues
before it unless something else holds the bundle (R375, R385, R409). A reissue after ERET stands behind every cause (R407). -/
def State.openBundle (s : State) : State × List (Nat × Instr) :=
  let s := s.landDue s.cur
  match s.tryBundle, s.boundaryCause s.cur with
  | .ok r, none => r
  | .error s, none => (s, [])
  | r, some t =>
    let cause (s : State) : State × List (Nat × Instr) :=
      (if t.code = 0x30 then s.preemptHere s.cur else s.takeBoundary s.cur t, [])
    if s.me.flow.restarted then
      match r with
      | .ok r => r
      | .error e => cause (s.modMe fun x => x.modFlow fun f => { f with frozen := some (e.me.flow.frozen.getD .landing) })
    else cause s

/-! ## Meanings -/

/-- BUNDLE_FETCH. -/
def execBundleFetch (core : Nat) (s : State) : Answer := asEvent (·.bundleFetch core) s

end Sys2Proof.Machine
end

