-- ==== Sys2Proof/Machine/Restart.lean ====
section
/-! DEFINITION. Machine/Restart.lean: the restart of a SYNC group, and the opening and end of a caravan phase (spec 16, R370;
17, R373 to R377, R385). -/

namespace Sys2Proof.Machine

/-- The cores of a group that have not halted their last slice, from one core's point of view (R373). -/
def State.groupCores (s : State) (c : Nat) (g : Group) : List Nat :=
  match (s.core c).run with
  | none => []
  | some r =>
    let gang := s.gangCores r.node r.gang
    match g with
    | .gang => gang
    | .cluster => gang.filter fun o => clusterOf o == clusterOf c
    | .strip => gang.filter fun o => s.stripOf o == s.stripOf c

/-- Whether a member's accesses before its SYNC bundle are performed (R370): its queues, its stores to the scratchpad as the others see them
(R223), the maxima of its drains, the replies of its atomics (R357), and the rows of its write streams (log entry 75). -/
def Core.fencedIn (x : Core) : Bool :=
  x.mem.memq.all (·.isFence) && x.mem.unseen.isEmpty && !(x.mat.cmds.any (·.isAmx)) && !x.pushesDue x.flow.bun && !x.repliesDue x.flow.bun

/-- Whether every member has arrived at a SYNC of the group, with its fence in effect. -/
def State.groupReady (s : State) (g : Group) (m : List Nat) : Bool :=
  m.all fun c => (s.core c).flow.arrived == some g && (s.core c).fencedIn

/-- The PC that follows the SYNC bundle at which a member waits: its words are performed for their branch or loop only. None follows where
the bundle ends the slice. -/
def State.afterSync (s : State) (c : Nat) : Option Pc :=
  let s : State := { s with cur := c }
  let f := s.me.flow
  match s.fetchAt c f.pc with
  | (_, .error _) => none
  | (s, .ok ws) =>
    let s := s.modMe fun x => x.modIssue fun i => { i with isOpen := true }
    let s := (wordSems ws f.redo).foldl (fun (s : State) p => if p.1 = 0 then s else s.performSlot p.1 p.2) s
    if s.me.flow.carry.halt then none else some (nextBundle f.pc s.me.flow.carry f.loops s.me.regs.lc).1

/-- Whether the bundle that a member issues after its SYNC is an XPH bundle; one that cannot be fetched is not (R376). -/
def State.nextIsXph (s : State) (c : Nat) : Bool :=
  match s.afterSync c with
  | none => false
  | some pc =>
    match s.fetchAt c pc with
    | (_, .ok ws) => isXph (ws.getD 0 0)
    | (_, .error _) => false

/-- The members restart: their arrivals stand for the SYNC bundle. -/
def State.releaseGroup (s : State) (g : Group) (m : List Nat) : State :=
  let s := if g = .cluster then s
    else (m.map clusterOf).dedup.foldl (fun (s : State) k => s.clearCache k) s
  m.foldl (fun (s : State) c => s.modCore c fun x => x.modFlow fun f =>
    { f with synced := true, restarted := true, arrived := none, frozen := none }) s

/-- SYNC_RESTART: the group in which a core waits restarts when every member has arrived. A gang's restart ends its open
phase, and opens one when every member goes on with an XPH bundle; it waits while another gang's phase is open. -/
def State.syncRestart (s : State) (c : Nat) : State :=
  match (s.core c).flow.arrived, (s.core c).run with
  | some g, some r =>
    let m := s.groupCores c g
    if !s.groupReady g m || !m.contains c || s.partSaved r.node r.gang then s
    else if g ≠ .gang then s.releaseGroup g m
    else
      let d := dieOf c
      let own (p : Phase) : Bool := p.node == r.node && p.gang == r.gang
      let opens := m.all s.nextIsXph
      match (s.die d).phase with
      | some p =>
        if own p then
          let s := s.modDie d fun x => { x with phase := none, roads := [] }
          let s := if opens then s.modDie d fun x => { x with phase := some ⟨r.node, r.gang, m, [], false⟩ } else s
          s.releaseGroup g m
        else if opens then s
        else s.releaseGroup g m
      | none =>
        let s := if opens then s.modDie d fun x => { x with phase := some ⟨r.node, r.gang, m, [], false⟩, roads := [] } else s
        s.releaseGroup g m
  | _, _ => s

/-! ## Meanings -/

/-- SYNC_RESTART. -/
def execSyncRestart (core : Nat) (s : State) : Answer := asEvent (·.syncRestart core) s

end Sys2Proof.Machine
end

