-- ==== Sys2Proof/Machine/Plan.lean ====
section
/-! DEFINITION. Machine/Plan.lean: what the next step is. The specification lets cores, engines, serais and the host act in
any order that its rules allow; here the agenda in the state says who acts, and where it is empty the module acts by itself:
whatever is due, then each core in turn, then a tick. -/

namespace Sys2Proof.Machine

/-! ## A tick (R79, R82, R152, R154) -/

/-- Ticks of a settling that are left. -/
def Ctl.tick (t : Ctl) : Ctl := if t.settle then { t with settleLeft := t.settleLeft - 1 } else t

/-- A tick: the serais end their cycle, time goes on, tokens are added, settlings come nearer to their end, and requests that
waited for the end of a pre-emption are served. What the new tick begins stands before everything else in it: a slot, or its hold (R419,
R420), and a fail-safe (R455). -/
def State.tick (s : State) : State :=
  let s := s.cycles 8
  let s := { s with now := s.now + 1, turnFrom := 0 }.timerDeadlines.tokenRefill
  let s : State := { s with cores := s.cores.map fun p => (p.1, p.2.modCtl Ctl.tick) }
  let s := (List.range 8).foldl State.announce s
  let s := (List.range 8).foldl State.serveWaiting s
  (List.range 8).foldl State.failSafe s.slotHold.minorSlot.majorSlot

/-- Whether the serais' cycles of this tick have begun: what comes after them belongs to the next (R465). -/
def State.cyclesBegun (s : State) : Bool := (List.range 8).any s.cycled

/-- Whether a core has put a launch into a FIFO in this tick: a launch of the host would have to stand before it (R66). -/
def State.queuedNow (s : State) : Bool := (List.range 8).any fun d => (s.die d).queueAt == some s.now

/-! ## What is due -/

/-- The acts of the module that may be due, dies and nodes in ascending order. -/
def State.moduleActs (s : State) : List (State → State) :=
  let dies (f : Nat → Die → List (State → State)) : List (State → State) :=
    (List.range 8).flatMap fun d => f d (s.die d)
  [State.applyLate, State.slotHold, State.minorSlot, State.majorSlot, State.slotEnd, State.tinvComplete, State.endReport, State.serveLink,
    fun s => s.addDone 0,
    fun s => { s with pool := { s.pool with setting := false } }] ++
  (if s.queuedNow then [] else (List.range s.hostQ.length).map fun i => fun (s : State) => s.hostServeAt i) ++
  (s.cores.map fun p => fun (s : State) => s.timerDeadline p.1) ++
  (s.cores.map fun p => fun (s : State) => s.modCore p.1 fun x => x.modCtl Ctl.settleEnd) ++
  (dies fun d x =>
    [fun s => s.failSafe d] ++
    (if x.fifo.isEmpty then [] else [fun s => s.graphAdmission d]) ++
    (if x.posts.isEmpty then [] else [fun s => s.placePost d]) ++
    (match x.resv with
      | none => []
      | some r => (r.powers.flatMap fun o => [fun (s : State) => s.powerAnswer d o, fun s => s.holdTimeout d o]) ++
          [fun s => s.commit d] ++ (r.holds.flatMap fun h => [fun (s : State) => s.holdTimeout d h.1, fun s => s.holdAnswer d h.1]))) ++
  (s.nodes.flatMap fun n =>
    [fun (s : State) => s.backoffEnd n.id, fun s => s.retire n.id, fun s => s.preemptionDone n.id]) ++
  ((List.range s.graphs.length).map fun i => fun (s : State) => s.stateExpiry i) ++
  ((List.range s.signals.length).map fun i => fun (s : State) => s.signalDelivery i) ++
  (s.reaping.map fun p => fun (s : State) => s.reaper p.1) ++
  (s.clusters.flatMap fun p =>
    (if p.2.fills.isEmpty then [] else [fun (s : State) => s.cacheFill p.1 0]))

/-- The acts of the engines that serve a core. -/
def State.coreActs (c : Nat) (x : Core) : List (State → State) :=
  [fun (s : State) => s.lostAccess c, fun s => s.endFences c,
    fun s => match s.firstEligible c with | some i => s.performOp c i | none => s] ++
  ((List.range x.mem.outs.length).map fun i => fun (s : State) => s.engineWrite c i) ++
  ((List.range x.mem.bulk.length).flatMap fun i => [fun (s : State) => s.bulkRow c i, fun s => s.bulkComplete c i]) ++
  (if x.mem.cn.isEmpty then [] else
    [fun (s : State) => s.cnVerdict c false, fun s => s.cnVerdict c true]) ++
  ((List.range x.results.length).map fun i => fun (s : State) => s.dataArrival c i) ++
  (x.mem.streams.map fun p => fun (s : State) => s.streamRowFetch c (BitVec.ofNat 3 p.1)) ++
  (if x.mat.cmds.isEmpty then [] else
    [fun (s : State) => s.arrayProduct c, fun s => s.weightLoad c, fun s => s.drainPerform c]) ++
  [fun (s : State) => if x.flow.fetched then s else s.bundleFetch c,
    fun s => s.syncRestart c, fun s => s.leaseTimeout c, fun s => s.leaseGrant (clusterOf c), fun s => s.classGrant c,
    fun s => s.sleepWake c, fun s => s.contextRestore c, fun s => s.preemptCore c, fun s => s.sliceEnd c] ++
  ((List.range 16).map fun t => fun (s : State) => s.promiseTick c (BitVec.ofNat 4 t))

/-- The first of a list of acts that changes anything. -/
def State.firstDue (s : State) (l : List (State → State)) : Option State :=
  l.findSome? fun f => let t := f s; if t = s then none else some t

/-- Something that is due, if anything is. -/
def State.due (s : State) : Option State :=
  s.firstDue (s.moduleActs ++ s.cores.flatMap fun p => State.coreActs p.1 p.2)

/-! ## Whose turn it is -/

/-- What a step performs: a change that is complete, the words of a bundle, or an event. -/
inductive Plan
  | done (s : State)
  | words (l : List (Nat × Instr)) (s : State)
  | event (i : Instr) (s : State)

/-- Whether a core's slice has halted and its work is not complete (R168). -/
def Core.ending (x : Core) : Bool :=
  match x.run with
  | some r => r.halted && !r.ended
  | none => false

/-- Whether the cycles of a core still do something: it has a bundle to issue, stores that others do not see yet, or a halted slice whose
results have not landed (R168, R223). -/
def Core.takesTurn (x : Core) : Bool := x.mayIssue || !x.mem.unseen.isEmpty || (x.ending && !x.flow.pending.isEmpty)

/-- A core's turn: a cycle of it passes, with its next bundle, when it has one. What others see of its stores counts these cycles, those
of a freeze included (log entry 76). -/
def State.turn (s : State) (c : Nat) : Plan :=
  let s : State := { s with cur := c }
  if s.me.mayIssue then
    match (s.modMe fun x => x.modMem Local.age).openBundle with
    | (s, []) => .done (s.frozenCycle c)
    | (s, l) => .words l s
  else if s.me.takesTurn then
    let s := s.modMe fun x => x.modMem Local.age
    .done (if s.me.ending then s.haltedCycle c else s)
  else .done s

/-- With nothing due, the next core whose cycles do something and that has had no turn in this tick; after the last of them, a tick. -/
def State.rotate (s : State) : Plan :=
  match s.cores.find? fun p => decide (s.turnFrom ≤ p.1) && p.2.takesTurn with
  | some (c, _) => { s with turnFrom := c + 1 }.turn c
  | none => .done s.tick

/-- Whether an event may write a launch port. -/
def launches : Instr → Bool
  | .launch _ _ | .controlRegisterWrite _ _ => true
  | _ => false

/-- Whether an act still belongs to a tick in which the serais' cycles have begun. -/
def Act.inCycle : Act → Bool
  | .event (.seraiCycle _) | .event (.holdAnswer _ _) => true
  | _ => false

/-- Whether an act may bring a launch of the host. -/
def Act.hostLaunches : Act → Bool
  | .event i => launches i
  | .barWrite _ _ _ | .hostServe _ => true
  | _ => false

/-- Whether an act is itself a late write of a window register. -/
def Act.isLate : Act → Bool
  | .event (.windowEnable _ _) | .event (.windowDisable _ _) => true
  | _ => false

/-- An act of the agenda. -/
def State.actPlan (s : State) (a : Act) : Plan :=
  match a with
  | .run c => s.turn c
  | .tick => .done s.tick
  | .event i => if i.slot?.isNone then .event i s else .done s
  | .bulkRow c i => .done (s.bulkRow c i)
  | .engineWrite c i => .done (s.engineWrite c i)
  | .link r => .done (s.link r)
  | .hostClass t => .done { s with hostTc := t }
  | .hostSlow m => .done { s with hostSlow := m }
  | .barRead off len => .done (s.host (.readReg off len))
  | .barWrite off len v => .done (s.host (.writeReg off len v))
  | .hostServe i => .done (s.hostServeAt i)
  | .fabric size mod => .done (if mod.toNat < size.toNat ∧ size.toNat ≤ 1152 then { s with fabric := (size, mod) } else s)
  | .homeCfg w cfg done => .done { s with homeCfgs := mapSet w.toNat (cfg, done) s.homeCfgs }
  | .aside c on => .done (s.setAside c on)
  | .lineError who pa => .done (s.lineError who pa)

/-- What the state asks for next. The tick passes before an act that does not belong to it any more. -/
def State.plan (s : State) : Plan :=
  match s.agenda with
  | [] =>
    if s.cyclesBegun then .done s.tick
    else match s.due with
      | some t => .done t
      | none => s.rotate
  | a :: rest =>
    if (s.cyclesBegun && !a.inCycle && a != .tick) || (s.queuedNow && a.hostLaunches) then .done s.tick
    else
      let s : State := { s with agenda := rest }
      (if a.isLate then s else s.applyLate).actPlan a

/-! ## A program put in place -/

/-- Core 0 of die 0 as it is when it comes to issue its next bundle: it runs, and nothing holds it back. -/
def Core.poised (x : Core) (run : Run) (leaf : Leaf) : Core :=
  { x with
    ctl := { x.ctl with timerPassed := false }
    flow :=
      { x.flow with fetched := true, frozen := none, pending := [], causes := [], issue := {}, carry := {}, redo := 0
                    synced := false, restarted := false, words := [] }
    mem := { x.mem with tlb := leaf :: x.mem.tlb, cn := [] }
    run := some run }

/-- The run of a node of one slice on one core. -/
def soloRun (id : Nat) : Run :=
  { node := id, gang := 0, core := 0, slice := 0, ord := 0, begin := 0, end_ := 1, nodeId := 0, stage := 0, vwidth := 1, g := 1
    d := 1, entry := 0, last := true }

/-- The page of HBM that a bundle is put in, as the page of its address. -/
def bundleLeaf (s : State) (x : Core) : Leaf :=
  { asid := x.activeAsid, vpn := (fetchVa x.flow.pc).toNat / 65536, pages := 1, base := s.homePa 0
    w := false, x := true, u := true, sc := false, cn := false, rhp := false, msc := false }

/-- The 32 bytes of a bundle whose only word that is not zero is `w`, in the slot that the decoder reads it in. -/
def wordBundle (w : Nat) : List Byte :=
  let k := match tableSlot w with
    | some (.H, _) => 0
    | some (.S, _) => 1
    | some (.V, _) => 2
    | some (.M, _) => 4
    | some (.C, _) => 5
    | some (.A, _) => 7
    | none => 1
  natBytes 32 (w * 2 ^ (32 * k))

/-- The state with a bundle's bytes where core 0 of die 0 fetches next, that core running the node `id` alone, and its turn
next: no write that is due and no serai's cycle comes before it. -/
def State.place32 (s : State) (id : Nat) (l : List Byte) : State :=
  let x := s.core 0
  let leaf := bundleLeaf s x
  let s : State :=
    { s with hbm := memBlock s.hbm (leaf.pa (fetchVa x.flow.pc).toNat) l, agenda := [.run 0], cur := 0, late := []
             dies := s.dies.map fun d => { d with cycle := none } }
  s.modCore 0 fun x => x.poised (soloRun id) leaf

/-- A node in service on core 0 of die 0 alone, as its serai holds it. -/
def soloNode (id : Nat) : Node :=
  { id := id, die := 0, idx := 0, handle := 0, record := {}, state := .running, preds := 0, ranOnce := true, g := 1
    gangs := [(0, 0)] }

/-- The graph of that node. -/
def soloGraph : Graph := { handle := 0, die := 0, asn := 0, hdr := 0, nnodes := 1, finalAt := none }

end Sys2Proof.Machine
end

