-- ==== Sys2Proof/Machine/Dispatch.lean ====
section
/-! DEFINITION. Machine/Dispatch.lean: one arm per constructor of Instr. -/

namespace Sys2Proof.Machine

def exec (i : Instr) (s : State) : Host.Outcome State Fault Refusal :=
  match i with
  | .normal np op pop => Sys2Proof.Machine.execNormal np op pop s
  | .sync np op pop g => Sys2Proof.Machine.execSync np op pop g s
  | .lock np op pop pairs count => Sys2Proof.Machine.execLock np op pop pairs count s
  | .xph np op pop => Sys2Proof.Machine.execXph np op pop s
  | .nop => Sys2Proof.Machine.execNop s
  | .add w d a b => Sys2Proof.Machine.execAdd w d a b s
  | .sub w d a b => Sys2Proof.Machine.execSub w d a b s
  | .and w d a b => Sys2Proof.Machine.execAnd w d a b s
  | .or w d a b => Sys2Proof.Machine.execOr w d a b s
  | .xor w d a b => Sys2Proof.Machine.execXor w d a b s
  | .shl w d a b => Sys2Proof.Machine.execShl w d a b s
  | .shr w d a b => Sys2Proof.Machine.execShr w d a b s
  | .sar w d a b => Sys2Proof.Machine.execSar w d a b s
  | .mul w d a b => Sys2Proof.Machine.execMul w d a b s
  | .mulhi w d a b => Sys2Proof.Machine.execMulhi w d a b s
  | .mulhn w d a b => Sys2Proof.Machine.execMulhn w d a b s
  | .div w d a b => Sys2Proof.Machine.execDiv w d a b s
  | .divn w d a b => Sys2Proof.Machine.execDivn w d a b s
  | .rem w d a b => Sys2Proof.Machine.execRem w d a b s
  | .remn w d a b => Sys2Proof.Machine.execRemn w d a b s
  | .min w d a b => Sys2Proof.Machine.execMin w d a b s
  | .max w d a b => Sys2Proof.Machine.execMax w d a b s
  | .minn w d a b => Sys2Proof.Machine.execMinn w d a b s
  | .maxn w d a b => Sys2Proof.Machine.execMaxn w d a b s
  | .slt w d a b => Sys2Proof.Machine.execSlt w d a b s
  | .sltn w d a b => Sys2Proof.Machine.execSltn w d a b s
  | .seq w d a b => Sys2Proof.Machine.execSeq w d a b s
  | .sel w d a b => Sys2Proof.Machine.execSel w d a b s
  | .clz w d a => Sys2Proof.Machine.execClz w d a s
  | .popc w d a => Sys2Proof.Machine.execPopc w d a s
  | .ctz w d a => Sys2Proof.Machine.execCtz w d a s
  | .rotl w d a b => Sys2Proof.Machine.execRotl w d a b s
  | .bswap w d a => Sys2Proof.Machine.execBswap w d a s
  | .exts w d a b => Sys2Proof.Machine.execExts w d a b s
  | .extz w d a b => Sys2Proof.Machine.execExtz w d a b s
  | .addi d a imm => Sys2Proof.Machine.execAddi d a imm s
  | .andi d a imm => Sys2Proof.Machine.execAndi d a imm s
  | .ori d a imm => Sys2Proof.Machine.execOri d a imm s
  | .xori d a imm => Sys2Proof.Machine.execXori d a imm s
  | .shli d a k => Sys2Proof.Machine.execShli d a k s
  | .shri d a k => Sys2Proof.Machine.execShri d a k s
  | .sari d a k => Sys2Proof.Machine.execSari d a k s
  | .slti d a imm => Sys2Proof.Machine.execSlti d a imm s
  | .sltni d a imm => Sys2Proof.Machine.execSltni d a imm s
  | .muli d a imm => Sys2Proof.Machine.execMuli d a imm s
  | .li d imm => Sys2Proof.Machine.execLi d imm s
  | .lis d imm => Sys2Proof.Machine.execLis d imm s
  | .br cond a off => Sys2Proof.Machine.execBr cond a off s
  | .jmp off => Sys2Proof.Machine.execJmp off s
  | .call off => Sys2Proof.Machine.execCall off s
  | .jmpr d a => Sys2Proof.Machine.execJmpr d a s
  | .ret => Sys2Proof.Machine.execRet s
  | .fadd rm d a b => Sys2Proof.Machine.execFadd rm d a b s
  | .fsub rm d a b => Sys2Proof.Machine.execFsub rm d a b s
  | .fmul rm d a b => Sys2Proof.Machine.execFmul rm d a b s
  | .ffma rm d a b => Sys2Proof.Machine.execFfma rm d a b s
  | .fmin d a b => Sys2Proof.Machine.execFmin d a b s
  | .fmax d a b => Sys2Proof.Machine.execFmax d a b s
  | .fcmp cond d a b => Sys2Proof.Machine.execFcmp cond d a b s
  | .fcvt kind rm d a => Sys2Proof.Machine.execFcvt kind rm d a s
  | .getc d creg => Sys2Proof.Machine.execGetc d creg s
  | .setc a creg => Sys2Proof.Machine.execSetc a creg s
  | .getcQhost d => Sys2Proof.Machine.execGetcQhost d s
  | .getcQserai d => Sys2Proof.Machine.execGetcQserai d s
  | .getcQmsg d => Sys2Proof.Machine.execGetcQmsg d s
  | .getcQerr d => Sys2Proof.Machine.execGetcQerr d s
  | .setcQhost a => Sys2Proof.Machine.execSetcQhost a s
  | .setcQserai a => Sys2Proof.Machine.execSetcQserai a s
  | .setcQmsg a => Sys2Proof.Machine.execSetcQmsg a s
  | .setcQerr a => Sys2Proof.Machine.execSetcQerr a s
  | .setcClip a => Sys2Proof.Machine.execSetcClip a s
  | .setcOplimit a => Sys2Proof.Machine.execSetcOplimit a s
  | .cnpoolEnable a => Sys2Proof.Machine.execCnpoolEnable a s
  | .cnpoolDisable a => Sys2Proof.Machine.execCnpoolDisable a s
  | .windowEnable w v => Sys2Proof.Machine.execWindowEnable w v s
  | .windowDisable w v => Sys2Proof.Machine.execWindowDisable w v s
  | .trap idx => Sys2Proof.Machine.execTrap idx s
  | .eret => Sys2Proof.Machine.execEret s
  | .sleep d a b => Sys2Proof.Machine.execSleep d a b s
  | .sleepWake core => Sys2Proof.Machine.execSleepWake core s
  | .time d => Sys2Proof.Machine.execTime d s
  | .cycle d => Sys2Proof.Machine.execCycle d s
  | .halt => Sys2Proof.Machine.execHalt s
  | .brk c => Sys2Proof.Machine.execBrk c s
  | .slotq d sel => Sys2Proof.Machine.execSlotq d sel s
  | .who d sel => Sys2Proof.Machine.execWho d sel s
  | .pwracq a => Sys2Proof.Machine.execPwracq a s
  | .classGrant core => Sys2Proof.Machine.execClassGrant core s
  | .pwrrel => Sys2Proof.Machine.execPwrrel s
  | .pwrq d => Sys2Proof.Machine.execPwrq d s
  | .spawn d a => Sys2Proof.Machine.execSpawn d a s
  | .cancel d a b => Sys2Proof.Machine.execCancel d a b s
  | .nodest d a b => Sys2Proof.Machine.execNodest d a b s
  | .signal a b => Sys2Proof.Machine.execSignal a b s
  | .signalDelivery idx => Sys2Proof.Machine.execSignalDelivery idx s
  | .vnop => Sys2Proof.Machine.execVnop s
  | .vadd D A B g => Sys2Proof.Machine.execVadd D A B g s
  | .vsub D A B g => Sys2Proof.Machine.execVsub D A B g s
  | .vmul D A B g => Sys2Proof.Machine.execVmul D A B g s
  | .vfma D A B g => Sys2Proof.Machine.execVfma D A B g s
  | .vmin D A B g => Sys2Proof.Machine.execVmin D A B g s
  | .vmax D A B g => Sys2Proof.Machine.execVmax D A B g s
  | .vabs D A g => Sys2Proof.Machine.execVabs D A g s
  | .vneg D A g => Sys2Proof.Machine.execVneg D A g s
  | .vadds D A B g => Sys2Proof.Machine.execVadds D A B g s
  | .vsubs D A B g => Sys2Proof.Machine.execVsubs D A B g s
  | .vmulh D A B g => Sys2Proof.Machine.execVmulh D A B g s
  | .vand D A B g => Sys2Proof.Machine.execVand D A B g s
  | .vor D A B g => Sys2Proof.Machine.execVor D A B g s
  | .vxor D A B g => Sys2Proof.Machine.execVxor D A B g s
  | .vnot D A g => Sys2Proof.Machine.execVnot D A g s
  | .vshl D A B g => Sys2Proof.Machine.execVshl D A B g s
  | .vshr D A B g => Sys2Proof.Machine.execVshr D A B g s
  | .vsar D A B g => Sys2Proof.Machine.execVsar D A B g s
  | .vcmp cond pd A B g => Sys2Proof.Machine.execVcmp cond pd A B g s
  | .vsel D A ps g => Sys2Proof.Machine.execVsel D A ps g s
  | .pand pd pa pb g => Sys2Proof.Machine.execPand pd pa pb g s
  | .por pd pa pb g => Sys2Proof.Machine.execPor pd pa pb g s
  | .pxor pd pa pb g => Sys2Proof.Machine.execPxor pd pa pb g s
  | .pnot pd pa g => Sys2Proof.Machine.execPnot pd pa g s
  | .vcvt D A tgt rm sat g => Sys2Proof.Machine.execVcvt D A tgt rm sat g s
  | .vwid D A tgt rm sat g => Sys2Proof.Machine.execVwid D A tgt rm sat g s
  | .vnar D A tgt rm sat g => Sys2Proof.Machine.execVnar D A tgt rm sat g s
  | .vquant D A B => Sys2Proof.Machine.execVquant D A B s
  | .vdeq D A tgt rm sat g => Sys2Proof.Machine.execVdeq D A tgt rm sat g s
  | .vsettag D A tag g => Sys2Proof.Machine.execVsettag D A tag g s
  | .vredsum D A g => Sys2Proof.Machine.execVredsum D A g s
  | .vredmax D A g => Sys2Proof.Machine.execVredmax D A g s
  | .vredmin D A g => Sys2Proof.Machine.execVredmin D A g s
  | .vamax D A g => Sys2Proof.Machine.execVamax D A g s
  | .vbcast D A m g => Sys2Proof.Machine.execVbcast D A m g s
  | .vperm D A B g => Sys2Proof.Machine.execVperm D A B g s
  | .vshuf D A kind g => Sys2Proof.Machine.execVshuf D A kind g s
  | .vslide D A k g => Sys2Proof.Machine.execVslide D A k g s
  | .vscan D A g => Sys2Proof.Machine.execVscan D A g s
  | .vmov D A g => Sys2Proof.Machine.execVmov D A g s
  | .vsplat D tag imm g => Sys2Proof.Machine.execVsplat D tag imm g s
  | .vext D A B g => Sys2Proof.Machine.execVext D A B g s
  | .vsfu D A fn g => Sys2Proof.Machine.execVsfu D A fn g s
  | .vdiv D A B g => Sys2Proof.Machine.execVdiv D A B g s
  | .mnop => Sys2Proof.Machine.execMnop s
  | .mmul A nr split mode => Sys2Proof.Machine.execMmul A nr split mode s
  | .mmuls a core col nr split mode => Sys2Proof.Machine.execMmuls a core col nr split mode s
  | .mwld a mask geom wfmt => Sys2Proof.Machine.execMwld a mask geom wfmt s
  | .mswap mask => Sys2Proof.Machine.execMswap mask s
  | .mzero => Sys2Proof.Machine.execMzero s
  | .mwinv mask => Sys2Proof.Machine.execMwinv mask s
  | .mdrain nr tag ofmt amx => Sys2Proof.Machine.execMdrain nr tag ofmt amx s
  | .mdrains nr a ofmt amx glob col => Sys2Proof.Machine.execMdrains nr a ofmt amx glob col s
  | .mcommit D tag nr => Sys2Proof.Machine.execMcommit D tag nr s
  | .mlease ln => Sys2Proof.Machine.execMlease ln s
  | .munlease => Sys2Proof.Machine.execMunlease s
  | .mclip d => Sys2Proof.Machine.execMclip d s
  | .cnop => Sys2Proof.Machine.execCnop s
  | .ldl row a shape disp => Sys2Proof.Machine.execLdl row a shape disp s
  | .stl row a shape disp => Sys2Proof.Machine.execStl row a shape disp s
  | .ldr row a shape owner disp => Sys2Proof.Machine.execLdr row a shape owner disp s
  | .remoteReadService core idx => Sys2Proof.Machine.execRemoteReadService core idx s
  | .ldsh row a wc disp => Sys2Proof.Machine.execLdsh row a wc disp s
  | .stsh row a wc disp => Sys2Proof.Machine.execStsh row a wc disp s
  | .lds s_ base sx size disp => Sys2Proof.Machine.execLds s_ base sx size disp s
  | .sts s_ base size disp => Sys2Proof.Machine.execSts s_ base size disp s
  | .ldg row a land wg rh => Sys2Proof.Machine.execLdg row a land wg rh s
  | .stg row a wg => Sys2Proof.Machine.execStg row a wg s
  | .ldsg s_ base sx size land => Sys2Proof.Machine.execLdsg s_ base sx size land s
  | .stsg s_ base size => Sys2Proof.Machine.execStsg s_ base size s
  | .pfg a wg rh => Sys2Proof.Machine.execPfg a wg rh s
  | .bget ag al sdesc tag shape => Sys2Proof.Machine.execBget ag al sdesc tag shape s
  | .bput ag al sdesc tag shape => Sys2Proof.Machine.execBput ag al sdesc tag shape s
  | .bgetsh ag al sdesc tag wc => Sys2Proof.Machine.execBgetsh ag al sdesc tag wc s
  | .bputsh ag al sdesc tag wc => Sys2Proof.Machine.execBputsh ag al sdesc tag wc s
  | .bwait tag => Sys2Proof.Machine.execBwait tag s
  | .bprom s_ tag => Sys2Proof.Machine.execBprom s_ tag s
  | .bulkTransferComplete core idx => Sys2Proof.Machine.execBulkTransferComplete core idx s
  | .aadd w sd sa sb sc ord tr => Sys2Proof.Machine.execAadd w sd sa sb sc ord tr s
  | .amax w sd sa sb sc ord tr => Sys2Proof.Machine.execAmax w sd sa sb sc ord tr s
  | .amin w sd sa sb sc ord tr => Sys2Proof.Machine.execAmin w sd sa sb sc ord tr s
  | .amaxn w sd sa sb sc ord tr => Sys2Proof.Machine.execAmaxn w sd sa sb sc ord tr s
  | .aminn w sd sa sb sc ord tr => Sys2Proof.Machine.execAminn w sd sa sb sc ord tr s
  | .aand w sd sa sb sc ord tr => Sys2Proof.Machine.execAand w sd sa sb sc ord tr s
  | .aor w sd sa sb sc ord tr => Sys2Proof.Machine.execAor w sd sa sb sc ord tr s
  | .axor w sd sa sb sc ord tr => Sys2Proof.Machine.execAxor w sd sa sb sc ord tr s
  | .axchg w sd sa sb sc ord tr => Sys2Proof.Machine.execAxchg w sd sa sb sc ord tr s
  | .acas w sd sa sb sc ord tr => Sys2Proof.Machine.execAcas w sd sa sb sc ord tr s
  | .afadd sd sa sb sc ord tr => Sys2Proof.Machine.execAfadd sd sa sb sc ord tr s
  | .afmax sd sa sb sc ord tr => Sys2Proof.Machine.execAfmax sd sa sb sc ord tr s
  | .aamax sd sa sb sc ord tr => Sys2Proof.Machine.execAamax sd sa sb sc ord tr s
  | .ald w sd sa sc ord tr => Sys2Proof.Machine.execAld w sd sa sc ord tr s
  | .ast w sa sb sc ord tr => Sys2Proof.Machine.execAst w sa sb sc ord tr s
  | .fence pred succ sc => Sys2Proof.Machine.execFence pred succ sc s
  | .mark => Sys2Proof.Machine.execMark s
  | .wadd w sa sb sc rel => Sys2Proof.Machine.execWadd w sa sb sc rel s
  | .wmax w sa sb sc rel => Sys2Proof.Machine.execWmax w sa sb sc rel s
  | .wfadd sa sb sc rel => Sys2Proof.Machine.execWfadd sa sb sc rel s
  | .windowContribution core idx => Sys2Proof.Machine.execWindowContribution core idx s
  | .switchMerge w pa idx v peerCfg => Sys2Proof.Machine.execSwitchMerge w pa idx v peerCfg s
  | .cnput sn row qtr land => Sys2Proof.Machine.execCnput sn row qtr land s
  | .cnget sn row qtr land => Sys2Proof.Machine.execCnget sn row qtr land s
  | .cnref sn => Sys2Proof.Machine.execCnref sn s
  | .cndrop sn => Sys2Proof.Machine.execCndrop sn s
  | .cnswap sd sa sb sc => Sys2Proof.Machine.execCnswap sd sa sb sc s
  | .cnlook sn row qtr land => Sys2Proof.Machine.execCnlook sn row qtr land s
  | .cnout ag al sdesc tag => Sys2Proof.Machine.execCnout ag al sdesc tag s
  | .cnhash sn row qtr land => Sys2Proof.Machine.execCnhash sn row qtr land s
  | .cnDirectoryVerdict core second => Sys2Proof.Machine.execCnDirectoryVerdict core second s
  | .reaper slot => Sys2Proof.Machine.execReaper slot s
  | .xmit row part lane west => Sys2Proof.Machine.execXmit row part lane west s
  | .xsel row part lane west => Sys2Proof.Machine.execXsel row part lane west s
  | .flushms sa sc => Sys2Proof.Machine.execFlushms sa sc s
  | .invl sa sc => Sys2Proof.Machine.execInvl sa sc s
  | .anop => Sys2Proof.Machine.execAnop s
  | .loop lvl count len => Sys2Proof.Machine.execLoop lvl count len s
  | .loops lvl s_ len => Sys2Proof.Machine.execLoops lvl s_ len s
  | .lbrk lvl => Sys2Proof.Machine.execLbrk lvl s
  | .ainc a l => Sys2Proof.Machine.execAinc a l s
  | .ainc2 a l a2 l2 => Sys2Proof.Machine.execAinc2 a l a2 l2 s
  | .aset a s_ => Sys2Proof.Machine.execAset a s_ s
  | .aget a s_ => Sys2Proof.Machine.execAget a s_ s
  | .aaddi a imm => Sys2Proof.Machine.execAaddi a imm s
  | .amod a s_ => Sys2Proof.Machine.execAmod a s_ s
  | .sbind q a => Sys2Proof.Machine.execSbind q a s
  | .sunbind q => Sys2Proof.Machine.execSunbind q s
  | .squery q s_ => Sys2Proof.Machine.execSquery q s_ s
  | .kset a l s_ => Sys2Proof.Machine.execKset a l s_ s
  | .streamRowFetch core q => Sys2Proof.Machine.execStreamRowFetch core q s
  | .resultLanding core => Sys2Proof.Machine.execResultLanding core s
  | .landingDataArrival core idx => Sys2Proof.Machine.execLandingDataArrival core idx s
  | .syncRestart core => Sys2Proof.Machine.execSyncRestart core s
  | .leaseGrant cluster => Sys2Proof.Machine.execLeaseGrant cluster s
  | .leaseTimeout core => Sys2Proof.Machine.execLeaseTimeout core s
  | .arrayProduct core => Sys2Proof.Machine.execArrayProduct core s
  | .weightLoadComplete core => Sys2Proof.Machine.execWeightLoadComplete core s
  | .flueSignalFailure die signal cluster mask => Sys2Proof.Machine.execFlueSignalFailure die signal cluster mask s
  | .drainPerform core => Sys2Proof.Machine.execDrainPerform core s
  | .pageWalk core va => Sys2Proof.Machine.execPageWalk core va s
  | .homeLoad core idx => Sys2Proof.Machine.execHomeLoad core idx s
  | .homeStore core idx => Sys2Proof.Machine.execHomeStore core idx s
  | .homeAtomic core idx => Sys2Proof.Machine.execHomeAtomic core idx s
  | .cacheFill cluster idx => Sys2Proof.Machine.execCacheFill cluster idx s
  | .sliceEnd core => Sys2Proof.Machine.execSliceEnd core s
  | .launch die word => Sys2Proof.Machine.execLaunch die word s
  | .lstat die => Sys2Proof.Machine.execLstat die s
  | .lcancel die v => Sys2Proof.Machine.execLcancel die v s
  | .lquery die v => Sys2Proof.Machine.execLquery die v s
  | .graphAdmission die => Sys2Proof.Machine.execGraphAdmission die s
  | .seraiCycle die => Sys2Proof.Machine.execSeraiCycle die s
  | .holdAnswer die other => Sys2Proof.Machine.execHoldAnswer die other s
  | .holdTimeout die other => Sys2Proof.Machine.execHoldTimeout die other s
  | .powerAnswer die other => Sys2Proof.Machine.execPowerAnswer die other s
  | .reservationCommit die => Sys2Proof.Machine.execReservationCommit die s
  | .backoffEnd node => Sys2Proof.Machine.execBackoffEnd node s
  | .retirement node => Sys2Proof.Machine.execRetirement node s
  | .completionPost die => Sys2Proof.Machine.execCompletionPost die s
  | .msixUnmask vec => Sys2Proof.Machine.execMsixUnmask vec s
  | .nodeStateExpiry graph => Sys2Proof.Machine.execNodeStateExpiry graph s
  | .kill die v => Sys2Proof.Machine.execKill die v s
  | .preempt die v => Sys2Proof.Machine.execPreempt die v s
  | .preemptRequest core => Sys2Proof.Machine.execPreemptRequest core s
  | .preemptionComplete node => Sys2Proof.Machine.execPreemptionComplete node s
  | .contextRestore core => Sys2Proof.Machine.execContextRestore core s
  | .timer die core v => Sys2Proof.Machine.execTimer die core v s
  | .timerDeadline core => Sys2Proof.Machine.execTimerDeadline core s
  | .powerExcess core energy => Sys2Proof.Machine.execPowerExcess core energy s
  | .thermalTrap die zone temp cores => Sys2Proof.Machine.execThermalTrap die zone temp cores s
  | .settleEnd core => Sys2Proof.Machine.execSettleEnd core s
  | .tokenRefill => Sys2Proof.Machine.execTokenRefill s
  | .stokerGrant die budget rate cap top => Sys2Proof.Machine.execStokerGrant die budget rate cap top s
  | .failSafeEntry die => Sys2Proof.Machine.execFailSafeEntry die s
  | .slotHold => Sys2Proof.Machine.execSlotHold s
  | .minorSlot => Sys2Proof.Machine.execMinorSlot s
  | .majorSlot => Sys2Proof.Machine.execMajorSlot s
  | .slotEnd => Sys2Proof.Machine.execSlotEnd s
  | .maintenanceOverrun ext task => Sys2Proof.Machine.execMaintenanceOverrun ext task s
  | .uncorrectableError die place pa user => Sys2Proof.Machine.execUncorrectableError die place pa user s
  | .remoteUnreachable core pa => Sys2Proof.Machine.execRemoteUnreachable core pa s
  | .tinv v => Sys2Proof.Machine.execTinv v s
  | .mbpush die v => Sys2Proof.Machine.execMbpush die v s
  | .mbpop die => Sys2Proof.Machine.execMbpop die s
  | .mbstat die => Sys2Proof.Machine.execMbstat die s
  | .hostMemoryRead off len => Sys2Proof.Machine.execHostMemoryRead off len s
  | .hostMemoryWrite off data => Sys2Proof.Machine.execHostMemoryWrite off data s
  | .fetchadd off wide v => Sys2Proof.Machine.execFetchadd off wide v s
  | .swap off wide v => Sys2Proof.Machine.execSwap off wide v s
  | .cas off bits cmp v => Sys2Proof.Machine.execCas off bits cmp v s
  | .ago v => Sys2Proof.Machine.execAgo v s
  | .attestationReport => Sys2Proof.Machine.execAttestationReport s
  | .controlRegisterWrite off v => Sys2Proof.Machine.execControlRegisterWrite off v s
  | .moduleReset => Sys2Proof.Machine.execModuleReset s
  | .firmwareVerification sig image => Sys2Proof.Machine.execFirmwareVerification sig image s
  | .promiseTick core tag => Sys2Proof.Machine.execPromiseTick core tag s
  | .tinvCompletion => Sys2Proof.Machine.execTinvCompletion s
  | .bundleFetch core => Sys2Proof.Machine.execBundleFetch core s
  | .directoryFreeSettingDone => Sys2Proof.Machine.execDirectoryFreeSettingDone s

end Sys2Proof.Machine
end

