-- ==== Sys2Proof/Machine/Step.lean ====
section
/-! DEFINITION. Machine/Step.lean: one step of the module, and a program put in place. -/

namespace Sys2Proof.Machine

/-- The words of a bundle performed one after another, each in its slot. -/
def performWords : List (Nat × Instr) → State → Host.Outcome State Fault Refusal
  | [], s => .next s
  | (k, i) :: t, s =>
    match exec i (s.atSlot k) with
    | .next s => performWords t s
    | .fault r => .fault r
    | .refused r => .refused r

/-- One step: what `State.plan` says is next. -/
def step (s : State) : Host.Outcome State Fault Refusal :=
  match s.plan with
  | .done s => .next s
  | .words l s => performWords l s
  | .event i s => exec i s

/-- `s` with the instruction of a word of the opcode table as the only word that is not zero of the bundle that core 0 of die
0, running a node of its own, fetches in the next step. -/
def State.withFetchWord (s : State) (nbits w : Nat) : State :=
  let id := s.nextNode
  let s : State := { s with nextNode := id + 1, nodes := soloNode id :: s.nodes, graphs := soloGraph :: s.graphs }
  s.place32 id (wordBundle (w % 2 ^ min nbits 32))

end Sys2Proof.Machine
end

