-- ==== Sys2Proof/Safety.lean ====
section
/-! DEFINITION. Safety.lean: what claims about the machine are stated in: memories in canonical form, steps that answer, and runs. -/

namespace Sys2Proof.Machine

/-- Every memory of the module is in canonical form, so that equal memories are equal data. -/
def State.MemCanonical (s : State) : Prop :=
  s.hbm.wf = true ∧ (∀ p ∈ s.clusters, p.2.sram.wf = true) ∧ ∀ p ∈ s.cores, p.2.mem.spad.wf = true

/-- The cores and the clusters are listed by strictly rising number. -/
def State.KeysSorted (s : State) : Prop := (s.cores.map (·.1)).Pairwise (· < ·) ∧ (s.clusters.map (·.1)).Pairwise (· < ·)

/-- A step that answers a next state: no fault and no refusal. -/
def State.Steps (s t : State) : Prop := step s = .next t

/-- A property that every step keeps. -/
def StepKeeps (P : State → Prop) : Prop := ∀ s t : State, P s → s.Steps t → P t

/-- What finitely many steps lead to. -/
inductive Reaches : State → State → Prop
  | refl (s : State) : Reaches s s
  | step (s t u : State) : Reaches s t → t.Steps u → Reaches s u

/-- A run is safe when no step of it stops. -/
def SafeFrom (s : State) : Prop := ∀ t, Reaches s t → ∃ u, t.Steps u

/-! ## A core between two bundles -/

/-- The acting core stands between two bundles and nothing older is on its way that could hold the next one back: no bundle is
being issued, no result is pending and no verdict awaited, and no caravan phase of its die is in its last cycle. -/
structure State.Between (s : State) : Prop where
  closed : s.me.flow.issue.isOpen = false
  carry : s.me.flow.carry = {}
  pending : s.me.flow.pending = []
  verdicts : s.me.mem.cn = []
  phase : ∀ p ∈ (s.die (dieOf s.cur)).phase, p.ending = false

/-- Moreover no hardware loop is active and the core is not in the lockstep of a caravan phase. -/
structure State.Ready (s : State) : Prop extends s.Between where
  loops : ∀ i : Fin 4, (s.me.flow.loops.get i).act = false
  lockstep : s.lockstep s.cur = none

/-- A core after one more bundle, which went on to the next address: PC, the cycle counter and the number of bundles have grown
by one, a lock has counted down (R105), and nothing else that outlives a bundle has changed. -/
def Core.retired (x : Core) : Core :=
  { x with
    ctl := x.ctl.endLock {}
    flow :=
      { x.flow with pc := x.flow.pc + 1, count := x.flow.count + 1, bun := x.flow.bun + 1, carry := {}, issue := {}, frozen := none
                    synced := false, redo := 0, fetched := true, sleepWoken := none, sleepArmed := false, sleepFault := none, monitor := none
                    arrived := none, power := none, leased := false, restarted := false, words := [] }
    perf := { x.perf with issue := x.perf.issue + 1 } }

/-- A core whose bundle has used the shared SRAM: the periods of one wait there are free (R231, R440). -/
def Core.sharing (x : Core) : Core := { x with perf := { x.perf with bank := { x.perf.bank with n := x.perf.bank.n + 1 } } }

/-- A core whose bundle took `n` service rounds: the periods beyond the first count as frozen on bank conflicts (R220, R440). -/
def Core.rounded (x : Core) (n : Nat) : Core :=
  { x with perf := { x.perf with frozen := x.perf.frozen + BitVec.ofNat 64 (n - 1)
                                 bank := { x.perf.bank with base := x.perf.bank.base + BitVec.ofNat 64 (n - 1) } } }

/-- Core `c` has the turn at `s`, and comes at `u` to issue a bundle whose words are `ws`: the serais have not begun the end of the tick, it
runs, no bundle is open, nothing is pending, no cause waits at the boundary, no slot holds its fetch, the directory has no request of it, it waits for no other member of a
phase, and the fetch at its PC changes nothing else (R97, R131, R132). Its latest stores have come one cycle nearer to being seen (R223). -/
structure State.Turn (s : State) (c : Nat) (ws : List Nat) (u : State) : Prop where
  cycles : s.cyclesBegun = false
  agenda : ∃ rest : List Act, s.agenda = .run c :: rest ∧
    u = ({ ({ s with agenda := rest } : State).applyLate with cur := c } : State).modMe fun x => x.modMem Local.age
  runs : ∃ r ∈ u.me.run, r.halted = false ∧ r.restore = false
  issue : u.me.flow.issue = {}
  carry : u.me.flow.carry = {}
  pending : u.me.flow.pending = []
  redo : u.me.flow.redo = 0
  requests : u.me.mem.cn = []
  frozen : u.me.flow.frozen = none
  fetched : u.me.flow.fetched = true
  cause : u.boundaryCause c = none
  hold : u.calendar.hold = false
  phase : u.phaseWaits = false
  fetch : u.fetchAt c u.me.flow.pc = (u, .ok ws)
  words : ws.length = 8

/-- A core with one more pending result, of word `slot` of the bundle that it has just issued, due `left` bundles from now. -/
def Core.awaiting (x : Core) (slot left : Nat) (r : Result) : Core :=
  x.modFlow fun f => { f with pending := f.pending ++ [{ left := left, res := r, young := false, slot := slot, bun := f.bun - 1 }] }

/-- Registers with a result of the S slot: s[d], but for s0, and the latch LS (R136, R145). -/
def Regs.scalar (r : Regs) (d : BitVec 5) (v : Word) : Regs := { r.setS d v with ls := v }

/-- The state after a bundle whose only result, of the S slot and of latency 1, is `v` in s[d]. -/
def State.scalarNow (s : State) (d : BitVec 5) (v : Word) : State := s.modMe fun x => x.retired.modRegs (·.scalar d v)

/-- The state after a bundle of the S slot that put a request to the serai of die `die`: the answer, under a fresh number, lands in s[d] at issue +
1 once it has come (R139, R465). -/
def State.asking (s : State) (d : BitVec 5) (die : Nat) (k : AskKind) : State :=
  (s.modMe fun x => ({ x with flow := { x.flow with nextId := x.flow.nextId + 1 } } : Core).retired.modFlow fun f =>
    { f with pending := f.pending ++
        [{ left := 0, res := .scalar d true 0, id := x.flow.nextId, need := 1, ready := false, young := false, slot := 1, bun := x.flow.bun }] }).modDie
    die fun y => { y with asks := y.asks ++
      [{ core := s.cur, id := s.me.flow.nextId, own := if s.me.ctl.priv then none else some s.me.ctl.asid, kind := k }] }

/-- The state after a bundle whose only result, of the S slot, is `v` in s[d] with `left` more bundles to wait. -/
def State.scalarLater (s : State) (left : Nat) (d : BitVec 5) (v : Word) : State :=
  s.modMe fun x => x.retired.awaiting 1 left (.scalar d true v)

/-- A core after one more bundle that left for another address: the next bundle is fetched from there (R132, R182). -/
def Core.retiredTo (x : Core) (t : Pc) : Core := x.retired.modFlow fun f => { f with pc := t, fetched := false }

/-- A core that takes the fault `t` of word `k` of a bundle whose other words are empty (R401 to R405). -/
def Core.faulted (x : Core) (k : Nat) (t : Trap) : Core :=
  x.intoHandler k t x.flow.trapPc ((0xFE &&& ~~~(1#16 <<< k)) ||| (1#16 <<< (8 + k)) ||| (if x.flow.synced then 1 else 0))

/-- A core that refuses a bundle with a decode failure of word `k` (8 for the header): nothing has been performed (R121, R404). -/
def Core.refused (x : Core) (k : Nat) (t : Trap) : Core :=
  x.intoHandler k t x.flow.trapPc ((x.flow.redo &&& 0xFF) ||| (if x.flow.synced then 1 else 0))

/-- A trap of the acting core enters its handler: it is not in one, it has one, and it is in no caravan phase (R384, R406, R462). -/
structure State.MayTrap (s : State) : Prop where
  outside : s.me.ctl.handler = false
  vector : s.me.ctl.trapVec ≠ 0
  phase : s.inPhase s.cur = false

/-- The counters of a core with one more wait of the kind of a freeze (R440). -/
def Counters.waited (p : Counters) (f : Freeze) : Counters :=
  let more (w : Waits) : Waits := { w with n := w.n + 1 }
  match f with
  | .sync _ => { p with sync := more p.sync }
  | .landing | .commit => { p with land := more p.land }
  | .tokens => { p with tok := more p.tok }
  | _ => { p with other := more p.other }

/-- A core frozen before it issues its bundle (R132, R440). -/
def Core.held (x : Core) (f : Freeze) : Core :=
  { x.modFlow fun w => { w with frozen := some f, issue := {} } with perf := x.perf.waited f }

/-- A core whose bundle pops the streams of a header (R106). -/
def Core.popped (x : Core) (pop : BitVec 8) : Core :=
  (bitsOf 8 pop).foldl (fun x q => x.modStream (BitVec.ofNat 3 q) fun t => { t with pos := t.pos + 1 }) x

/-- The streams that a header pops are bound for reading and have a row left (R106, R226). -/
def State.Pops (s : State) (pop : BitVec 8) : Prop :=
  ∀ q : BitVec 3, pop.getLsbD q.toNat = true → ∃ b, s.me.stream? q = some b ∧ b.write = false ∧ b.pos < b.total

/-- A header's request for an operating point, if it makes one (R107, R152). -/
def State.asks (s : State) : Option (BitVec 3) → State
  | some op => s.requestOp s.cur op
  | none => s

/-- The die of the acting core. -/
def State.myDie (s : State) : Nat := dieOf s.cur

/-! ## Rows -/

/-- A row source that can be read now: a stream is bound for reading, its head has arrived, its row lies in its storage (R106, R224, R226),
and no fence or acquire holds it, nor a store that it follows (R222, R278, R361). -/
def State.Reads (s : State) : RowOp → Prop
  | .q n => (∃ q, s.me.stream? n = some q ∧ q.write = false ∧ q.pos < q.total ∧ q.pos < q.done ∧ q.rowOk q.pos = true) ∧
      ∀ e ∈ s.me.mem.memq, e.isLocalStore = false ∧ e.holds s.me.flow.bun 0 = false
  | _ => True

/-- A destination that can take a row now: no latch, and a stream is bound for writing, with an entry free and a row left that
lies in its storage (R109, R190, R227). -/
def State.Writes (s : State) : RowOp → Prop
  | .latch _ => False
  | .q n => ∃ q, s.me.stream? n = some q ∧ q.write = true ∧ q.pos < q.total ∧ q.pos < q.done + 4 ∧ q.rowOk q.pos = true
  | _ => True

/-- Two sources of one tag; LS takes the other's (R146, R189). -/
def State.SameTags (s : State) (A B : RowOp) : Prop := isLs A = true ∨ isLs B = true ∨ s.me.rowTag A = s.me.rowTag B

/-- What R191 asks of a guarded instruction: no block format, and a destination that holds the result's tag or nothing. -/
def State.Guardable (s : State) (g : BitVec 2) (D : RowOp) (src res : Tag) : Prop :=
  g = 0 ∨ (src ≠ .BX4 ∧ res ≠ .BX4 ∧ (s.me.destTag D = res ∨ s.me.destTag D = .EMPTY))

/-- A core whose bundle sends a row to `D`: a write stream keeps an entry for it (R190). -/
def Core.sending (x : Core) : RowOp → Core
  | .q n => x.modStream n fun t => { t with pos := t.pos + 1 }
  | _ => x

/-- The state after a bundle whose only result, of word `slot` and with `left` more bundles to wait, is a row for `D`. -/
def State.rowLater (s : State) (slot left : Nat) (D : RowOp) (v : RowBits) (t : Tag) : State :=
  s.modMe fun x => (x.sending D).retired.awaiting slot left (.row (x.regs.dest D) v t (slotLatch slot))

/-- A state whose stochastic-rounding counter has advanced by `n` under SR (R41). -/
def State.counted (s : State) (rm : RMode) (n : Nat) : State :=
  s.modMe fun x => x.modCtl fun t => { t with rndCount := t.rndCount + if rm = .sr then BitVec.ofNat 64 n else 0 }

/-- An instruction of a vector slot gives a row of tag `res` whose element `j`, of `n` elements of `w` bits, is `f j` where it is on and
the destination's element elsewhere (R191), with `left` more bundles to wait. -/
def State.GivesRow (s : State) (i : Instr) (left : Nat) (g : BitVec 2) (D : RowOp) (res : Tag) (n w : Nat) (f : Nat → Nat) : Prop :=
  ∃ v : RowBits, exec i s = .next (s.rowLater 2 left D v res) ∧
    ∀ j < n, elem w v j = if onLane (s.guardOf g) n j = true then f j % 2 ^ w else elem w (s.destOld D) j

/-- The same for a conversion, of latency 3, that counts its elements under SR (R41). -/
def State.ConvertsRow (s : State) (i : Instr) (rm : RMode) (g : BitVec 2) (D : RowOp) (res : Tag) (n : Nat) (f : Nat → Nat) : Prop :=
  ∃ v : RowBits, exec i s = .next ((s.rowLater 2 2 D v res).counted rm n) ∧
    ∀ j < n, elem (tagBits res) v j =
      if onLane (s.guardOf g) n j = true then f j % 2 ^ tagBits res else elem (tagBits res) (s.destOld D) j

/-- The same for an instruction whose result is a predicate of 1024/n bits an element: off, they stay (R198). -/
def State.GivesPred (s : State) (i : Instr) (g pd : BitVec 2) (n : Nat) (f : Nat → Bool) : Prop :=
  ∃ v : Pred, exec i s = .next (s.modMe fun x => x.retired.awaiting 2 1 (.pred pd v)) ∧
    ∀ j < n, ∀ b < 1024 / n, v.getLsbD (j * (1024 / n) + b) =
      if onLane (s.guardOf g) n j = true then f j else (s.me.regs.pReg pd).getLsbD (j * (1024 / n) + b)

/-- The state after a bundle of a vector slot whose results are the rows of a group from tile row `n` on (R202). -/
def State.rowsLater (s : State) (left : Nat) (n : BitVec 7) (rows : List RowBits) (t : Tag) : State :=
  s.modMe fun x => x.retired.modFlow fun f =>
    { f with pending := rows.zipIdx.map fun p =>
        { left := left, res := .row (.tile (n + BitVec.ofNat 7 p.2)) p.1 t (some .LV0), young := false, slot := 2, bun := f.bun - 1 } }

/-- An operand names an aligned group of `k` tile rows, from `n` on (R51, R201). -/
def State.GroupAt (s : State) (o : RowOp) (k : Nat) (n : BitVec 7) : Prop :=
  s.me.regs.tileIdx o = some n ∧ n.toNat % k = 0

/-- Element `i` of `w` bits of the sequence that the `k` tile rows from `n` on hold (R51). -/
def State.groupElem (s : State) (w k : Nat) (n : BitVec 7) (i : Nat) : Nat :=
  elem w (s.me.regs.t.get (n + BitVec.ofNat 7 (i % k)).toFin) (i / k)

/-- An instruction of a vector slot gives a group of `k` rows of tag `res` from tile row `r` on: element `j` of the sequence is `f j`
where it is on and the destination's elsewhere (R191, R202). -/
def State.GivesGroup (s : State) (i : Instr) (rm : RMode) (g : BitVec 2) (D : RowOp) (k : Nat) (r : BitVec 7) (res : Tag) (n : Nat)
    (f : Nat → Nat) : Prop :=
  ∃ rows : List RowBits, rows.length = k ∧ exec i s = .next ((s.rowsLater 2 r rows res).counted rm n) ∧
    ∀ j < n, elem (tagBits res) (rows.getD (j % k) 0) (j / k) =
      if onLane (s.guardOf g) n j = true then f j % 2 ^ tagBits res
      else if s.me.destTag D = .EMPTY then 0 else s.groupElem (tagBits res) k r j

/-- A row, as a number, is the BX4 row of 512 FP32 codes under an absolute maximum, as R43, R45 and R46 have it: the band scale is amax/189 rounded
up to BF16; a block starts at element 0 and where the block before has 32 elements, or has 4 and the next magnitude leaves its range; a block's
scale is the least code that covers its largest magnitude; and an element is its quotient by both scales, rounded to nearest even with
saturation. -/
structure IsQuantised (x : Nat → Nat) (amax row : Nat) : Prop where
  band : row / 2 ^ 3584 =
    match decodeFloat fp32 amax with
    | .fin _ 0 _ => 0
    | v => roundVal bf16 .ru 0 false (valDiv v (.fin false 189 0))
  blocks : ∀ i < 512,
    let mag (k : Nat) : Val := match decodeFloat fp32 (x k) with | .nan => .fin false 0 0 | v => valAbs v
    let largest (a b : Nat) : Val := ((List.range' a (b - a)).map mag).foldl valMax (.fin false 0 0)
    let start (k : Nat) : Nat := row / 2 ^ (2048 + k) % 2
    let sb : Val := decodeFloat bf16 (row / 2 ^ 3584)
    let scale (c : Nat) : Val := if c < 32 then .fin false c (-7) else .fin false (32 + c % 32) (c / 32 - 8)
    let covers (c : Nat) (m : Val) : Prop := valLt (valMul (valMul (.fin false 6 0) sb) (scale c)) m = false
    start 0 = 1 ∧
    ∀ j ≤ i, start j = 1 → (∀ k, j < k → k ≤ i → start k = 0) →
      let below := largest j (i + 1)
      let n := i + 1 - j
      let code := row / 2 ^ (2560 + 8 * (((List.range (i + 1)).map start).sum - 1)) % 256
      let unit := valMul sb (scale code)
      (i + 1 < 512 → (start (i + 1) = 1 ↔ n = 32 ∨ (4 ≤ n ∧ valLt (valMul (.fin false 4 0) below) (mag (i + 1)) = true) ∨
        (4 ≤ n ∧ valLt (.fin false 0 0) (mag (i + 1)) = true ∧ valLt (mag (i + 1)) (valMul (.fin false 1 (-4)) below) = true))) ∧
      (i + 1 = 512 ∨ start (i + 1) = 1 →
        if valEq sb (.fin false 0 0) = true ∨ valEq below (.fin false 0 0) = true then code = 0
        else code ≤ 0xFE ∧ (code = 0xFE ∨ covers code below) ∧ ∀ c < code, ¬ covers c below) ∧
      row / 2 ^ (4 * i) % 16 =
        match decodeFloat fp32 (x i) with
        | .nan => 0
        | v => if valEq unit (.fin false 0 0) = true then 0 else roundVal e2m1 .rne 0 true (valDiv v unit)
  rest : ∀ b < 128, ((List.range 512).map fun k => row / 2 ^ (2048 + k) % 2).sum ≤ b → row / 2 ^ (2560 + 8 * b) % 256 = 0

/-! ## Local and global memory -/

/-- The bytes that an access of a shape moves, in register order, from offset `o` on (R217, R218). -/
def shapePlaces (sh : RowShape) (o : Nat) : List Nat :=
  match sh with
  | .row w => (List.range (widthBytes w)).map fun i => o + i
  | .col e => (List.range 512).map fun i => o + i / elemBytes e * 512 + i % elemBytes e

/-- An access that its storage of `size` bytes can serve: inside it and aligned (R216 to R218). -/
def fitsIn (size : Nat) (sh : RowShape) (o : Nat) : Bool :=
  match sh with
  | .row w => decide (o % widthBytes w = 0 ∧ o + widthBytes w ≤ size)
  | .col e => decide (o < size ∧ o / 512 % 32 = 0 ∧ o % elemBytes e = 0 ∧ o / 512 + 512 / elemBytes e ≤ 512)

/-- A copy slot gives a row of the destination's tag, N8 for EMPTY, whose bytes are `f` (R251). -/
def State.LoadsRow (s : State) (i : Instr) (left : Nat) (row : RowOp) (f : Nat → Nat) : Prop :=
  ∃ v : RowBits, exec i s = .next (s.rowLater 5 left row v (if s.me.destTag row = .EMPTY then .N8 else s.me.destTag row)) ∧
    ∀ i < 512, elem 8 v i = f i

/-- The leaf and the physical address that an access of the acting core is given, or the trap it takes; and the state that its
translation leaves, in which a walked leaf is cached (R239, R243, R244). -/
def State.page? (s : State) (n : Need) (va : Word) (len : Nat) : Option (Leaf × Nat) := (s.access s.cur n va len).2.toOption
def State.pageTrap? (s : State) (n : Need) (va : Word) (len : Nat) : Option Trap :=
  match (s.access s.cur n va len).2 with | .error t => some t | .ok _ => none
def State.walked (s : State) (n : Need) (va : Word) (len : Nat) : State := (s.access s.cur n va len).1

/-- No maintenance slot holds the walk that an access to `va` may need (R420). -/
def State.mayWalk (s : State) (va : Word) : Bool := !(s.calendar.hold && s.needsWalk s.cur va)

/-- A core that has put accesses into its queues, under one fresh number (R358). -/
def Core.sent (x : Core) (ops : List MemOp) : Core :=
  { x with mem := { x.mem with memq := x.mem.memq ++ ops }, flow := { x.flow with nextId := x.flow.nextId + 1 } }

/-- Whether a local access of the acting core has to wait in its queue: a fence or an acquire holds its class (0 for a load, 1 for a store), or
an earlier access that waits there meets it, one of the two a store (R222, R279, R361). -/
def State.LocalWaits (s : State) (shared store : Bool) (offs : List Nat) : Prop :=
  ∃ e ∈ s.me.mem.memq, e.holds s.me.flow.bun (if store then 1 else 0) = true ∨ (store = true ∧ e.holdsWrite s.me.flow.bun = true) ∨
    e.meetsLocal shared store offs = true

/-- An access to a page keeps the order of the SC pages: the page is none, or no access to one is on its way (R366). -/
def State.InScOrder (s : State) (l : Leaf) : Prop := l.sc = true → s.me.scBusy = false

/-- A core with more results under way. -/
def Core.expecting (x : Core) (l : List Pending) : Core := x.modFlow fun f => { f with pending := f.pending ++ l }

/-- A cluster's read cache without some lines, nor fills of them (R247). -/
def State.cacheWithout (s : State) (lines : List Nat) : State :=
  s.modCluster (clusterOf s.cur) fun k =>
    { k with cache := k.cache.filter fun e => !lines.contains e.line, fills := k.fills.filter fun e => !lines.contains e.line }

/-- The acting core's bundle waits for the verdict `v` of the directory on its word 5, which has been given; but for it the core is
ready (R344). -/
structure State.Judged (s : State) (v : CnVerdict) : Prop where
  ready : (s.modMe fun x => x.modMem fun m => { m with cn := [] }).Ready
  verdict : s.me.mem.cn = [v]
  done : v.done = true
  slot : v.slot = 5

/-- The state with the verdicts of the acting core taken. -/
def State.unjudged (s : State) : State := s.modMe fun x => x.modMem fun m => { m with cn := [] }

/-- The acting core has performed the words of a bundle with header `h` up to word `k`, its last, and nothing they did is left for the
end of the bundle: what word `k` of a bundle with a header of its own meets. -/
structure State.LastWord (s : State) (k : Nat) (h : Head) : Prop where
  issue : ∃ perf : BitVec 8, s.me.flow.issue = { tags := s.me.mem.tags, isOpen := true, slot := k, head := h, perf := perf }
  carry : s.me.flow.carry = {}
  pending : s.me.flow.pending = []
  verdicts : s.me.mem.cn = []
  phase : ∀ p ∈ (s.die (dieOf s.cur)).phase, p.ending = false
  loops : ∀ i : Fin 4, (s.me.flow.loops.get i).act = false
  pop : h.pop = 0
  op : h.op = none
  kind : h.kind = .normal ∨ h.kind = .xph

/-- The end of a bundle with header `h`: the phase cycle of the die is over where every member has issued in it (R376). -/
def State.cycleOver (s : State) (h : Head) : State :=
  if h.kind = .xph then
    s.modDie (dieOf s.cur) fun x =>
      { x with phase := x.phase.map fun p => if p.members.all p.issued.contains then { p with issued := [] } else p }
  else s

/-- The state after a bundle whose matrix word put a command into the core's buffer, with `f` done to the core besides, for `cost` draw
tokens; a command that needs only its turn is performed at once (R301, R317, R322). `sc` says that it reaches an SC page (R366). -/
def State.commanded (s : State) (cost : Nat) (grant : Option Nat) (c : Cmd) (f : Core → Core) (sc : Bool := false) : State :=
  ((s.modMe fun x => (f x).modMat fun m => { m with cmds := m.cmds ++ [{ bun := x.flow.bun, grant := grant, cmd := c, sc := sc }] }).settleCmds
    s.cur 32).modMe fun x =>
    (x.modCtl fun t => { t with bal := t.bal - cost }).retired

/-! ## Nodes -/

/-- Nodes are numbered apart, below the next number. -/
def State.Numbered (s : State) : Prop := (s.nodes.map (·.id)).Nodup ∧ ∀ n ∈ s.nodes, n.id < s.nextNode

/-- A list of node numbers holds every WAITING or READY node that a node of the list names as its successor (R81). -/
def State.Closed (s : State) (L : List Nat) : Prop :=
  ∀ n ∈ s.nodes, n.id ∈ L → ∀ i ∈ n.record.succs, ∀ m ∈ s.nodeAt n.handle i, m.state = .waiting ∨ m.state = .ready → m.id ∈ L

/-- `L` is what a cancellation reaches from the nodes `from_`: the least closed list that holds them (R81). -/
structure State.Spreads (s : State) (from_ L : List Nat) : Prop where
  start : ∀ j ∈ from_, j ∈ L
  closed : s.Closed L
  least : ∀ K : List Nat, (∀ j ∈ from_, j ∈ K) → s.Closed K → ∀ j ∈ L, j ∈ K

/-- The graphs once the nodes are `ns`: one of a handle of `hs` whose nodes are all final for the first time notes the tick (R75). -/
def State.graphsWith (s : State) (ns : List Node) (hs : List Word) : List Graph :=
  s.graphs.map fun g =>
    if hs.contains g.handle && g.finalAt.isNone && ns.all fun m => m.handle != g.handle || m.state.isFinal then { g with finalAt := some s.now }
    else g

/-! ## The host -/

/-- What a request of the host leaves, where `t` is the state with it performed: it is performed at once unless a maintenance slot holds
the bridge, its traffic class is slow, or a request before it does not let it pass, and waits otherwise (R420, R444). -/
def State.arriving (s : State) (r : HostReq) (t : State) : State :=
  let slow := s.hostSlow.getLsbD s.hostTc.toNat
  if s.calendar.hold = false ∧ slow = false ∧ s.hostQ.all (fun q => q.slow && !(q.tc == s.hostTc && q.req.posted)) = true then t
  else { s with hostQ := s.hostQ ++ [⟨s.hostTc, slow, r⟩] }

/-! ## Placement -/

/-- The cores [b, b + g) of a die run nothing and are not set aside, and each lies in a strip with a router left (R19, R83, R86). -/
def State.spare (s : State) (d b g : Nat) : Bool :=
  decide (b + g ≤ s.part.coreCount d) && (List.range g).all fun k =>
    (s.core (512 * d + b + k)).run.isNone && !((s.die d).aside.contains ((512 * d + b + k) % 512)) &&
      !((s.wear.routerBits d).getLsbD (2 * s.stripOf (512 * d + b + k)) && (s.wear.routerBits d).getLsbD (2 * s.stripOf (512 * d + b + k) + 1))

/-- The base that a die's affinity table holds for a node, of its size and free (R89). -/
def State.preferred (s : State) (d g : Nat) (n : Node) : Option Nat :=
  (((s.die d).affinity.lookup n.record.stage.toNat).filter fun e => e.g == g && s.spare d e.base g).map (·.base)

/-- The base for a gang of a node on a die: the preferred one, or the lowest multiple of its size that is free (R83, R89). -/
def State.baseOn (s : State) (d g : Nat) (n : Node) : Option Nat :=
  (s.preferred d g n).or ((List.range (s.part.coreCount d)).find? fun b => decide (0 < g) && b % g == 0 && s.spare d b g)

/-- The gang size of a node, and the number of gangs it aims at; a node that returns keeps both (R57, R84, R85). -/
def State.wantedSize (s : State) (n : Node) : Nat :=
  if n.saved = [] then
    Min.min (if n.record.gang = 15 then 512 else 2 ^ n.record.gang) (Min.min (2 ^ n.record.vwidth.log2) (2 ^ (s.part.coreCount n.die).log2))
  else n.g
def State.wantedGangs (s : State) (n : Node) : Nat :=
  if n.saved ≠ [] then n.gangs.length else if n.record.spread then Min.min n.record.dies (n.record.vwidth / s.wantedSize n) else 1

/-- A conflict: every hold of the node is released, and it goes back and waits (R86, R88). -/
def State.collided (s : State) (n : Node) : State :=
  { s with
    dies := s.dies.map fun x => { x with busy := x.busy.filter (fun p => p.2 != n.id + 1), resv := x.resv.filter fun r => r.node != n.id }
    nodes := s.nodes.map fun m =>
      if m.id = n.id then
        { m with state := if n.saved = [] then .ready else .preempted, conflicts := n.conflicts + 1
                 backoff := some (s.now + Min.min 8192 (64 * 2 ^ n.conflicts)) }
      else m }

/-- A reservation of the serai of die `d` is at `r`. -/
def State.reserves (s : State) (d : Nat) (r : Reservation) : State := s.modDie d fun x => { x with resv := some r }

/-- A reservation goes on: the next die that has a base is asked for a hold while gangs are wanted; then the home die is asked
for power (R85, R86). -/
def State.goesOn (s : State) (d : Nat) (r : Reservation) (n : Node) : State :=
  let wants := decide (r.gangs.length < s.wantedGangs n)
  let found := if wants then (List.range' r.tried (7 - r.tried)).findSome? fun q => (s.baseOn ((d + q + 1) % 8) r.g n).map fun b => (q, b) else none
  match found with
  | some (q, b) => s.reserves d { r with tried := q + 1, holds := [((d + q + 1) % 8, b)], since := s.now, asked := s.now }
  | none =>
    if (n.saved ≠ [] ∧ r.gangs.length < n.gangs.length) ∨ (s.die d).grant.budget < s.classesHeld d + n.classSum 0 r.g then s.collided n
    else s.reserves d
      { r with
        tried := if wants then Max.max 7 r.tried else r.tried, granted := [d], powers := (r.gangs.drop 1).map (·.1), since := s.now
        asked := s.now }

/-- Every core [b, b + g) of a die is held for a node. -/
def State.holding (s : State) (d b g : Nat) (n : Node) : State :=
  s.modDie d fun x => { x with busy := (List.range g).foldl (fun m k => mapSet (b + k) (n.id + 1) m) x.busy }

/-- A hold of the cores [b, b + g) of a die succeeds: none runs, and none is held. -/
def State.canHold (s : State) (d b g : Nat) : Bool := s.spare d b g && (List.range g).all fun k => mapGet 0 (b + k) (s.die d).busy == 0

/-- A RETIRING node becomes DONE: its die counts it, the counter of each WAITING successor falls by one for each entry that names it, and at zero
the successor is READY (R77, R435, R440). -/
def State.finished (s : State) (n : Node) : State :=
  let named (m : Node) : Nat := (n.record.succs.filter fun i => (s.nodeAt n.handle i).map (·.id) == some m.id).length
  let ns := s.nodes.map fun m =>
    if m.id = n.id then { m with state := .done, postWaits := false }
    else if m.state = .waiting ∧ named m ≠ 0 then
      if m.preds ≤ named m then { m with preds := 0, state := .ready, readyTick := s.now } else { m with preds := m.preds - named m }
    else m
  State.countDie { s with nodes := ns, graphs := s.graphsWith ns [n.handle] } n.die 0x150

/-- The words of a completion post (R437). -/
def Node.postOf (n : Node) (code tick : Nat) : List Word :=
  [BitVec.ofNat 64 (code * 2 ^ 60 + n.idx % 2 ^ 12 * 2 ^ 48 + n.handle.toNat % 2 ^ 37), BitVec.ofNat 64 n.record.nodeId.toNat, BitVec.ofNat 64 tick]

/-- The mailbox of a die with a post put into it: before the words that SETC has pushed in the same tick (R446). What enters in a tick can be
read from the next one on, which sends the message of a mailbox that was empty (R447). -/
def Die.withPost (x : Die) (now : Nat) (ws : List Word) : Die :=
  let pushed := if x.pushAt = some now then x.pushes else 0
  let posted := if x.pushAt = some now then x.posted else 0
  let old := x.d2h.length - pushed
  { x with d2h := x.d2h.take old ++ ws ++ x.d2h.drop old, rise := x.rise || x.d2h.isEmpty
           pushAt := some now, pushes := pushed, posted := posted + ws.length }

/-- The first waiting post of a die enters the mailbox when three words are free there; the node of a post not yet worded is DONE with it
(R437, R438, R446). -/
def State.posted (s : State) (d : Nat) : State :=
  match (s.die d).posts with
  | [] => s
  | p :: rest =>
    if 253 < (s.die d).d2h.length then s
    else match p.words, s.node? p.node with
      | [], some n =>
        let u := s.modDie d fun x => { x with posts := rest }.withPost s.now (n.postOf 6 s.now)
        if n.state = .retiring then u.finished n else u
      | ws, _ => s.modDie d fun x => { x with posts := rest }.withPost s.now ws

/-! ## Leaving the cores -/

/-- A core that its node leaves at a kill or a pre-emption: its class and its context go; the registers, the scratchpad, CLIP, the bank
and its companion with the kinds of their rows stay (R287, R411, R414). -/
def Core.vacated (x : Core) : Core :=
  { x with
    ctl := { x.ctl with cls := 0, handler := false, priv := false, lockN := 0, lockP := 0 }
    flow := { bun := x.flow.bun, nextId := x.flow.nextId }
    mem := { epoch := x.mem.epoch, spad := x.mem.spad, written := x.mem.written, tlb := x.mem.tlb }
    mat := { bank := x.mat.bank, comp := x.mat.comp, kinds := x.mat.kinds }, run := none }

/-- A core that is returned to its die at retirement: bank, companion and CLIP are cleared as well (R435). -/
def Core.returned (x : Core) : Core := { x.vacated with ctl := { x.vacated.ctl with clip := 0 }, mat := {} }

/-- The waits of a core withdrawn, with what it was issuing (R375, R405, R414). -/
def Core.unwaiting (x : Core) : Core :=
  { x with
    flow :=
      { x.flow with arrived := none, power := none, leased := false, monitor := none, sleepWoken := none, sleepArmed := false
                    sleepFault := none, frozen := none, issue := {}, restarted := false, words := [] }
    mem := { x.mem with cn := [] }
    mat := { x.mat with lease := match x.mat.lease with | .wait _ => .idle | l => l } }

/-- A core runs a node. -/
def State.runs (s : State) (c id : Nat) : Bool := (s.core c).run.any fun r => r.node == id

/-- Frames taken in turn from a pool of `total`, of which `used` are taken: each need gets the lowest run that is left (R415). -/
def FramesFor (total : Nat) : List Nat → List Nat → List Nat → Prop
  | _, [], [] => True
  | used, m :: ms, f :: fs =>
    let fits (f : Nat) : Prop := f + m ≤ total ∧ f < total ∧ ∀ i < m, f + i ∉ used
    fits f ∧ (∀ e < f, ¬ fits e) ∧ FramesFor total (used ++ (List.range m).map (f + ·)) ms fs
  | _, _, _ => False

end Sys2Proof.Machine
end

