-- ==== Sys2Proof/Certificates/Slice0/Obligations.lean ====
section
/-! DEFINITION. Certificates/Slice0/Obligations.lean: the statements for the provers. A statement in several parts is the
conjunction of claims that stand before it. -/

open Sys2Proof Sys2Proof.Machine

/-- R156, R157, R135, R136: the integer operations of latency 1 write the value of the table, wrapped or extended by their width,
to s[d] (not to s0) and to LS; the core goes on, and nothing else changes.
Completion is stated of: add, sub, and, or, xor, shl, shr, sar, min, max, minn, maxn, slt, sltn, seq, sel. -/
def Claims.ScalarIntegerResults : Prop :=
  ∀ (s : State) (w : Width) (d a b : BitVec 5), s.Ready →
    let n : Nat := if w = .d64 then 64 else 32
    let x : Nat := (s.sReg a).toNat % 2 ^ n
    let y : Nat := (s.sReg b).toNat % 2 ^ n
    let xs : Int := if x < 2 ^ (n - 1) then x else x - 2 ^ n
    let ys : Int := if y < 2 ^ (n - 1) then y else y - 2 ^ n
    let k : Nat := y % n
    let gives (i : Instr) (r : Int) : Prop := exec i s = .next (s.scalarNow d (fromWidth w r))
    gives (.add w d a b) (x + y) ∧ gives (.sub w d a b) (x - y) ∧
    gives (.and w d a b) ((x &&& y : Nat) : Int) ∧ gives (.or w d a b) ((x ||| y : Nat) : Int) ∧ gives (.xor w d a b) ((x ^^^ y : Nat) : Int) ∧
    gives (.shl w d a b) (x * 2 ^ k) ∧ gives (.shr w d a b) (x / 2 ^ k) ∧ gives (.sar w d a b) (xs / 2 ^ k) ∧
    gives (.min w d a b) (Min.min xs ys) ∧ gives (.max w d a b) (Max.max xs ys) ∧
    gives (.minn w d a b) ((Min.min x y : Nat) : Int) ∧ gives (.maxn w d a b) ((Max.max x y : Nat) : Int) ∧
    gives (.slt w d a b) (if xs < ys then 1 else 0) ∧ gives (.sltn w d a b) (if x < y then 1 else 0) ∧
    gives (.seq w d a b) (if x = y then 1 else 0) ∧
    gives (.sel w d a b) (if (s.sReg d).toNat % 2 ^ n ≠ 0 then x else y)

/-- R158, R159: the immediate operations are always of 64 bits; MULI lands as MUL does, the others one bundle later.
Completion is stated of: addi, andi, ori, xori, shli, shri, sari, slti, sltni, muli, li, lis. -/
def Claims.ScalarImmediateResults : Prop :=
  ∀ (s : State) (d a : BitVec 5) (i : BitVec 15) (k : BitVec 6) (u : BitVec 20), s.Ready →
    let v := s.sReg a
    let e : Word := i.signExtend 64
    let gives (j : Instr) (r : Word) : Prop := exec j s = .next (s.scalarNow d r)
    gives (.addi d a i) (v + e) ∧ gives (.andi d a i) (v &&& e) ∧ gives (.ori d a i) (v ||| e) ∧ gives (.xori d a i) (v ^^^ e) ∧
    gives (.shli d a k) (BitVec.ofNat 64 (v.toNat * 2 ^ k.toNat)) ∧ gives (.shri d a k) (BitVec.ofNat 64 (v.toNat / 2 ^ k.toNat)) ∧
    gives (.sari d a k) (BitVec.ofInt 64 (v.toInt / 2 ^ k.toNat)) ∧
    gives (.slti d a i) (if v.toInt < e.toInt then 1 else 0) ∧ gives (.sltni d a i) (if v.toNat < e.toNat then 1 else 0) ∧
    exec (.muli d a i) s = .next (s.scalarLater 2 d (v * e)) ∧
    gives (.li d u) (u.signExtend 64) ∧ gives (.lis d u) (s.sReg d * 2 ^ 20 + u.setWidth 64)

/-- Integer and immediate instructions of the S slot: value, latency and frame. -/
def Obligations.ScalarIntegerOperations : Prop :=
  Claims.ScalarIntegerResults ∧ Claims.ScalarImmediateResults

/-- R156, R157, R135: the multiplications land two bundles after the next, the divisions seventeen; a division by zero gives
2^n − 1, and a remainder by zero the dividend.
Completion is stated of: mul, mulhi, mulhn, div, divn, rem, remn. -/
def Claims.ScalarMultiplyDivideResults : Prop :=
  ∀ (s : State) (w : Width) (d a b : BitVec 5), s.Ready →
    let n : Nat := if w = .d64 then 64 else 32
    let x : Nat := (s.sReg a).toNat % 2 ^ n
    let y : Nat := (s.sReg b).toNat % 2 ^ n
    let xs : Int := if x < 2 ^ (n - 1) then x else x - 2 ^ n
    let ys : Int := if y < 2 ^ (n - 1) then y else y - 2 ^ n
    let gives (i : Instr) (left : Nat) (r : Int) : Prop := exec i s = .next (s.scalarLater left d (fromWidth w r))
    gives (.mul w d a b) 2 (x * y) ∧ gives (.mulhi w d a b) 2 (xs * ys / 2 ^ n) ∧ gives (.mulhn w d a b) 2 (x * y / 2 ^ n) ∧
    gives (.div w d a b) 17 (if y = 0 then 2 ^ n - 1 else xs.tdiv ys) ∧
    gives (.divn w d a b) 17 (if y = 0 then 2 ^ n - 1 else x / y) ∧
    gives (.rem w d a b) 17 (if y = 0 then xs else xs - ys * xs.tdiv ys) ∧
    gives (.remn w d a b) 17 (if y = 0 then x else x % y)

/-- R156, R157: counts of bits, rotation, byte reversal and the extraction of fields.
Completion is stated of: clz, popc, ctz, rotl, bswap, exts, extz. -/
def Claims.ScalarBitFieldResults : Prop :=
  ∀ (s : State) (w : Width) (d a b : BitVec 5), s.Ready →
    let n : Nat := if w = .d64 then 64 else 32
    let x : Nat := (s.sReg a).toNat % 2 ^ n
    let y : Nat := (s.sReg b).toNat % 2 ^ n
    let k : Nat := y % n
    let len : Nat := if y / 2 ^ 8 % 64 = 0 then 64 else y / 2 ^ 8 % 64
    let f : Nat := x / 2 ^ (y % 64) % 2 ^ len
    let gives (i : Instr) (r : Int) : Prop := exec i s = .next (s.scalarNow d (fromWidth w r))
    (∃ c : Nat, gives (.clz w d a) c ∧ c ≤ n ∧ x < 2 ^ (n - c) ∧ (x ≠ 0 → 2 ^ (n - c - 1) ≤ x) ∧ (x = 0 → c = n)) ∧
    (∃ c : Nat, gives (.ctz w d a) c ∧ 2 ^ c ∣ x ∧ (x ≠ 0 → ¬ 2 ^ (c + 1) ∣ x) ∧ (x = 0 → c = n)) ∧
    gives (.popc w d a) (((List.range n).map fun i => x / 2 ^ i % 2).sum : Nat) ∧
    gives (.rotl w d a b) ((x * 2 ^ k % 2 ^ n + x / 2 ^ (n - k) : Nat) : Int) ∧
    gives (.bswap w d a) (((List.range (n / 8)).map fun i => x / 2 ^ (8 * i) % 256 * 2 ^ (n - 8 - 8 * i)).sum : Nat) ∧
    gives (.exts w d a b) (if f < 2 ^ (len - 1) then (f : Int) else f - 2 ^ len) ∧
    gives (.extz w d a b) f

/-- Multiply, divide, remainder and bit-field instructions of the S slot. -/
def Obligations.ScalarMultiplyDivideAndBitFields : Prop :=
  Claims.ScalarMultiplyDivideResults ∧ Claims.ScalarBitFieldResults

/-- R160, R161, R162, R37, R38, R41, R42: scalar FP32. Operands are the low 32 bits of their registers; the exact result is rounded once and
lands three bundles after the next; an SR instruction counts one element. FCVT to an integer rounds by the mode and clamps, a NaN giving 0; from
an integer it rounds once; FRINT rounds to an integral value and keeps zeros, infinities and the sign.
Completion is stated of: fadd, fsub, fmul, ffma, fmin, fmax, fcmp, fcvt. -/
def Obligations.ScalarFloatResults : Prop :=
  ∀ (s : State) (rm : RMode) (d a b : BitVec 5) (c : FCond) (k : FcvtKind), s.Ready →
    let F (r : BitVec 5) : Val := decodeFloat fp32 ((s.sReg r).toNat % 2 ^ 32)
    let rounded (v : Val) : Word := BitVec.ofNat 64 (roundVal fp32 rm (s.rnd 0) false v)
    let bits := (s.sReg a).toNat % 2 ^ 32
    let neg : Prop := 2 ^ 31 ≤ bits
    let e := bits / 2 ^ 23 % 256
    let m := bits % 2 ^ 23 + (if e = 0 then 0 else 2 ^ 23)
    let up : Nat := 2 ^ (Max.max e 1 - 150)
    let down : Nat := 2 ^ (150 - Max.max e 1)
    let whole : Nat := m * up / down
    let rest : Nat := m * up % down
    let chance : Nat := s.rnd 0
    let away : Prop := match rm with
      | .rne => down < 2 * rest ∨ (down = 2 * rest ∧ whole % 2 = 1)
      | .rz => False
      | .ru => ¬ neg ∧ rest ≠ 0
      | .rd => neg ∧ rest ≠ 0
      | .rna => rest ≠ 0 ∧ down ≤ 2 * rest
      | .sr => 2 ^ 16 ≤ rest * 2 ^ 16 / down + chance
    let near (n : Nat) : Prop := n = whole ∧ ¬ away ∨ n = whole + 1 ∧ away
    let converts (v : Word) : Prop := exec (.fcvt k rm d a) s = .next
      (s.modMe fun x => (x.retired.awaiting 1 3 (.scalar d true v)).modCtl fun t =>
        { t with rndCount := t.rndCount + if rm = .sr then 1 else 0 })
    let toInteger (lo hi : Int) : Prop :=
      (e = 255 ∧ bits % 2 ^ 23 ≠ 0 → converts 0) ∧
      (e = 255 ∧ bits % 2 ^ 23 = 0 → converts (BitVec.ofInt 64 (if neg then lo else hi))) ∧
      (e ≠ 255 → ∀ n, near n → converts (BitVec.ofInt 64 (Max.max lo (Min.min hi (if neg then -(n : Int) else n)))))
    let fromInteger (i : Int) : Prop := converts (rounded (.fin (decide (i < 0)) i.natAbs 0))
    let gives (i : Instr) (counts : Bool) (v : Word) : Prop := exec i s = .next
      (s.modMe fun x => (x.retired.awaiting 1 3 (.scalar d true v)).modCtl fun t =>
        { t with rndCount := t.rndCount + if counts && rm == .sr then 1 else 0 })
    gives (.fadd rm d a b) true (rounded (valAdd (rm == .rd) (F a) (F b))) ∧
    gives (.fsub rm d a b) true (rounded (valAdd (rm == .rd) (F a) (valNeg (F b)))) ∧
    gives (.fmul rm d a b) true (rounded (valMul (F a) (F b))) ∧
    gives (.ffma rm d a b) true (rounded (valAdd (rm == .rd) (F d) (valMul (F a) (F b)))) ∧
    gives (.fmin d a b) false (BitVec.ofNat 64 (rne fp32 (valMin (F a) (F b)))) ∧
    gives (.fmax d a b) false (BitVec.ofNat 64 (rne fp32 (valMax (F a) (F b)))) ∧
    gives (.fcmp c d a b) false (if valCmp c (F a) (F b) then 1 else 0) ∧
    (match k with
      | .ftoi64 => toInteger (-2 ^ 63) (2 ^ 63 - 1)
      | .fton64 => toInteger 0 (2 ^ 64 - 1)
      | .ftoi32 => toInteger (-2 ^ 31) (2 ^ 31 - 1)
      | .fton32 => toInteger 0 (2 ^ 32 - 1)
      | .i64tof => fromInteger (s.sReg a).toInt
      | .n64tof => fromInteger (s.sReg a).toNat
      | .i32tof => fromInteger ((s.sReg a).setWidth 32).toInt
      | .frint =>
        (e = 255 ∧ bits % 2 ^ 23 ≠ 0 → converts 0x7FC00000) ∧
        (e = 255 ∧ bits % 2 ^ 23 = 0 → converts (BitVec.ofNat 64 bits)) ∧
        (e ≠ 255 → ∀ n, near n → converts (BitVec.ofNat 64 (rne fp32 (.fin (decide neg) n 0)))))

/-- R110, R163, R164, R182: branches, jumps and calls. The PC and offsets count bundles; that a target wraps at 2^59 is the model's reading (log
entry 13).
Completion is stated of: br, jmp, call, jmpr, ret. -/
def Claims.BranchesAndJumpsGoToTargets : Prop :=
  ∀ (s : State) (c : BrCond) (d a : BitVec 5) (near : BitVec 16) (far : BitVec 25), s.Ready →
    let pc := s.me.flow.pc
    let link : Word := BitVec.ofNat 64 ((pc + 1).toNat * 32)
    let v := s.sReg a
    let holds : Prop := match c with
      | .eqz => v = 0
      | .nez => v ≠ 0
      | .ltz => v.toInt < 0
      | .gez => 0 ≤ v.toInt
      | .gtz => 0 < v.toInt
      | .lez => v.toInt ≤ 0
      | .bit0 => v.toNat % 2 = 1
      | .nbit0 => v.toNat % 2 = 0
    let goes (i : Instr) (t : Pc) : Prop := exec i s = .next (s.modMe (·.retiredTo t))
    let calls (i : Instr) (r : BitVec 5) (t : Pc) : Prop :=
      exec i s = .next (s.modMe fun x => (x.retiredTo t).modRegs (·.scalar r link))
    (holds → goes (.br c a near) (pc + near.signExtend 59)) ∧
    (¬ holds → exec (.br c a near) s = .next (s.modMe Core.retired)) ∧
    goes (.jmp far) (pc + far.signExtend 59) ∧ calls (.call far) 31 (pc + far.signExtend 59) ∧
    (v.toNat % 32 = 0 → calls (.jmpr d a) d (BitVec.ofNat 59 (v.toNat / 32))) ∧
    ((s.sReg 31).toNat % 32 = 0 → calls .ret 0 (BitVec.ofNat 59 ((s.sReg 31).toNat / 32)))

/-- R164, R401, R404: JMPR and RET to an address that is not a multiple of 32 take the misaligned fault, do not jump and write no
link. -/
def Claims.MisalignedJumpTraps : Prop :=
  ∀ (s : State) (d a : BitVec 5), s.Ready → s.MayTrap →
    ((s.sReg a).toNat % 32 ≠ 0 → exec (.jmpr d a) s = .next (s.modMe (·.faulted 1 ⟨0x0A, s.sReg a⟩))) ∧
    ((s.sReg 31).toNat % 32 ≠ 0 → exec .ret s = .next (s.modMe (·.faulted 1 ⟨0x0A, s.sReg 31⟩)))

/-- Branches, jumps, calls and returns go to their targets; a misaligned target traps. -/
def Obligations.BranchesAndJumps : Prop :=
  Claims.BranchesAndJumpsGoToTargets ∧ Claims.MisalignedJumpTraps

/-- R147, R165, R440: GETC of a register that holds a value completes where the access is permitted, and so does SETC of one that is no
hardware queue: the value goes to s[d], or to the register.
Completion is stated of: getc, setc, setcClip, setcOplimit, cnpoolEnable, cnpoolDisable. -/
def Claims.ControlRegisterReadsAndWrites : Prop :=
  ∀ (s : State) (d a : BitVec 5) (c : BitVec 12), s.Ready →
    let n := c.toNat
    let writes (i : Instr) (m : Nat) : Prop := exec i s = .next ((s.modMe Core.retired).setCreg s.cur m (s.sReg a))
    (isQueueReg n = false → cregDefined n = true → (s.me.ctl.priv = true ∨ n < 0x400) →
      exec (.getc d c) s = .next (s.scalarNow d (s.cregValue s.cur n)) ∧
      (cregFixed n = false → (s.me.ctl.priv = true ∨ cregUserFixed n = false) → writes (.setc a c) n)) ∧
    writes (.setcClip a) 0x020 ∧
    (s.me.ctl.priv = true → writes (.setcOplimit a) 0x470 ∧ writes (.cnpoolEnable a) 0x420 ∧ writes (.cnpoolDisable a) 0x420)

/-- R22, R58, R93, R103, R149, R154, R155, R386, R403, R415, R419, R440: what GETC returns, field by field: the status, the coordinates of the slice, its
first tile and the one past its last, the node's number, stage and width, the draw tokens, the power level, the next slot, the profiles, the
trap registers, and the state of a window. Where the capability list stands is the model's choice (log entry 11).
Completion is stated of: getc. -/
def Claims.ControlRegisterValues : Prop :=
  ∀ (s : State) (d : BitVec 5) (r : Run), s.Ready → s.me.run = some r →
    let reads (n v : Nat) : Prop := exec (.getc d (BitVec.ofNat 12 n)) s = .next (s.scalarNow d (BitVec.ofNat 64 v))
    let t := s.me.ctl
    let D := s.die s.myDie
    let k := s.calendar.nextSlot
    let bit (b : Bool) (n : Nat) : Nat := if b then 2 ^ n else 0
    reads 0x000 (t.lockN.toNat * 2 ^ 24 + t.lockP.toNat * 2 ^ 16 + bit t.settle 15 + t.opTgt.toNat * 2 ^ 12 + t.opCur.toNat * 2 ^ 8 +
      bit t.handler 1 + bit t.priv 0) ∧
    reads 0x001 (r.slice * 2 ^ 48 + r.ord % 2 ^ 16 * 2 ^ 32 + r.gang * 2 ^ 29 + (r.d - 1) * 2 ^ 26 + r.g.log2 * 2 ^ 22 + r.core * 2 ^ 13) ∧
    reads 0x002 r.begin ∧ reads 0x003 r.end_ ∧ reads 0x004 r.nodeId.toNat ∧ reads 0x005 r.stage.toNat ∧ reads 0x006 r.vwidth ∧
    reads 0x010 t.rngSeed.toNat ∧ reads 0x011 t.rndCount.toNat ∧ reads 0x020 t.clip.toNat ∧ reads 0x021 t.xcoll.toNat ∧
    reads 0x030 (D.grant.rate * 2 ^ 32 + D.grant.cap * 2 ^ 16 + t.bal) ∧
    reads 0x031 (bit D.grant.fsafe 11 + (if D.grant.fsafe then 2 else 7) * 2 ^ 8 + t.cls.toNat) ∧
    reads 0x040 (2560 * k) ∧ reads 0x041 (if k % 1024 = 0 then 4096 else 128) ∧ reads 0x050 t.winIdx.toNat ∧ reads 0x060 0xFF ∧
    (s.me.ctl.priv = true →
      reads 0x400 t.trapVec.toNat ∧ reads 0x401 t.trapCause.toNat ∧ reads 0x402 t.trapPc.toNat ∧ reads 0x403 t.trapAddr.toNat ∧
      reads 0x404 t.replay.toNat ∧ reads 0x405 D.saveArea.toNat ∧ reads 0x411 t.asid.toNat ∧ reads 0x470 t.opLimit.toNat ∧
      reads 0x480 0xC000010000 ∧
      ∀ w < 16, reads (0x433 + 4 * w) ((s.window w).rounds.toNat * 2 ^ 32 + (s.window w).discard.toNat * 2 ^ 16 +
        Min.min 65535 (s.partials w).length))

/-- R240, R330, R331, R386, R387: what CTL.PTBASE, CTL.CNPOOLBASE, CTL.CNPOOLSIZE and the registers of a window hold from the bundle after a SETC on:
reserved bits stay zero; a pool or a window in service keeps everything but EN; EN is not set for a pool that does not fit or a window that
is refused. -/
def Claims.ModuleRegistersReadBack : Prop :=
  ∀ (s : State) (c w : Nat) (v : Word), w < 16 →
    let u := s.settled
    let reads (n : Nat) (x : Word) : Prop := (s.setCreg c n v).cregValue c n = x
    let asks := v.getLsbD 0
    let base := u.pool.base
    let units := if u.pool.size.toNat % 2 ^ 20 = 0 then 2 ^ 20 else u.pool.size.toNat % 2 ^ 20
    let fits := v.toNat / 2 ^ 20 % 2 ^ 28 * 2 ^ 20 + 160 * 4096 * units ≤ 0xC000000000
    let x := u.window w
    let en := x.cfg.getLsbD 63
    let cfg := v &&& 0xFE00FFFFFF00FFFF
    reads 0x410 (v &&& 0x0000FFFFFFFF8000) ∧
    (base.getLsbD 0 = true → asks = true → reads 0x420 base) ∧
    (base.getLsbD 0 = true → asks = false → reads 0x420 (base &&& ~~~1)) ∧
    (base.getLsbD 0 = false → (asks = true → fits) → reads 0x420 (v &&& 0x0000FFFFFFF00001)) ∧
    (base.getLsbD 0 = false → asks = true → ¬ fits → reads 0x420 (v &&& 0x0000FFFFFFF00000)) ∧
    reads 0x421 (if base.getLsbD 0 then u.pool.size else v &&& 0xFFFFF) ∧
    reads (0x430 + 4 * w) (if en then x.base else v &&& 0x07FFFFFFFFFFFF80) ∧
    reads (0x432 + 4 * w) (if en then x.done else v &&& 0x07FFFFFFFFFFFFF8) ∧
    (en = true → reads (0x431 + 4 * w) (if v.getLsbD 63 then x.cfg else x.cfg &&& ~~~(1#64 <<< 63))) ∧
    (en = false → (v.getLsbD 63 = true → u.windowRefused w { x with cfg := cfg } = false) → reads (0x431 + 4 * w) cfg) ∧
    (en = false → v.getLsbD 63 = true → u.windowRefused w { x with cfg := cfg } = true → reads (0x431 + 4 * w) x.cfg)

/-- R440: each performance counter, of the core, of its cluster or of its die, holds what a SETC has written. -/
def Claims.CountersReadBack : Prop :=
  ∀ (s : State) (c : Nat) (v : Word), ∀ n ∈ [0x100, 0x101, 0x102, 0x103, 0x104, 0x105, 0x110, 0x111, 0x120, 0x121, 0x122, 0x123, 0x130, 0x131, 0x132,
      0x133, 0x134, 0x140, 0x141, 0x150, 0x151, 0x152],
    (s.setCreg c n v).cregValue c n = v

/-- R147, R406, R411, R466: the order of the access checks of GETC and SETC: privilege, a number that names no register, a register that is
read-only in the unprivileged view, a register that is read-only in both. Outside a handler the trap is taken; inside one, where code is
privileged, the node is killed, with an entry that names the cause and the bundle. -/
def Claims.ControlRegisterAccessTraps : Prop :=
  ∀ (s : State) (d a : BitVec 5) (c : BitVec 12), s.Ready → s.inPhase s.cur = false → s.me.ctl.trapVec ≠ 0 →
    let n := c.toNat
    let entry : List Word := [BitVec.ofNat 64 (2 ^ 8 + 0x62)]
    let fails (i : Instr) (t : Trap) : Prop := exec i s = .next (
      if s.me.ctl.handler then
        ((s.modMe Core.unwaiting).modDieMsix s.myDie fun x =>
          x.pushEntry (entry ++ [BitVec.ofNat 64 (t.code.toNat + s.me.flow.pc.toNat % 2 ^ 47 * 2 ^ 16)])).killCore s.cur
      else s.modMe (·.refused 1 t))
    (s.me.ctl.priv = false → 0x400 ≤ n → n ≤ 0xF0F → fails (.getc d c) ⟨0x05, c.setWidth 64⟩ ∧ fails (.setc a c) ⟨0x05, c.setWidth 64⟩) ∧
    (cregDefined n = false → (s.me.ctl.priv = true ∨ n < 0x400 ∨ 0xF0F < n) → fails (.getc d c) ⟨0x03, 0⟩ ∧ fails (.setc a c) ⟨0x03, 0⟩) ∧
    (cregDefined n = true → n < 0x400 → s.me.ctl.priv = false → cregUserFixed n = true → fails (.setc a c) ⟨0x05, c.setWidth 64⟩) ∧
    (cregDefined n = true → s.me.ctl.priv = true → cregFixed n = true → fails (.setc a c) ⟨0x03, 0⟩)

/-- R22, R93, R148, R149, R153 to R155, R240, R403, R404, R415: what a control register of a core or its die holds after a SETC has
taken effect: the writable bits of the value, reserved bits zero; TOKENS and the other read-only registers are not written. -/
def Claims.ControlRegistersHoldWhatIsWritten : Prop :=
  ∀ (s : State) (c : Nat) (v : Word),
    let reads (n : Nat) (w : Word) : Prop := (s.setCreg c n v).cregValue c n = w
    reads 0x010 v ∧ reads 0x011 v ∧ reads 0x020 (s.cregValue c 0x020 &&& v) ∧ reads 0x021 (v &&& 3) ∧
    reads 0x050 (v &&& 0xFFFFFF) ∧ reads 0x400 (v &&& 0xFFFFFFFFFFFFFFE0) ∧ reads 0x401 (v &&& 0xFFF) ∧
    reads 0x402 (v &&& 0x7FFFFFFFFFFF) ∧ reads 0x403 v ∧ reads 0x404 (v &&& 0xFFFF) ∧
    ((s.die (dieOf c)).frames = [] → reads 0x405 (v &&& 0x0000FFFFFFF00FFF)) ∧
    ((s.die (dieOf c)).frames ≠ [] → reads 0x405 (s.cregValue c 0x405)) ∧
    reads 0x411 (v &&& 0xFFF) ∧ reads 0x470 (v &&& 7)

/-- GETC and SETC: values, privilege and read-only traps, and what each register keeps. -/
def Obligations.ControlRegisters : Prop :=
  Claims.ControlRegisterReadsAndWrites ∧ Claims.ControlRegisterValues ∧ Claims.ModuleRegistersReadBack ∧ Claims.CountersReadBack ∧ Claims.ControlRegisterAccessTraps ∧ Claims.ControlRegistersHoldWhatIsWritten

/-- R151, R165, R66, R71, R446: GETC pops a hardware queue and SETC pushes to it when the bundle issues, for each of the four queues; where the queue
is empty or full, the launch FIFO has no room for a word that would be accepted, or a post that goes first can enter the mailbox, the bundle
freezes before issue.
Completion is stated of: getcQhost, getcQserai, getcQmsg, getcQerr, setcQhost, setcQserai, setcQmsg, setcQerr. -/
def Obligations.HardwareQueuesPopAndPush : Prop :=
  ∀ (s : State) (d a : BitVec 5) (w : Word) (t : List Word), s.Ready → s.me.ctl.priv = true →
    let D := s.die s.myDie
    let v := s.sReg a
    let waits (i : Instr) (n : BitVec 12) : Prop := exec i s = .next (s.modMe (·.held (.queue n)))
    (D.h2d = w :: t → exec (.getcQhost d) s = .next ((s.modDie s.myDie fun y => { y with h2d := t }).scalarNow d w)) ∧
    (D.ack = w :: t → exec (.getcQserai d) s = .next ((s.modDie s.myDie fun y => { y with ack := t }).scalarNow d w)) ∧
    (D.qmsg = w :: t → exec (.getcQmsg d) s = .next ((s.modDie s.myDie fun y => { y with qmsg := t }).scalarNow d w)) ∧
    (D.qerr = w :: t → exec (.getcQerr d) s =
      .next ((s.modDieMsix s.myDie fun y => ({ y with qerr := t } : Die).payDiscard).scalarNow d w)) ∧
    (D.h2d = [] → waits (.getcQhost d) 0xF00) ∧ (D.ack = [] → waits (.getcQserai d) 0xF01) ∧
    (D.qmsg = [] → waits (.getcQmsg d) 0xF02) ∧ (D.qerr = [] → waits (.getcQerr d) 0xF03) ∧
    (D.d2h.length < 256 → (D.posts = [] ∨ 253 < D.d2h.length) → exec (.setcQhost a) s = .next ((s.modDie s.myDie fun y =>
      { y with d2h := y.d2h ++ [v], pushAt := some s.now, pushes := (if D.pushAt = some s.now then D.pushes else 0) + 1
               posted := if D.pushAt = some s.now then D.posted else 0, rise := y.rise || y.d2h.isEmpty }).modMe Core.retired)) ∧
    (D.ack.length < 16 → s.accepts = true → D.fifo.length < 16 → exec (.setcQserai a) s =
      .next (((s.enqueueLaunch s.myDie .queue v (some (s.cur, s.me.flow.bun))).1.modDie s.myDie fun y =>
        { y with ack := y.ack ++ [graphHandle .queue s.myDie D.seqQueue], queueAt := some s.now }).modMe Core.retired)) ∧
    (D.ack.length < 16 → s.accepts = false → exec (.setcQserai a) s = .next ((s.modDie s.myDie fun y =>
      { y with ack := y.ack ++ [BitVec.allOnes 64], queueAt := some s.now }).modMe Core.retired)) ∧
    (D.qmsg.length < 64 → exec (.setcQmsg a) s =
      .next ((s.modDie s.myDie fun y => { y with qmsg := y.qmsg ++ [v] }).modMe Core.retired)) ∧
    (D.payDiscard.qerr.length < 256 → exec (.setcQerr a) s =
      .next ((s.modDieMsix s.myDie fun y => { y.payDiscard with qerr := y.payDiscard.qerr ++ [v] }).modMe Core.retired)) ∧
    (256 ≤ D.d2h.length ∨ (D.posts ≠ [] ∧ D.d2h.length ≤ 253) → waits (.setcQhost a) 0xF00) ∧ (16 ≤ D.ack.length → waits (.setcQserai a) 0xF01) ∧
    (s.accepts = true → 16 ≤ D.fifo.length → waits (.setcQserai a) 0xF01) ∧
    (64 ≤ D.qmsg.length → waits (.setcQmsg a) 0xF02) ∧ (256 ≤ D.payDiscard.qerr.length → waits (.setcQerr a) 0xF03)

/-- R166, R404, R405: TRAP and BRK complete their bundle, and the core then takes cause 0x21 or 0x20 at the next one, with CTL.REPLAY
clear.
Completion is stated of: trap, brk. -/
def Claims.TrapAndBreakpointEnterAfterTheirBundle : Prop :=
  ∀ (s : State) (i : BitVec 8), s.Ready → s.MayTrap →
    let next := (s.me.flow.pc + 1).setWidth 47
    exec (.trap i) s = .next (s.modMe fun x => x.retired.intoHandler 9 ⟨0x21, i.setWidth 64⟩ next 0) ∧
    exec (.brk i) s = .next (s.modMe fun x => x.retired.intoHandler 9 ⟨0x20, i.setWidth 64⟩ next 0)

/-- R228, R405: what taking a cause does: the trap registers, what is saved, what is withdrawn, and where the handler starts. Rows in the buffers of
read streams are discarded, and those bindings stay. Everything else that the handler shares with the interrupted context is as it was. -/
def Claims.TrapEntrySavesAndEnters : Prop :=
  ∀ (s : State) (slot : Nat) (t : Trap) (pc : BitVec 47) (replay : BitVec 16), s.MayTrap → slot ≤ 10 →
    ∃ y : Core, s.enterTrap s.cur slot t pc replay = s.modMe (fun _ => y) ∧
      let x := s.me
      y.ctl.trapCause.toNat = 256 * slot + t.code.toNat ∧ y.ctl.trapPc = pc ∧ y.ctl.trapAddr = t.addr ∧ y.ctl.replay = replay ∧
      y.ctl.handler = true ∧ y.ctl.priv = true ∧ y.ctl.lockN = 0 ∧
      y.flow.pc.toNat = x.ctl.trapVec.toNat / 32 % 2 ^ 47 ∧ y.flow.count = 0 ∧ (∀ l : Fin 4, (y.flow.loops.get l).act = false) ∧
      y.flow.pending = [] ∧
      (∃ v : TrapSave, y.flow.save = some v ∧ v.count = x.flow.count ∧ v.loops = x.flow.loops ∧ v.lc = x.regs.lc ∧
        v.lockN = x.ctl.lockN ∧ v.lockP = x.ctl.lockP ∧ v.rnd = x.ctl.rndCount ∧ v.pending = x.flow.pending) ∧
      y.flow.power = none ∧ y.flow.sleepArmed = false ∧ y.flow.monitor = none ∧ y.flow.arrived = none ∧ (∀ n, y.mat.lease ≠ .wait n) ∧
      y.ctl.lockP = 0 ∧
      { y.ctl with trapCause := x.ctl.trapCause, trapPc := x.ctl.trapPc, trapAddr := x.ctl.trapAddr, replay := x.ctl.replay
                   handler := x.ctl.handler, priv := x.ctl.priv, lockN := x.ctl.lockN, lockP := x.ctl.lockP } = x.ctl ∧
      y.flow.signal = x.flow.signal ∧ y.flow.causes = x.flow.causes ∧ y.flow.bun = x.flow.bun ∧ y.flow.nextId = x.flow.nextId ∧
      y.regs = x.regs ∧ { y.mem with cn := x.mem.cn, streams := x.mem.streams } = x.mem ∧
      y.mem.streams = (x.mem.streams.map fun p => (p.1, if p.2.write then p.2 else { p.2 with done := p.2.pos })) ∧
      { y.mat with lease := x.mat.lease } = x.mat ∧ (x.mat.lease = .idle → y.mat.lease = .idle) ∧
      (∀ n a b, x.mat.lease = .held n a b → y.mat.lease = .held n a b) ∧ y.run = x.run ∧ y.perf = x.perf

/-- TRAP and BRK after their bundle; what taking a trap saves and where it goes. -/
def Obligations.TrapsAreTaken : Prop :=
  Claims.TrapAndBreakpointEnterAfterTheirBundle ∧ Claims.TrapEntrySavesAndEnters

/-- R167, R407: ERET restores the interrupted context, at CTL.TRAPPC and with CTL.REPLAY as they stand.
Completion is stated of: eret. -/
def Claims.EretRestoresTheInterruptedContext : Prop :=
  ∀ (s : State) (v : TrapSave), s.Ready → s.me.ctl.priv = true → s.me.flow.save = some v →
    ∃ y : Core, exec .eret s = .next (s.modMe fun _ => y) ∧
      let x := s.me
      y.ctl.handler = false ∧ y.ctl.priv = false ∧ y.flow.count = v.count ∧ y.flow.loops = v.loops ∧ y.regs.lc = v.lc ∧
      y.ctl.lockN = v.lockN ∧ y.ctl.lockP = v.lockP ∧ y.ctl.rndCount = v.rnd ∧ y.flow.pending = v.pending ∧
      y.flow.pc = x.ctl.trapPc.setWidth 59 ∧ y.flow.redo = x.ctl.replay ∧ y.flow.synced = x.ctl.replay.getLsbD 0 ∧
      y.flow.save = none ∧ { y.regs with lc := x.regs.lc } = x.regs ∧ y.mem = x.mem ∧ y.mat = x.mat ∧ y.run = x.run ∧
      y.ctl.trapPc = x.ctl.trapPc ∧ y.ctl.replay = x.ctl.replay ∧ y.ctl.asid = x.ctl.asid

/-- R167, R168, R466: outside a handler ERET takes the privilege trap; inside one HALT takes the illegal-instruction trap, and as any
fault of a handler it kills the node and is logged. -/
def Claims.EretAndHaltInTheWrongPlaceTrap : Prop :=
  ∀ s : State, s.Ready →
    (s.MayTrap → s.me.ctl.priv = false → exec .eret s = .next (s.modMe (·.refused 1 ⟨0x05, 0⟩))) ∧
    (s.me.ctl.handler = true → s.inPhase s.cur = false →
      exec .halt s = .next (((s.modMe Core.withdraw).logError s.myDie 0x62
        [handlerFault 0x02 s.me.flow.trapPc]).killCore s.cur))

/-- R168, R300: HALT ends the slice: nothing more issues, and a lease ends. NOP, VNOP, MNOP, CNOP and ANOP do nothing.
Completion is stated of: nop, halt, vnop, mnop, cnop, anop. -/
def Claims.HaltEndsTheSliceAndNopsDoNothing : Prop :=
  ∀ s : State, s.Ready →
    (s.me.ctl.handler = false → exec .halt s = .next (s.modMe fun x =>
      { x.retired with run := x.run.map fun r => { r with halted := true }, mat := { x.mat with lease := .idle } })) ∧
    ∀ i ∈ [Instr.nop, .vnop, .mnop, .cnop, .anop], exec i s = .next (s.modMe Core.retired)

/-- ERET restores the interrupted context; ERET and HALT in the wrong place; HALT and the empty words. -/
def Obligations.ReturnsAndHalts : Prop :=
  Claims.EretRestoresTheInterruptedContext ∧ Claims.EretAndHaltInTheWrongPlaceTrap ∧ Claims.HaltEndsTheSliceAndNopsDoNothing

/-- R169, R170, R365, R420: SLEEP reaches issue, arms its monitor once with the only translation of its address, and completes with the reason that
holds: a signal, which it clears and which is an acquire, the line, the deadline; else it freezes. A page that may not be read is its fault;
the alignment of the address is none. A maintenance slot that holds the walk holds the bundle.
Completion is stated of: sleep. -/
def Claims.SleepReturnsItsReasonOrFreezes : Prop :=
  ∀ (s : State) (d a b : BitVec 5), s.Ready → s.me.flow.sleepWoken = none → s.me.flow.sleepFault = none →
    let f := s.me.flow
    let va := s.sReg b
    let i := Instr.sleep d a b
    let armed := va = 0 ∨ f.sleepArmed = true
    let watched := match f.monitor with | some (_, hit) => hit | none => false
    let later := s.sReg a = 0 ∨ s.now < (s.sReg a).toNat
    (armed →
      (f.signal = true → exec i s =
        .next (((s.modMe fun x => x.modFlow fun f => { f with signal := false }).clearCache (clusterOf s.cur)).scalarNow d 1)) ∧
      (f.signal = false → watched = true → exec i s = .next (s.scalarNow d 2)) ∧
      (f.signal = false → watched = false → ¬ later → exec i s = .next (s.scalarNow d 0)) ∧
      (f.signal = false → watched = false → later →
        exec i s = .next (s.modMe fun x => (x.held .sleep).modFlow fun f => { f with sleepArmed := true }))) ∧
    (¬ armed → s.mayWalk va = false → exec i s = .next (s.modMe (·.held .walk))) ∧
    (¬ armed → s.mayWalk va = true →
      (∀ t ∈ s.pageTrap? .read va 8, s.MayTrap → exec i s = .next ((s.walked .read va 8).modMe (·.faulted 1 t))) ∧
      ∀ p ∈ s.page? .read va 8,
        let u := s.walked .read va 8
        (f.signal = true → exec i s =
          .next (((u.modMe fun x => x.modFlow fun f => { f with signal := false }).clearCache (clusterOf s.cur)).scalarNow d 1)) ∧
        (f.signal = false → ¬ later → exec i s = .next (u.scalarNow d 0)) ∧
        (f.signal = false → later → exec i s = .next (u.modMe fun x => (x.held .sleep).modFlow fun f =>
          { f with sleepArmed := true, monitor := some (p.2 / 128, false) })))

/-- R170: SIGNAL sends a message to the core of the gang that its registers name, and is discarded where there is none.
Completion is stated of: signal. -/
def Claims.SignalIsSentWithinItsNode : Prop :=
  ∀ (s : State) (a b : BitVec 5) (r : Run), s.Ready → s.me.run = some r →
    let k := (s.sReg a).toNat
    let g := (s.sReg b).toNat
    (k < r.g → g < r.d → exec (.signal a b) s =
      .next (({ s with signals := s.signals ++ [⟨s.cur, s.me.flow.bun, r.node, g, k⟩] } : State).modMe Core.retired)) ∧
    (r.g ≤ k ∨ r.d ≤ g → exec (.signal a b) s = .next (s.modMe Core.retired))

/-- R169, R170, R174: a frozen SLEEP notes the signal or the write that ends it; a signal whose sender's earlier accesses are performed sets the
bit of its target, in the context that runs or in the one that is saved, and is discarded where there is none; a frozen PWRACQ is granted
its class when the die's budget allows it. A target that a commit has placed again and whose context is not restored yet takes the signal
in its saved context.
Completion is stated of: sleepWake, classGrant, signalDelivery. -/
def Claims.CoresAreWokenAndGranted : Prop :=
  ∀ (s : State) (c i : Nat) (m : SignalMsg),
    let f := (s.core c).flow
    let written : Bool := match f.monitor with | some (_, hit) => hit | none => false
    let wakes (r : Option Nat) : Prop := exec (.sleepWake c) s = .next (s.modCore c fun x => x.modFlow fun w => { w with sleepWoken := r })
    let t : State := { s with signals := s.signals.eraseIdx i }
    let target (r : Run) : Bool := r.node == m.node && r.gang == m.gang && r.core == m.target && !(r.halted && r.last) && !r.restore
    let aims (x : Core) : Bool := match x.run with | some r => target r | none => false
    let found := s.cores.find? fun p => aims p.2
    let sent (x : Core) : Core := x.modFlow fun w => { w with signal := true }
    let older := ((s.core m.core).mem.memq.any fun e => decide (e.bun < m.bun)) || s.releaseWaits m.core m.bun
    (f.frozen = some .sleep → f.sleepWoken = none → wakes (if f.signal = true then some 1 else if written = true then some 2 else none)) ∧
    (f.frozen ≠ some .sleep ∨ f.sleepWoken ≠ none → exec (.sleepWake c) s = .next s) ∧
    (s.signals[i]? = some m → older = true → exec (.signalDelivery i) s = .next s) ∧
    (s.signals[i]? = some m → older = false →
      (∀ p ∈ found, exec (.signalDelivery i) s = .next (t.modCore p.1 sent)) ∧
      (found = none → exec (.signalDelivery i) s = .next (t.modNode m.node fun n =>
        { n with saved := n.saved.map fun v =>
            if v.gang = m.gang ∧ v.core = m.target ∧ ∀ r ∈ v.ctx.run, ¬ (r.halted = true ∧ r.last = true) then { v with ctx := sent v.ctx }
            else v }))) ∧
    (f.power = none → exec (.classGrant c) s = .next s) ∧
    (∀ k ∈ f.power,
      let own := (s.core c).ctl.cls
      let g := (s.die (dieOf c)).grant
      let granted := k ≤ own ∨ g.fsafe = false ∧ s.classesHeld (dieOf c) - own.toNat + k.toNat ≤ g.budget
      (granted → exec (.classGrant c) s = .next (s.modCore c fun x =>
        (x.modCtl fun u => { u with cls := k }).modFlow fun w => { w with power := none })) ∧
      (¬ granted → exec (.classGrant c) s = .next s))

/-- SLEEP and SIGNAL, the waking of sleepers, signals and class requests granted. -/
def Obligations.SleepSignalAndWaking : Prop :=
  Claims.SleepReturnsItsReasonOrFreezes ∧ Claims.SignalIsSentWithinItsNode ∧ Claims.CoresAreWokenAndGranted

/-- R93, R131, R133, R171 to R173, R175: the readings of time, place and power.
Completion is stated of: time, cycle, slotq, who, pwrq. -/
def Claims.TimeAndPlaceReadings : Prop :=
  ∀ (s : State) (d : BitVec 5) (sel : BitVec 8) (r : Run), s.Ready → s.me.run = some r →
    let gives (i : Instr) (v : Nat) : Prop := exec i s = .next (s.scalarNow d (BitVec.ofNat 64 v))
    let k := s.calendar.nextSlot
    let D := s.die s.myDie
    let top := (List.range 8).foldl (fun b c => if s.grantsClass s.cur (BitVec.ofNat 3 c) then c else b) 0
    gives (.time d) s.now ∧ gives (.cycle d) s.me.flow.count.toNat ∧
    (sel = 0 → gives (.slotq d sel) (2560 * k)) ∧ (sel = 1 → gives (.slotq d sel) (if k % 1024 = 0 then 4096 else 128)) ∧
    (sel = 2 → gives (.slotq d sel) (if k % 1024 = 0 then 1 else 0)) ∧
    (sel = 3 → gives (.slotq d sel) (2560 * ((k + 1023) / 1024 * 1024))) ∧
    (sel = 4 → gives (.slotq d sel) (if s.calendar.now.isSome then 1 else 0)) ∧
    (sel = 0 → gives (.who d sel) r.slice) ∧ (sel = 1 → gives (.who d sel) r.ord) ∧ (sel = 2 → gives (.who d sel) r.core) ∧
    (sel = 3 → gives (.who d sel) r.gang) ∧ (sel = 4 → gives (.who d sel) r.g) ∧ (sel = 5 → gives (.who d sel) r.d) ∧
    (sel = 6 → gives (.who d sel) (s.cur % 512)) ∧ (sel = 7 → gives (.who d sel) (s.cur / 512)) ∧
    (sel = 8 → gives (.who d sel) s.domMod.toNat) ∧
    gives (.pwrq d) (top * 2 ^ 16 + (if D.grant.fsafe then 2 ^ 11 else 0) + D.opcap.toNat * 2 ^ 8 + s.me.ctl.cls.toNat)

/-- R155, R174: PWRACQ of a class not above the one held takes it; a higher one freezes the bundle until the die grants it. PWRREL
gives the class up.
Completion is stated of: pwracq, pwrrel. -/
def Claims.PowerClassRequests : Prop :=
  ∀ (s : State) (a : BitVec 5), s.Ready →
    let c : BitVec 3 := (s.sReg a).setWidth 3
    (c ≤ s.me.ctl.cls → exec (.pwracq a) s = .next (s.modMe fun x => x.retired.modCtl fun t => { t with cls := c })) ∧
    (¬ c ≤ s.me.ctl.cls → exec (.pwracq a) s =
      .next (s.modMe fun x => (x.held .power).modFlow fun f => { f with power := some c })) ∧
    exec .pwrrel s = .next (s.modMe fun x => x.retired.modCtl fun t => { t with cls := 0 })

/-- TIME, WHO and the other readings; PWRACQ and PWRREL. -/
def Obligations.ReadingsAndPowerClasses : Prop :=
  Claims.TimeAndPlaceReadings ∧ Claims.PowerClassRequests

/-- R66, R68, R71, R139, R176: SPAWN completes: its launch word, under the core's address-space number, goes to the serai of its die, whose next
cycle answers.
Completion is stated of: spawn. -/
def Claims.SpawnAsksForALaunch : Prop :=
  ∀ (s : State) (d a : BitVec 5), s.Ready →
    exec (.spawn d a) s = .next (s.asking d s.myDie
      (.launch (BitVec.ofNat 64 (s.me.ctl.asid.toNat * 2 ^ 52 + (s.sReg a).toNat % 2 ^ 52)) s.me.flow.bun))

/-- R66, R68, R71: the serai enters a core's launch into the FIFO of its die and answers with its handle; with the FIFO full, or where no
graph is accepted, it answers all ones. -/
def Claims.SpawnsAreServed : Prop :=
  ∀ (s : State) (d : Nat) (a : Ask) (w : Word) (bun : Nat), d < 8 → a.kind = .launch w bun →
    let D := s.die d
    let handle : Word := BitVec.ofNat 64 (2 ^ 35 + d * 2 ^ 32 + D.seqSpawn.toNat)
    (s.launchRoom d = true → State.serveSpawn d s a = (s.modDie d fun y =>
      { y with seqSpawn := y.seqSpawn + 1, fifo := y.fifo ++ [⟨w, handle, some (a.core, bun)⟩] }).answer a handle) ∧
    (s.launchRoom d = false → State.serveSpawn d s a = s.answer a (BitVec.allOnes 64))

/-- R68, R80, R139, R177: CANCEL and NODEST complete: the request goes to the serai of the die that the handle names, with the low twelve bits of
the index, and its next cycle answers.
Completion is stated of: cancel, nodest. -/
def Claims.CancelAndNodestAskTheSerai : Prop :=
  ∀ (s : State) (d a b : BitVec 5), s.Ready →
    let h := s.sReg a
    let die := h.toNat / 2 ^ 32 % 8
    exec (.cancel d a b) s = .next (s.asking d die (.cancel h ((s.sReg b).toNat % 2 ^ 12))) ∧
    exec (.nodest d a b) s = .next (s.asking d die (.query h ((s.sReg b).toNat % 2 ^ 12)))

/-- R75, R80, R81, R82, R177: what a cancel and a query of a core answer, by the state of the node that they name: 15 where the core may not name it,
or there is none, or its graph has been final for more than 100,000 ticks. A node that was WAITING, READY or RESERVING becomes CANCELLED and
the code is 0; where another node that the cancels of the cycle name (`roots`, as they found it in `s0`) was WAITING, READY or RESERVING and
reaches it through successors, the code is 3. Each query of a list is answered by the state that the cycle has left, whatever stands before
it: the queries come last (SeraiCyclesGoInOrder). Two cancels that reach each other's node both answer 3 (log entry 62). -/
def Claims.CancelsAndQueriesAreAnswered : Prop :=
  ∀ (s0 s : State) (roots : List Nat) (d : Nat) (a : Ask) (h : Word) (idx : Nat),
    let named (a : Ask) (h : Word) (idx : Nat) : Option Node := match s.graph? h with
      | some g =>
        if h.toNat < 2 ^ 37 ∧ idx < g.nnodes ∧ (∀ o ∈ a.own, o = g.asn) ∧ (∀ t ∈ g.finalAt, s.now ≤ t + 100000) then s.nodeAt h idx else none
      | none => none
    let cancels (t : State) (v : Nat) : Prop := State.serveCancel s0 roots d s a = t.answer a (BitVec.ofNat 64 v)
    let open_ : List NodeState := [.waiting, .ready, .reserving]
    let reached (n : Node) : Prop := ∃ r ∈ roots, r ≠ n.id ∧ ∃ m ∈ s0.node? r, m.state ∈ open_ ∧
      ∃ L, s0.Spreads [r] L ∧ n.id ∈ L
    (a.kind = .cancel h idx → s0.Numbered →
      (named a h idx = none → cancels s 15) ∧
      ∀ n, named a h idx = some n →
        let code (v : Nat) : Nat → Prop := fun c => (reached n → c = 3) ∧ (¬ reached n → c = v)
        (n.state ∈ [.running, .preempted, .retiring] → ∀ c, code 1 c → cancels s c) ∧ (n.state = .done → ∀ c, code 2 c → cancels s c) ∧
        (n.state ∈ [.cancelled, .killed, .rejected] → cancels s 3) ∧
        (n.state ∈ open_ → s.node? n.id = some n → ∀ c, code 0 c → ∃ u : State, cancels u c ∧
          u.cores = s.cores ∧ u.clusters = s.clusters ∧ u.hbm = s.hbm ∧ ∃ m, u.node? n.id = some m ∧ m.state = .cancelled)) ∧
    ((∀ q ∈ (s.die d).asks, ∃ h i, q.kind = .query h i) →
      s.serveQueries d = (s.die d).asks.foldl (fun t q => t.answer q (match q.kind with
        | .query h i => match named q h i with
          | none => 15
          | some n => match n.state with
            | .waiting => 0 | .ready => 1 | .reserving => 2 | .running => 3 | .preempted => 4 | .retiring => 5 | .done => 6
            | .cancelled => 7 | .killed => 8 | .rejected => 9
        | _ => 0)) (s.modDie d fun x => { x with asks := [] }))

/-- SPAWN, CANCEL and NODEST: their requests to the serai, and its answers. -/
def Obligations.SpawnCancelAndNodeStates : Prop :=
  Claims.SpawnAsksForALaunch ∧ Claims.SpawnsAreServed ∧ Claims.CancelAndNodestAskTheSerai ∧ Claims.CancelsAndQueriesAreAnswered

/-- R106, R108, R144 to R146, R185, R217: what a row operand is: a tile row with its register's tag, a row chosen by a loop counter,
an operand register, a latch, the head row of a stream as its storage stands, and LS, whose register every element repeats. -/
def Obligations.RowOperandsReadAsNamed : Prop :=
  ∀ (s : State) (t : Tag) (n : BitVec 7) (T : BitVec 4) (l : BitVec 2) (o q : BitVec 3),
    let r := s.me.regs
    let ls := r.ls.toNat
    (s.rowBits t (.t n) = r.t.get n.toFin ∧ s.me.rowTag (.t n) = r.tTag.get (Fin.ofNat 16 (n.toNat / 8))) ∧
    (s.rowBits t (.tl T l) = r.t.get (Fin.ofNat 128 (8 * T.toNat + (r.lc.get l.toFin).toNat % 8)) ∧
      s.me.rowTag (.tl T l) = r.tTag.get T.toFin) ∧
    (s.rowBits t (.o o) = (r.o.get o.toFin).bits ∧ s.me.rowTag (.o o) = (r.o.get o.toFin).tag) ∧
    (∀ p ∈ [(Latch.LV0, r.lv0), (.LV1, r.lv1), (.LC0, r.lc0), (.LC1, r.lc1), (.LM, r.lm)],
      s.rowBits t (.latch p.1) = p.2.bits ∧ s.me.rowTag (.latch p.1) = p.2.tag) ∧
    (s.me.rowTag (.latch .LS) = .FP32 ∧ ∀ j < tagCount t, t ≠ .BX4 →
      elem (tagBits t) (s.rowBits t (.latch .LS)) j =
        if tagInt t then ls % 2 ^ tagBits t
        else if t = .FP32 then ls % 2 ^ 32
        else roundVal (tagFmt t) .rne 0 false (decodeFloat fp32 (ls % 2 ^ 32))) ∧
    ∀ b : Stream, s.me.stream? q = some b → s.me.rowTag (.q q) = b.tag ∧
      ∀ w, b.shape = .row w → ∀ i < 512, elem 8 (s.rowBits t (.q q)) i =
        if i < widthBytes w then
          (let a := b.offset b.pos + i
           if b.space then s.sramByte (clusterOf s.cur) a else s.spadByte s.cur a).toNat
        else 0

/-- R195, R196, R213: two-source arithmetic, element by element: floats exact and rounded once to nearest even, integers wrapped in
their tag's view, the saturating forms clamped.
Completion is stated of: vadd, vsub, vmul, vfma, vmin, vmax, vadds, vsubs, vmulh, vdiv. -/
def Claims.VectorArithmeticResults : Prop :=
  ∀ (s : State) (D A B : RowOp) (g : BitVec 2), s.Ready → s.Reads A → s.Reads B → s.Writes D → s.SameTags A B →
    let t := s.me.viewTag A (some B)
    s.Guardable g D t t →
    let a (j : Nat) : Nat := elem (tagBits t) (s.rowBits t A) j
    let b (j : Nat) : Nat := elem (tagBits t) (s.rowBits t B) j
    let d (j : Nat) : Nat := elem (tagBits t) (s.rowBits t D) j
    let F (c : Nat) : Val := decodeFloat (tagFmt t) c
    let N (c : Nat) : Int := intVal t c
    let gives (i : Instr) (left : Nat) (f : Nat → Nat) : Prop := s.GivesRow i left g D t (tagCount t) (tagBits t) f
    let floats (i : Instr) (left : Nat) (f : Val → Val → Val) : Prop := gives i left fun j => rne (tagFmt t) (f (F (a j)) (F (b j)))
    let ints (i : Instr) (left : Nat) (f : Int → Int → Int) : Prop := gives i left fun j => (f (N (a j)) (N (b j)) % 2 ^ tagBits t).toNat
    let clamped (x : Int) : Int := Max.max (intMin t) (Min.min (intMax t) x)
    (t ∈ [.FP32, .BF16, .FP16] →
      floats (.vadd D A B g) 1 (valAdd false) ∧ floats (.vsub D A B g) 1 (fun x y => valAdd false x (valNeg y)) ∧
      floats (.vmul D A B g) 3 valMul ∧ floats (.vmin D A B g) 1 valMin ∧ floats (.vmax D A B g) 1 valMax ∧
      floats (.vdiv D A B g) 17 valDiv ∧
      ((∀ q, D ≠ .q q) → s.me.destTag D = t →
        gives (.vfma D A B g) 3 fun j => rne (tagFmt t) (valAdd false (valMul (F (a j)) (F (b j))) (F (d j))))) ∧
    (tagInt t = true →
      ints (.vadd D A B g) 1 (· + ·) ∧ ints (.vsub D A B g) 1 (· - ·) ∧ ints (.vmul D A B g) 3 (· * ·) ∧
      ints (.vmin D A B g) 1 Min.min ∧ ints (.vmax D A B g) 1 Max.max ∧
      ints (.vadds D A B g) 1 (fun x y => clamped (x + y)) ∧ ints (.vsubs D A B g) 1 (fun x y => clamped (x - y)) ∧
      ints (.vmulh D A B g) 3 (fun x y => x * y / 2 ^ tagBits t) ∧
      ((∀ q, D ≠ .q q) → s.me.destTag D = t →
        gives (.vfma D A B g) 3 fun j => ((N (d j) + N (a j) * N (b j)) % 2 ^ tagBits t).toNat))

/-- R195 to R197: absolute value and negation, bitwise logic on whole rows, and shifts by the count in B modulo the width.
Completion is stated of: vabs, vneg, vand, vor, vxor, vnot, vshl, vshr, vsar. -/
def Claims.VectorLogicShiftAndUnaryResults : Prop :=
  ∀ (s : State) (D A B : RowOp) (g : BitVec 2), s.Ready → s.Reads A → s.Reads B → s.Writes D →
    let u := s.me.viewTag A none
    let t := s.me.viewTag A (some B)
    let x (j : Nat) : Nat := elem (tagBits u) (s.rowBits u A) j
    let a (j : Nat) : Nat := elem (tagBits t) (s.rowBits t A) j
    let b (j : Nat) : Nat := elem (tagBits t) (s.rowBits t B) j
    let one (i : Instr) (f : Nat → Nat) : Prop := s.GivesRow i 1 g D u (tagCount u) (tagBits u) f
    let two (i : Instr) (f : Nat → Nat) : Prop := s.GivesRow i 1 g D t (tagCount t) (tagBits t) f
    let k (j : Nat) : Nat := b j % tagBits t
    (s.Guardable g D u u → u ∈ [.FP32, .BF16, .FP16] →
      one (.vabs D A g) (fun j => rne (tagFmt u) (valAbs (decodeFloat (tagFmt u) (x j)))) ∧
      one (.vneg D A g) (fun j => rne (tagFmt u) (valNeg (decodeFloat (tagFmt u) (x j))))) ∧
    (s.Guardable g D u u → tagInt u = true →
      one (.vabs D A g) (fun j => ((intVal u (x j)).natAbs : Nat) % 2 ^ tagBits u) ∧
      one (.vneg D A g) (fun j => (-(intVal u (x j)) % 2 ^ tagBits u).toNat)) ∧
    (s.Guardable g D u u → u ≠ .EMPTY →
      (u ≠ .BX4 → one (.vnot D A g) fun j => 2 ^ tagBits u - 1 - x j) ∧
      (g = 0 →
        exec (.vnot D A g) s = .next (s.rowLater 2 1 D (~~~(s.rowBits u A)) u))) ∧
    (s.Guardable g D t t → s.SameTags A B → t ≠ .EMPTY →
      (t ≠ .BX4 → two (.vand D A B g) (fun j => a j &&& b j) ∧ two (.vor D A B g) (fun j => a j ||| b j) ∧
        two (.vxor D A B g) (fun j => a j ^^^ b j)) ∧
      (g = 0 → (t = .BX4 → isLs A = false ∧ isLs B = false) →
        exec (.vand D A B g) s = .next (s.rowLater 2 1 D (s.rowBits t A &&& s.rowBits t B) t) ∧
        exec (.vor D A B g) s = .next (s.rowLater 2 1 D (s.rowBits t A ||| s.rowBits t B) t) ∧
        exec (.vxor D A B g) s = .next (s.rowLater 2 1 D (s.rowBits t A ^^^ s.rowBits t B) t))) ∧
    (s.Guardable g D t t → s.SameTags A B → tagInt t = true →
      two (.vshl D A B g) (fun j => a j * 2 ^ k j) ∧ two (.vshr D A B g) (fun j => a j / 2 ^ k j) ∧
      two (.vsar D A B g) (fun j => ((if a j < 2 ^ (tagBits t - 1) then (a j : Int) else a j - 2 ^ tagBits t) / 2 ^ k j
        % 2 ^ tagBits t).toNat))

/-- Vector arithmetic, logic, shifts and unary instructions, element by element. -/
def Obligations.VectorArithmeticAndLogic : Prop :=
  Claims.VectorArithmeticResults ∧ Claims.VectorLogicShiftAndUnaryResults

/-- R191, R198 to R200: compares set the bits of each element, selection takes zero where its predicate is off, and predicate
logic works bit by bit; where the guard is off, the old bits stay.
Completion is stated of: vcmp, vsel, pand, por, pxor, pnot. -/
def Obligations.CompareSelectAndPredicateResults : Prop :=
  ∀ (s : State) (c : FCond) (D A B : RowOp) (pd pa pb ps g : BitVec 2), s.Ready → s.Reads A → s.Reads B →
    let t := s.me.viewTag A (some B)
    let u := s.me.viewTag A none
    let F (X : RowOp) (j : Nat) : Val := decodeFloat (tagFmt t) (elem (tagBits t) (s.rowBits t X) j)
    let N (X : RowOp) (j : Nat) : Int := intVal t (elem (tagBits t) (s.rowBits t X) j)
    let P (n : BitVec 2) : Pred := s.me.regs.pReg n
    let logic (i : Instr) (f : Nat → Bool) : Prop := s.GivesPred i g pd 1024 f
    (pd ≠ 0 → s.SameTags A B → t ∈ [.FP32, .BF16, .FP16] →
      s.GivesPred (.vcmp c pd A B g) g pd (tagCount t) fun j => valCmp c (F A j) (F B j)) ∧
    (pd ≠ 0 → s.SameTags A B → tagInt t = true →
      s.GivesPred (.vcmp c pd A B g) g pd (tagCount t) fun j => match c with
        | .eq => N A j == N B j
        | .ne => N A j != N B j
        | .lt => decide (N A j < N B j)
        | .le => decide (N A j ≤ N B j)
        | .gt => decide (N B j < N A j)
        | .ge => decide (N B j ≤ N A j)
        | .un => false
        | .ord => true) ∧
    (s.Writes D → s.Guardable g D u u → u ≠ .EMPTY → u ≠ .BX4 →
      s.GivesRow (.vsel D A ps g) 1 g D u (tagCount u) (tagBits u) fun j =>
        if (P ps).getLsbD (j * (1024 / tagCount u)) then elem (tagBits u) (s.rowBits u A) j else 0) ∧
    (pd ≠ 0 →
      logic (.pand pd pa pb g) (fun j => (P pa).getLsbD j && (P pb).getLsbD j) ∧
      logic (.por pd pa pb g) (fun j => (P pa).getLsbD j || (P pb).getLsbD j) ∧
      logic (.pxor pd pa pb g) (fun j => (P pa).getLsbD j != (P pb).getLsbD j) ∧
      logic (.pnot pd pa g) (fun j => !(P pa).getLsbD j))

/-- R203, R208 to R210: the moves: a row copied, retagged, one element repeated, a signed constant, shuffles, slides, extracts and
gathers.
Completion is stated of: vsettag, vbcast, vperm, vshuf, vslide, vmov, vsplat, vext. -/
def Obligations.VectorMoveResults : Prop :=
  ∀ (s : State) (D A B : RowOp) (g : BitVec 2) (m k : BitVec 8) (tag : Tag) (kind : Shuffle),
    s.Ready → s.Reads A → s.Reads B → s.Writes D →
    let u := s.me.viewTag A none
    let t := s.me.viewTag A (some B)
    let n := tagCount u
    let x (j : Nat) : Nat := elem (tagBits u) (s.rowBits u A) j
    let a (j : Nat) : Nat := elem (tagBits t) (s.rowBits t A) j
    let b (j : Nat) : Nat := elem (tagBits t) (s.rowBits t B) j
    let one (i : Instr) (left : Nat) (f : Nat → Nat) : Prop := s.GivesRow i left g D u n (tagBits u) f
    (g = 0 → u ≠ .EMPTY → exec (.vmov D A g) s = .next (s.rowLater 2 1 D (s.rowBits u A) u) ∧
      (tag ≠ .EMPTY → exec (.vsettag D A tag g) s = .next (s.rowLater 2 1 D (s.rowBits u A) tag))) ∧
    (s.Guardable g D u tag → u ≠ .EMPTY → u ≠ .BX4 → tag ≠ .EMPTY → tag ≠ .BX4 →
      s.GivesRow (.vsettag D A tag g) 1 g D tag n (tagBits u) x) ∧
    (s.Guardable g D u u → u ≠ .EMPTY → u ≠ .BX4 →
      one (.vmov D A g) 1 x ∧
      (m.toNat < n → one (.vbcast D A m g) 1 fun _ => x m.toNat) ∧
      one (.vshuf D A kind g) 2 (fun j => x (match kind with
        | .rev => n - 1 - j
        | .unzip => if j < n / 2 then 2 * j else 2 * (j - n / 2) + 1
        | .zip => if j % 2 = 0 then j / 2 else n / 2 + (j - 1) / 2
        | .swap => if j % 2 = 0 then j + 1 else j - 1)) ∧
      one (.vslide D A k g) 2 fun j => if 0 ≤ (j : Int) + k.toInt ∧ (j : Int) + k.toInt < n then x ((j : Int) + k.toInt).toNat else 0) ∧
    (s.Guardable g D tag tag → tag ≠ .EMPTY → tag ≠ .BX4 →
      s.GivesRow (.vsplat D tag m g) 1 g D tag (tagCount tag) (tagBits tag) fun _ =>
        if tagInt tag then (Max.max (intMin tag) (Min.min (intMax tag) m.toInt) % 2 ^ tagBits tag).toNat
        else roundVal (tagFmt tag) .rne 0 true (.fin (decide (m.toInt < 0)) m.toInt.natAbs 0)) ∧
    (s.Guardable g D t t → s.SameTags A B → t ≠ .EMPTY → t ≠ .BX4 →
      s.GivesRow (.vext D A B g) 2 g D t (tagCount t) (tagBits t) fun j =>
        if j < tagCount t / 2 then a (j + tagCount t / 2) else b (j - tagCount t / 2)) ∧
    (s.Guardable g D t t → t ∈ [.I8, .N8, .I16, .N16, .I32, .N32, .FP32, .BF16, .FP16, .E4M3, .E5M2] →
      (if isLs A = true ∨ isLs B = true then t else s.me.rowTag B) = (if tagBits t = 8 then .N8 else if tagBits t = 16 then .N16 else .N32) →
      s.GivesRow (.vperm D A B g) 2 g D t (tagCount t) (tagBits t) fun j =>
        a (if tagCount t = 512 then j / 256 * 256 + b j else b j % tagCount t))

/-- R191, R201, R202, R41: conversions of rows of one element size, to a pair or a quad of rows, and back; the counter of stochastic
rounding advances by the elements converted.
Completion is stated of: vcvt, vwid, vnar. -/
def Claims.VectorConversionResults : Prop :=
  ∀ (s : State) (D A : RowOp) (tgt : Tag) (rm : RMode) (sat : Bool) (g : BitVec 2) (r : BitVec 7) (k : Nat), s.Ready → s.Reads A →
    let u := s.me.viewTag A none
    let cv (j c : Nat) : Nat := convert u tgt rm (s.rnd j) sat c
    let x (j : Nat) : Nat := elem (tagBits u) (s.rowBits u A) j
    let whole (i : Instr) (n : Nat) (f : Nat → Nat) : Prop := s.ConvertsRow i rm g D tgt n f
    u ≠ .EMPTY → u ≠ .BX4 → tgt ≠ .EMPTY → tgt ≠ .BX4 → s.Guardable g D u tgt →
    (tagBits u = tagBits tgt → s.Writes D → whole (.vcvt D A tgt rm sat g) (tagCount u) fun j => cv j (x j)) ∧
    (k ∈ [2, 4] → tagBits tgt = k * tagBits u → s.GroupAt D k r →
      s.GivesGroup (.vwid D A tgt rm sat g) rm g D k r tgt (tagCount u) fun j => cv j (x j)) ∧
    (k ∈ [2, 4] → tagBits u = k * tagBits tgt → s.GroupAt A k r → s.Writes D →
      whole (.vnar D A tgt rm sat g) (tagCount tgt) fun j => cv j (s.groupElem (tagBits u) k r j))

/-- R42: the conversion of one element: a code of its own tag stays as it is; a float to a wider float is exact, an infinity included, whatever
SAT says; other floats round by the mode and saturate only when asked; floats go to integers clamped, NaN to 0; integers wrap, or are
clamped when saturating. That a signed integer to a wider unsigned one is clamped too is the model's choice (log entry 57). -/
def Claims.ElementsConvertByTheirTags : Prop :=
  ∀ (src tgt : Tag) (rm : RMode) (rnd c : Nat) (sat : Bool),
    let fs := tagFmt src
    let w := tagBits tgt
    let clamped (v : Int) : Nat := (Max.max (intMin tgt) (Min.min (intMax tgt) v) % 2 ^ w).toNat
    convert src src rm rnd sat c = c ∧
    (src ≠ tgt → tagFloat src = true → tagFloat tgt = true →
      let wider := fs.frac ≤ (tagFmt tgt).frac ∧ fs.bias ≤ (tagFmt tgt).bias
      (wider → convert src tgt rm rnd sat c = roundVal (tagFmt tgt) rm rnd false (decodeFloat fs c)) ∧
      (¬ wider → convert src tgt rm rnd sat c = roundVal (tagFmt tgt) rm rnd sat (decodeFloat fs c))) ∧
    (tagFloat src = true → tagInt tgt = true →
      (decodeFloat fs c = .nan → convert src tgt rm rnd sat c = 0) ∧
      (decodeFloat fs c = .inf true → convert src tgt rm rnd sat c = (intMin tgt % 2 ^ w).toNat) ∧
      (decodeFloat fs c = .inf false → convert src tgt rm rnd sat c = (intMax tgt % 2 ^ w).toNat) ∧
      ∀ n m e, decodeFloat fs c = .fin n m e → convert src tgt rm rnd sat c = clamped
        (let k := if 0 ≤ e then m * 2 ^ e.toNat else roundStep rm rnd n (m / 2 ^ (-e).toNat) (m % 2 ^ (-e).toNat) (-e).toNat
         if n then -(k : Int) else k)) ∧
    (tagInt src = true → tagFloat tgt = true → convert src tgt rm rnd sat c =
      roundFin (tagFmt tgt) rm rnd sat (decide (intVal src c < 0)) (intVal src c).natAbs 0) ∧
    (src ≠ tgt → tagInt src = true → tagInt tgt = true →
      convert src tgt rm rnd true c = clamped (intVal src c) ∧ convert src tgt rm rnd false c = (intVal src c % 2 ^ w).toNat)

/-- Widening, narrowing and converting rows; what an element of each format is. -/
def Obligations.ConversionsOfRows : Prop :=
  Claims.VectorConversionResults ∧ Claims.ElementsConvertByTheirTags

/-- R43 to R46, R48, R204, R205: the quantiser takes 512 FP32 values of a quad and an absolute maximum, and gives their BX4 row; the expansion gives
each element times its block's scale times the band's, rounded; a row that fails its check, or a maximum that is negative, infinite or NaN,
traps.
Completion is stated of: vquant, vdeq. -/
def Obligations.BlockFormatResults : Prop :=
  ∀ (s : State) (D A B : RowOp) (tgt : Tag) (rm : RMode) (sat : Bool) (g : BitVec 2) (r : BitVec 7), s.Ready → s.Reads B → s.Writes D →
    let amax := elem 32 (s.rowBits .FP32 B) 0
    let bad : Bool := match decodeFloat fp32 amax with
      | .fin n m _ => n && m != 0
      | _ => true
    let row := (s.rowBits .BX4 B).toNat
    let start (i : Nat) : Nat := row / 2 ^ (2048 + i) % 2
    let block (i : Nat) : Nat := ((List.range (i + 1)).map start).sum - 1
    let blocks := ((List.range 512).map start).sum
    let scale (b : Nat) : Nat := row / 2 ^ (2560 + 8 * b) % 256
    let band := row / 2 ^ 3584 % 2 ^ 16
    let scaleOf (c : Nat) : Val := if c < 32 then .fin false c (-7) else .fin false (32 + c % 32) (c / 32 - 8)
    let value (i : Nat) : Val := valMul (valMul (decodeFloat e2m1 (row / 2 ^ (4 * i) % 16)) (scaleOf (scale (block i)))) (decodeFloat bf16 band)
    let quant := s.GroupAt A 4 r ∧ s.me.rowTag A = .FP32 ∧ (isLs B = true ∨ s.me.rowTag B = .FP32)
    let wide := tgt ∈ [.E4M3, .E5M2, .BF16, .FP16, .FP32] ∧ s.me.rowTag B = .BX4 ∧ isLs B = false ∧ s.Guardable g D tgt tgt
    let traps (t : Trap) : Prop := exec (.vdeq D B tgt rm sat g) s = .next (s.modMe (·.faulted 2 t))
    (quant → bad = false → ∃ v : RowBits, exec (.vquant D A B) s = .next (s.rowLater 2 7 D v .BX4) ∧
      IsQuantised (s.groupElem 32 4 r) amax v.toNat) ∧
    (quant → bad = true → s.MayTrap → exec (.vquant D A B) s = .next (s.modMe (·.faulted 2 ⟨0x03, 0⟩))) ∧
    (wide → start 0 = 1 → blocks ≤ 128 → (∀ b < blocks, scale b ≠ 0xFF) → band < 0x7F80 →
      (tagBits tgt = 8 → s.ConvertsRow (.vdeq D B tgt rm sat g) rm g D tgt 512 fun j =>
        roundVal (tagFmt tgt) rm (s.rnd j) sat (value j)) ∧
      (tagBits tgt ≠ 8 → s.GroupAt D (tagBits tgt / 8) r →
        s.GivesGroup (.vdeq D B tgt rm sat g) rm g D (tagBits tgt / 8) r tgt 512 fun j =>
          roundVal (tagFmt tgt) rm (s.rnd j) sat (value j))) ∧
    (wide → s.MayTrap → (tagBits tgt = 8 ∨ s.GroupAt D (tagBits tgt / 8) r) →
      (start 0 = 0 ∨ 128 < blocks → traps ⟨0x04, 1⟩) ∧
      (start 0 = 1 → blocks ≤ 128 → (∃ b < blocks, scale b = 0xFF) → traps ⟨0x04, 2⟩) ∧
      (start 0 = 1 → blocks ≤ 128 → (∀ b < blocks, scale b ≠ 0xFF) → 0x7F80 ≤ band → traps ⟨0x04, 3⟩))

/-- R49, R50, R206, R207: reductions put their result in element 0 of a row of zeros, elements that are off counting as the identity; the
scan adds up the lanes before each one. Lane 0 of a scan of FP32 keeps the payload of a NaN (log entry 58).
Completion is stated of: vredsum, vredmax, vredmin, vamax, vscan. -/
def Obligations.ReductionAndScanResults : Prop :=
  ∀ (s : State) (D A : RowOp) (g : BitVec 2), s.Ready → s.Reads A → s.Writes D →
    let u := s.me.viewTag A none
    let n := tagCount u
    let on (j : Nat) : Bool := onLane (s.guardOf g) n j
    let x (j : Nat) : Nat := elem (tagBits u) (s.rowBits u A) j
    let V (j : Nat) : Int := intVal u (x j)
    let lanes {α : Type} (f : Nat → α) : List α := (List.range n).map f
    let gives (i : Instr) (res : Tag) (v : Nat) : Prop := exec i s = .next (s.rowLater 2 5 D (BitVec.ofNat 4096 (v % 2 ^ 32)) res)
    let least : Int := if tagSigned u then -2 ^ 31 else 0
    let most : Int := if tagSigned u then 2 ^ 31 - 1 else 2 ^ 32 - 1
    let word (v : Int) : Nat := (v % 2 ^ 32).toNat
    let res : Tag := if tagSigned u then .I32 else .N32
    let shown (f : Val → Val) (j : Nat) : Option Val :=
      if on j then (match decodeFloat (tagFmt u) (x j) with | .nan => none | v => some (f v)) else none
    let pick (f : Val → Val → Val) (a b : Option Val) : Option Val :=
      match a, b with
      | some a, some b => some (f a b)
      | none, b => b
      | a, none => a
    let ext (f : Val → Val → Val) (h : Val → Val) : Nat :=
      match treeReduce (pick f) none n.log2 (lanes (shown h)) with
      | some v => rne fp32 v
      | none => 0x7FC00000
    (tagInt u = true →
      gives (.vredsum D A g) res (word ((lanes fun j => if on j then V j else 0).sum)) ∧
      gives (.vredmax D A g) res (word ((lanes fun j => if on j then V j else least).foldl Max.max least)) ∧
      gives (.vredmin D A g) res (word ((lanes fun j => if on j then V j else most).foldl Min.min most)) ∧
      gives (.vamax D A g) .N32 ((lanes fun j => if on j then (V j).natAbs else 0).foldl Max.max 0)) ∧
    (tagFloat u = true →
      gives (.vredsum D A g) .FP32 (treeReduce (fAdd fp32) 0 n.log2 (lanes fun j => if on j then convert u .FP32 .rne 0 false (x j) else 0)) ∧
      gives (.vredmax D A g) .FP32 (ext valMax id) ∧ gives (.vredmin D A g) .FP32 (ext valMin id) ∧
      gives (.vamax D A g) .FP32 (ext valMax valAbs)) ∧
    (s.Guardable g D u u → u ∈ [.I32, .N32] → s.GivesRow (.vscan D A g) 6 g D u 128 32 fun j =>
      ((List.range (j + 1)).map fun i => if on i then x i else 0).sum) ∧
    (s.Guardable g D u u → u = .FP32 → s.GivesRow (.vscan D A g) 6 g D u 128 32 fun j =>
      (([1, 2, 4, 8, 16, 32, 64] : List Nat).foldl
        (fun (y : Nat → Nat) d i => if d ≤ i then fAdd fp32 (y (i - d)) (y i) else y i) (fun i => if on i then x i else 0)) j)

/-- R211, R212: special functions complete and work element by element: the special arguments give the values of the table, a result that is exact is
that value, 1/x is rounded once, and a value beyond the largest finite one is infinite.
Completion is stated of: vsfu. -/
def Obligations.SpecialFunctionResults : Prop :=
  ∀ (s : State) (D A : RowOp) (fn : SfuFn) (g : BitVec 2), s.Ready → s.Reads A → s.Writes D →
    let u := s.me.viewTag A none
    let f := tagFmt u
    let x (j : Nat) : Nat := elem (tagBits u) (s.rowBits u A) j
    let one : Val := .fin false 1 0
    let half : Val := .fin false 1 (-1)
    let special (v : Val) : Option Val := match v with
      | .nan => some .nan
      | .fin n 0 _ => some (match fn with
        | .exp | .exp2 | .cos => one
        | .log | .log2 => .inf true
        | .rcp | .rsqrt => .inf n
        | .sigmoid => half
        | _ => .fin n 0 0)
      | .fin true _ _ => if fn ∈ [.log, .log2, .rsqrt, .sqrt] then some .nan else none
      | .inf false => some (match fn with
        | .exp | .exp2 | .log | .log2 | .sqrt | .gelu | .silu => .inf false
        | .rcp | .rsqrt => .fin false 0 0
        | .sin | .cos => .nan
        | _ => one)
      | .inf true => some (match fn with
        | .exp | .exp2 | .sigmoid => .fin false 0 0
        | .rcp | .gelu | .silu => .fin true 0 0
        | .tanh | .erf => .fin true 1 0
        | _ => .nan)
      | _ => none
    u ∈ [.FP32, .BF16, .FP16] → s.Guardable g D u u →
    ∃ y : Nat → Nat, s.GivesRow (.vsfu D A fn g) (if u = .FP32 then 17 else 11) g D u (tagCount u) (tagBits u) y ∧
      ∀ j < tagCount u,
        (match special (decodeFloat f (x j)) with
          | some w => y j = rne f w
          | none =>
            let limited (q : Val) : Nat := if valLt (decodeFloat f f.maxCode) (valAbs q) then infOf f (valSign q) else rne f q
            (fn = .rcp → y j = limited (valDiv one (decodeFloat f (x j)))) ∧
            ∀ n m e, decodeFloat f (x j) = .fin n m e →
              (fn = .exp2 → 0 ≤ e → y j = limited (.fin false 1 (if n then -(m * 2 ^ e.toNat : Nat) else (m * 2 ^ e.toNat : Nat)))) ∧
              (fn = .log2 → n = false → ∀ k : Nat, k < 64 → m = 2 ^ k → y j = limited (.fin (decide ((k : Int) + e < 0)) ((k : Int) + e).natAbs 0)) ∧
              (fn = .log → n = false → ∀ k : Nat, k < 64 → m = 2 ^ k → (k : Int) + e = 0 → y j = 0) ∧
              (fn = .sqrt → n = false → ∀ r < 8192, m = r * r → e % 2 = 0 → y j = limited (.fin false r (e / 2))) ∧
              (fn = .rsqrt → n = false → ∀ k : Nat, k < 32 → m = 4 ^ k → e % 2 = 0 → y j = limited (.fin false 1 (-((k : Int) + e / 2)))))

/-- R189, R191, R192, R193: what a vector instruction refuses at decode: sources of different tags, a tag its family does not accept, a
guarded result whose destination holds another tag, and a destination that is a latch or no write stream. -/
def Obligations.VectorTagAndOperandTraps : Prop :=
  ∀ (s : State) (D A B : RowOp) (g : BitVec 2) (l : Latch) (q : BitVec 3), s.Ready → s.MayTrap → s.Reads A → s.Reads B →
    let t := s.me.viewTag A (some B)
    let refuses (i : Instr) (c : BitVec 8) : Prop := exec i s = .next (s.modMe (·.refused 2 ⟨c, 0⟩))
    (∀ i ∈ [Instr.vadd (.latch l) A B g, .vmul (.latch l) A B g, .vand (.latch l) A B g, .vmov (.latch l) A g, .vdiv (.latch l) A B g],
      refuses i 0x03) ∧
    ((∀ b, s.me.stream? q = some b → b.write = false) →
      ∀ i ∈ [Instr.vadd (.q q) A B g, .vsub (.q q) A B g, .vxor (.q q) A B g, .vmov (.q q) A g], refuses i 0x03) ∧
    ((∀ b, s.me.stream? q = some b → b.write = true) → s.Writes D →
      ∀ i ∈ [Instr.vadd D (.q q) B g, .vadd D A (.q q) g, .vmov D (.q q) g, .vshl D A (.q q) g], refuses i 0x03) ∧
    (s.Writes D → ¬ s.SameTags A B →
      ∀ i ∈ [Instr.vadd D A B g, .vsub D A B g, .vmul D A B g, .vmin D A B g, .vmax D A B g, .vand D A B g, .vor D A B g, .vxor D A B g,
        .vshl D A B g, .vext D A B g, .vdiv D A B g], refuses i 0x04) ∧
    (s.Writes D → t ∈ [.EMPTY, .BX4, .E4M3, .E5M2, .E2M1] → ∀ i ∈ [Instr.vadd D A B g, .vmul D A B g, .vmin D A B g], refuses i 0x04) ∧
    (s.Writes D → tagInt t = false → ∀ i ∈ [Instr.vadds D A B g, .vsubs D A B g, .vmulh D A B g, .vshl D A B g, .vshr D A B g,
      .vsar D A B g], refuses i 0x04) ∧
    (s.Writes D → tagInt t = true → refuses (.vdiv D A B g) 0x04) ∧
    (s.Writes D → g ≠ 0 → s.me.destTag D ≠ .EMPTY → s.me.destTag D ≠ t →
      ∀ i ∈ [Instr.vadd D A B g, .vand D A B g, .vmin D A B g], refuses i 0x04)

/-- R103, R104, R105, R106, R107, R152, R374: a bundle of a NORMAL header pops its streams and asks for its operating point; a LOCK header
leaves a lock for the bundles that follow; a SYNC bundle issues once its group has restarted, and before that its core has arrived and is
frozen.
Completion is stated of: normal, sync, lock. -/
def Claims.HeadersActAtTheEndOfTheirBundle : Prop :=
  ∀ (s : State) (np : BitVec 5) (op : Option (BitVec 3)) (pop pairs : BitVec 8) (count : BitVec 4) (g : Group),
    s.Ready → np.toNat < 8 → s.Pops pop →
    let goes (i : Instr) (f : Core → Core) : Prop := exec i s = .next ((s.modMe fun x => f (x.popped pop).retired).asks op)
    goes (.normal np op pop) id ∧
    goes (.lock np op pop pairs count) (·.modCtl fun t => { t with lockN := count, lockP := pairs }) ∧
    (s.me.ctl.handler = false → s.me.flow.synced = true → goes (.sync np op pop g) id) ∧
    (s.me.ctl.handler = false → s.me.flow.synced = false → (s.die s.myDie).phase = none →
      exec (.sync np op pop g) s = .next (s.modMe fun x => (x.held (.sync g)).modFlow fun f => { f with arrived := some g }))

/-- R103, R106, R226, R384: what a header refuses: a reserved profile, a stream that is not bound for reading, and an XPH bundle outside
a phase; the pop of an exhausted stream is a fault of the header. -/
def Claims.HeaderTraps : Prop :=
  ∀ (s : State) (np : BitVec 5) (op : Option (BitVec 3)) (pop : BitVec 8) (q : BitVec 3), s.Ready → s.MayTrap →
    let refuses (i : Instr) (c : BitVec 8) : Prop := exec i s = .next (s.modMe (·.refused 8 ⟨c, 0⟩))
    (8 ≤ np.toNat → refuses (.normal np op pop) 0x01) ∧
    (np.toNat < 8 → pop.getLsbD q.toNat = true → (∀ b, s.me.stream? q = some b → b.write = true) → refuses (.normal np op pop) 0x03) ∧
    (np.toNat < 8 → s.Pops pop → refuses (.xph np op pop) 0x03) ∧
    (np.toNat < 8 → pop = 1#8 <<< q.toNat → (∃ b, s.me.stream? q = some b ∧ b.write = false ∧ b.total ≤ b.pos) →
      exec (.normal np op pop) s = .next (s.modMe fun x => x.intoHandler 8 ⟨0x11, q.setWidth 64⟩ x.flow.trapPc
        (0x1FE ||| (if x.flow.synced then 1 else 0))))

/-- Bundle headers: pops, locks, SYNC and their traps. -/
def Obligations.BundleHeaders : Prop :=
  Claims.HeadersActAtTheEndOfTheirBundle ∧ Claims.HeaderTraps

/-- R152, R155: the target of a request is the least of the point asked for, CTL.OPLIMIT and the die's cap. A request for the current
target changes nothing; a new target settles from the lower of the two points, upward over 4,096 periods of it and downward over 1,024, in ticks; one that
equals the point the core runs at ends the change at once. Rounding the settling up to ticks is the model's reading (log entry 50). -/
def Claims.OperatingPointRequests : Prop :=
  ∀ (s : State) (op : BitVec 3),
    let t := s.me.ctl
    let cap : Nat := if (s.die s.myDie).grant.fsafe then 2 else 7
    let target := Min.min op.toNat (Min.min t.opLimit.toNat cap)
    let low := Min.min t.opCur.toNat target
    let freq : Nat := [80, 100, 120, 140, 155, 170, 185, 200].getD low 0
    let ticks (periods : Nat) : Nat := (10 * periods + freq - 1) / freq
    ∃ u : Ctl, s.requestOp s.cur op = s.modMe (fun x => x.modCtl fun _ => u) ∧
      { u with opTgt := t.opTgt, opCur := t.opCur, settle := t.settle, settleLeft := t.settleLeft } = t ∧
      (target = t.opTgt.toNat → u = t) ∧
      (target ≠ t.opTgt.toNat → u.opTgt.toNat = target) ∧
      (target ≠ t.opTgt.toNat → target = t.opCur.toNat → u.settle = false ∧ u.opCur = t.opCur) ∧
      (target ≠ t.opTgt.toNat → t.opCur.toNat < target → u.settle = true ∧ u.opCur = t.opCur ∧ u.settleLeft = ticks 4096) ∧
      (target ≠ t.opTgt.toNat → target < t.opCur.toNat → u.settle = true ∧ u.opCur.toNat = target ∧ u.settleLeft = ticks 1024)

/-- R152, R154, R453 to R455: a settling that is over puts the core at its target; every tick adds RATE tokens, up to CAP; a grant, whose
highest point is 7, or fail-safe 20,000 ticks after the last, takes effect in every core of the die: the balance is clipped and a target above the limit moves
down to it. Nothing else of a core changes. A RATE below the floor is taken as 16, and a settling's time is rounded up to ticks (log entries 31
and 50).
Completion is stated of: settleEnd, tokenRefill, stokerGrant, failSafeEntry. -/
def Claims.GrantsAndFailSafe : Prop :=
  ∀ (s : State) (c o : Nat) (die : BitVec 3) (budget : Nat) (rate cap : BitVec 16) (top : BitVec 3),
    let d := die.toNat
    let g := (s.die d).grant
    let c0 := (s.core o).ctl
    let freq (p : Nat) : Nat := [80, 100, 120, 140, 155, 170, 185, 200].getD p 0
    let ticks (n p : Nat) : Nat := (10 * n + freq p - 1) / freq p
    let takes (ev : Instr) (g : Grant) (limit : Nat) : Prop :=
      ∃ t : State, exec ev s = .next t ∧ t.die d = { s.die d with grant := g } ∧ (∀ j < 8, j ≠ d → t.die j = s.die j) ∧
        let u := (t.core o).ctl
        let low := Min.min c0.opLimit.toNat limit
        t.core o = { s.core o with ctl := u } ∧ (¬ (o / 512 = d ∧ o % 512 < s.part.coreCount d) → u = c0) ∧
        (o / 512 = d → o % 512 < s.part.coreCount d →
          { u with opTgt := c0.opTgt, opCur := c0.opCur, settle := c0.settle, settleLeft := c0.settleLeft, bal := c0.bal } = c0 ∧
          u.bal = Min.min g.cap c0.bal ∧
          (c0.opTgt.toNat ≤ low → u.opTgt = c0.opTgt ∧ u.opCur = c0.opCur ∧ u.settle = c0.settle ∧ u.settleLeft = c0.settleLeft) ∧
          (low < c0.opTgt.toNat → u.opTgt.toNat = low ∧
            (c0.opCur.toNat = low → u.opCur = c0.opCur ∧ u.settle = false) ∧
            (c0.opCur.toNat < low → u.opCur = c0.opCur ∧ u.settle = true ∧ u.settleLeft = ticks 4096 c0.opCur.toNat) ∧
            (low < c0.opCur.toNat → u.opCur.toNat = low ∧ u.settle = true ∧ u.settleLeft = ticks 1024 low)))
    (exec (.settleEnd c) s = .next (s.modCore c fun x => x.modCtl fun u =>
      if u.settle = true ∧ u.settleLeft = 0 then { u with settle := false, opCur := u.opTgt } else u)) ∧
    (exec .tokenRefill s = .next { s with cores := s.cores.map fun p =>
      (p.1, p.2.modCtl fun u => { u with bal := Min.min (s.die (dieOf p.1)).grant.cap (u.bal + (s.die (dieOf p.1)).grant.rate) }) }) ∧
    ((s.die d).withheld = true ∨ top ≠ 7 → exec (.stokerGrant die budget rate cap top) s = .next s) ∧
    ((s.die d).withheld = false → takes (.stokerGrant die budget rate cap 7)
      { budget := budget, rate := Max.max 16 rate.toNat, cap := cap.toNat, fsafe := false, last := some s.now } 7) ∧
    (g.fsafe = true ∨ s.now < g.last.getD 0 + 20000 → exec (.failSafeEntry die) s = .next s) ∧
    (g.fsafe = false → g.last.getD 0 + 20000 ≤ s.now →
      takes (.failSafeEntry die) { g with fsafe := true, rate := 16, cap := 1024 } 2)

/-- Operating points, settling, draw tokens, grants and fail-safe. -/
def Obligations.OperatingPointsAndGrants : Prop :=
  Claims.OperatingPointRequests ∧ Claims.GrantsAndFailSafe

/-- R178: address registers, strides and their updates; every result lands one bundle later and wraps at 64 bits.
Completion is stated of: ainc, ainc2, aset, aget, aaddi, amod, kset. -/
def Claims.AddressRegisterUpdates : Prop :=
  ∀ (s : State) (a a2 : BitVec 4) (l l2 : BitVec 2) (r : BitVec 5) (i : BitVec 22), s.Ready →
    let A (n : BitVec 4) : Word := s.me.regs.a.get n.toFin
    let K (n : BitVec 4) (l : BitVec 2) : Word := s.me.regs.k.get (Fin.ofNat 64 (4 * n.toNat + l.toNat))
    let v := s.sReg r
    let writes (j : Instr) (f : Regs → Regs) : Prop := exec j s = .next (s.modMe fun x => x.retired.modRegs f)
    writes (.aset a r) (·.setA a v) ∧ writes (.aget a r) (·.setS r (A a)) ∧
    writes (.kset a l r) (fun x => { x with k := x.k.set (4 * a.toNat + l.toNat) v (by omega) }) ∧
    writes (.ainc a l) (·.setA a (A a + K a l)) ∧
    (a ≠ a2 → writes (.ainc2 a l a2 l2) fun x => (x.setA a (A a + K a l)).setA a2 (A a2 + K a2 l2)) ∧
    (a = a2 → writes (.ainc2 a l a2 l2) (·.setA a (A a + K a l + K a l2))) ∧
    writes (.aaddi a i) (·.setA a (A a + i.signExtend 64)) ∧
    writes (.amod a r) (·.setA a (BitVec.ofNat 64 (if v = 0 then (A a).toNat else (A a).toNat % v.toNat)))

/-- R179 to R182: LOOP and LOOPS set their level from the bundle after them, a count of zero skips the body, and LBRK ends its level;
the level's own end may lie at the loop bundle itself.
Completion is stated of: loop, loops, lbrk. -/
def Claims.LoopInstructionsSetTheirLevel : Prop :=
  ∀ (s : State) (lvl : BitVec 2) (count len : BitVec 12) (r : BitVec 5), s.Ready →
    let pc := s.me.flow.pc
    let old := s.me.flow.loops.get lvl.toFin
    let sets (i : Instr) (next : Pc) (fetched : Bool) (l : Loop) (c : Word) : Prop := exec i s = .next (s.modMe fun x =>
      (x.retired.modFlow fun f => { f with pc := next, fetched := fetched, loops := f.loops.set lvl.toNat l lvl.isLt }).modRegs fun y =>
        { y with lc := y.lc.set lvl.toNat c lvl.isLt })
    let acts (i : Instr) (n : Word) : Prop :=
      (n ≠ 0 → len ≠ 0 → sets i (pc + 1) true ⟨true, pc + 1, pc + len.setWidth 59, n⟩ 0) ∧
      (n ≠ 0 → len = 0 → n ≠ 1 → sets i (pc + 1) false ⟨true, pc + 1, pc, n - 1⟩ 1) ∧
      (n ≠ 0 → len = 0 → n = 1 → sets i (pc + 1) true ⟨false, pc + 1, pc, 0⟩ 0) ∧
      (n = 0 → sets i (pc + len.setWidth 59 + 1) false { old with act := false } 0)
    acts (.loop lvl count len) (count.setWidth 64) ∧ acts (.loops lvl r len) (s.sReg r) ∧
    sets (.lbrk lvl) (pc + 1) true { old with act := false } (s.me.regs.lc.get lvl.toFin)

/-- R182: the end of a bundle that jumps nowhere: levels are looked at from the innermost; a level that ends here counts down, and goes
back to its start with its counter one higher, or becomes inactive and leaves the decision to the next. -/
def Claims.LoopLevelsEndInnermostFirst : Prop :=
  ∀ (s : State) (lvl : Fin 4), s.Between → s.lockstep s.cur = none →
    let pc := s.me.flow.pc
    let L (i : Fin 4) : Loop := s.me.flow.loops.get i
    let ends (i : Fin 4) : Prop := (L i).act = true ∧ (L i).e = pc
    let done (i : Fin 4) (y : Core) : Prop := y.flow.loops.get i = if (L i).act = true ∧ (L i).e = pc then { L i with act := false, rc := 0 } else L i
    ((∀ i < lvl, ends i → (L i).rc = 1) → ends lvl → (L lvl).rc ≠ 1 → ∃ y : Core, exec .anop s = .next (s.modMe fun _ => y) ∧
      y.flow.pc = (L lvl).s ∧ y.flow.fetched = false ∧ (∀ i < lvl, done i y) ∧ y.flow.loops.get lvl = { L lvl with rc := (L lvl).rc - 1 } ∧
      (∀ i, lvl < i → y.flow.loops.get i = L i) ∧
      (∀ i, y.regs.lc.get i = if i = lvl then s.me.regs.lc.get i + 1 else s.me.regs.lc.get i)) ∧
    ((∀ i, ends i → (L i).rc = 1) → ∃ y : Core, exec .anop s = .next (s.modMe fun _ => y) ∧ y.flow.pc = pc + 1 ∧
      y.flow.fetched = true ∧ (∀ i, done i y) ∧ y.regs = s.me.regs)

/-- Address-register updates and hardware loops. -/
def Obligations.AddressRegistersAndLoops : Prop :=
  Claims.AddressRegisterUpdates ∧ Claims.LoopInstructionsSetTheirLevel ∧ Claims.LoopLevelsEndInnermostFirst

/-- R184 to R188: SBIND reads its descriptor from the scratchpad and binds the stream at the end of its bundle; its checks name the first
field that fails; while a fence, an acquire or a store before it that waits holds the descriptor, it is frozen (log entry 28). SUNBIND ends a
binding; SQUERY tells what has been popped or pushed (log entry 23). Which count an excessive row total is laid to (log entry 16), and that a
column access with WC not 000 fails at WC (log entry 59), are the model's readings.
Completion is stated of: sbind, sunbind, squery. -/
def Obligations.StreamBindings : Prop :=
  ∀ (s : State) (q : BitVec 3) (a : BitVec 4) (r : BitVec 5), s.Ready →
    let at_ := s.aReg a
    let rd (off len : Nat) : Nat := bytesNat ((List.range len).map fun i => s.spadByte s.cur (at_.toNat + off + i))
    let signed (v : Nat) : Int := if v < 2 ^ 31 then (v : Int) else v - 2 ^ 32
    let mode := rd 0x20 1
    let wc := rd 0x21 1
    let columns : Bool := mode / 2 % 2 == 1
    let bad : List (Nat × Bool) :=
      [(0x08, rd 0x08 4 == 0), (0x10, rd 0x10 4 == 0 || (rd 0x18 4 != 0 && decide (2 ^ 40 < rd 0x08 4 * rd 0x10 4))),
       (0x18, rd 0x18 4 == 0 || decide (2 ^ 40 < rd 0x08 4 * rd 0x10 4 * rd 0x18 4)),
       (0x20, decide (8 ≤ mode) || (columns && mode / 4 % 2 == 1)), (0x21, decide (4 < wc) || (columns && wc != 0)),
       (0x22, rd 0x22 1 == 0 || decide (15 ≤ rd 0x22 1)), (0x23, decide (3 ≤ rd 0x23 1)), (0x24, rd 0x24 44 != 0)]
    let inside := at_.toNat % 32 = 0 ∧ at_.toNat + 80 ≤ 262144
    let faults (t : Trap) : Prop := exec (.sbind q a) s = .next (s.modMe (·.faulted 7 t))
    let streams (i : Instr) (f : SMap Stream → SMap Stream) : Prop :=
      exec i s = .next (s.modMe fun x => x.retired.modMem fun m => { m with streams := f m.streams })
    let held := s.LocalWaits false false ((List.range 80).map (at_.toNat + ·))
    (held → exec (.sbind q a) s = .next (s.modMe (·.held .fence))) ∧
    (¬ held → s.MayTrap → ¬ inside → faults ⟨0x0A, at_⟩) ∧
    (¬ held → s.MayTrap → inside → ∀ f ∈ bad.find? (·.2), faults ⟨0x03, BitVec.ofNat 64 f.1⟩) ∧
    (¬ held → inside → (∀ f ∈ bad, f.2 = false) → ∃ b : Stream, streams (.sbind q a) (mapSet q.toNat b) ∧
      b.write = (mode % 2 == 1) ∧ b.space = (mode / 4 % 2 == 1) ∧ b.base.toNat = rd 0 8 ∧ b.pos = 0 ∧ b.done = 0 ∧
      b.count0 = rd 0x08 4 ∧ b.count1 = rd 0x10 4 ∧ b.count2 = rd 0x18 4 ∧
      b.stride0 = signed (rd 0x0C 4) ∧ b.stride1 = signed (rd 0x14 4) ∧ b.stride2 = signed (rd 0x1C 4) ∧
      some b.tag = [Tag.EMPTY, .I8, .N8, .I16, .N16, .I32, .N32, .FP32, .BF16, .FP16, .E4M3, .E5M2, .E2M1, .BX4, .I4][rd 0x22 1]? ∧
      b.shape = if columns then .col (if rd 0x23 1 = 0 then .e1 else if rd 0x23 1 = 1 then .e2 else .e4)
        else .row (if wc = 0 then .w512 else if wc = 1 then .w256 else if wc = 2 then .w128 else if wc = 3 then .w64 else .w32)) ∧
    streams (.sunbind q) (mapDel q.toNat) ∧
    (s.me.stream? q = none → exec (.squery q r) s = .next (s.modMe fun x => x.retired.modRegs (·.setS r 0))) ∧
    ∀ b, s.me.stream? q = some b →
      let total := b.count0 * b.count1 * b.count2
      let passed := if b.write then b.done else b.pos
      total < 2 ^ 41 → exec (.squery q r) s = .next (s.modMe fun x => x.retired.modRegs (·.setS r (BitVec.ofNat 64
        (2 ^ 63 + (if b.write then 2 ^ 62 else 0) + (if total ≤ passed then 2 ^ 61 else 0) + (total - passed)))))

/-- R216 to R218, R222, R229, R251, R252, R256, R257: rows are loaded from the scratchpad and from shared SRAM as rows of bytes or as
columns, the missing bytes zero, and stored byte by byte at the end of the bundle, where nothing of the core holds the access; no other byte
changes. A use of the shared SRAM counts one wait of free length (R440, log entry 15).
Completion is stated of: ldl, stl, ldsh, stsh. -/
def Claims.LocalRowsLoadAndStore : Prop :=
  ∀ (s : State) (row : RowOp) (a : BitVec 4) (sh : RowShape) (wc : RowWidth) (disp : BitVec 9), s.Ready → s.MemCanonical →
    let o : Nat := (s.aReg a + disp.signExtend 64 * 32).toNat
    let k := clusterOf s.cur
    let at_ (sh : RowShape) (i : Nat) : Nat := (shapePlaces sh o).getD i 0
    let bytes (sh : RowShape) : Nat := (shapePlaces sh o).length
    let stored (i : Nat) : Byte := (s.rowBits .FP32 row).extractLsb' (8 * i) 8
    let cells (sh : RowShape) : List (Nat × Byte) := (List.range (bytes sh)).map fun i => (at_ sh i, stored i)
    let others (t : State) : Prop := t.hbm = s.hbm ∧ ∀ c, c ≠ s.cur → t.core c = s.core c
    (s.Writes row → fitsIn 262144 sh o = true → ¬ s.LocalWaits false false (shapePlaces sh o) → s.LoadsRow (.ldl row a sh disp) 3 row fun i =>
      if i < bytes sh then (s.spadByte s.cur (at_ sh i)).toNat else 0) ∧
    (s.Writes row → fitsIn 2097152 (.row wc) o = true → ¬ s.LocalWaits true false (shapePlaces (.row wc) o) →
      ∃ v : RowBits, exec (.ldsh row a wc disp) s =
          .next ((s.rowLater 5 7 row v (if s.me.destTag row = .EMPTY then .N8 else s.me.destTag row)).modMe Core.sharing) ∧
        ∀ i < 512, elem 8 v i = if i < widthBytes wc then (s.sramByte k (o + i)).toNat else 0) ∧
    (s.Reads row → s.me.rowTag row ≠ .EMPTY → fitsIn 262144 sh o = true → ¬ s.LocalWaits false true (shapePlaces sh o) →
      exec (.stl row a sh disp) s = .next ((s.ownStore s.cur s.me.flow.bun (cells sh)).modMe Core.retired) ∧
      others (s.ownStore s.cur s.me.flow.bun (cells sh)) ∧
      (∀ i < bytes sh, (s.ownStore s.cur s.me.flow.bun (cells sh)).spadByte s.cur (at_ sh i) = stored i) ∧
      ∀ b, b ∉ shapePlaces sh o → (s.ownStore s.cur s.me.flow.bun (cells sh)).spadByte s.cur b = s.spadByte s.cur b) ∧
    (s.Reads row → s.me.rowTag row ≠ .EMPTY → fitsIn 2097152 (.row wc) o = true → ¬ s.LocalWaits true true (shapePlaces (.row wc) o) →
      exec (.stsh row a wc disp) s = .next ((s.sramStore k (cells (.row wc))).modMe fun x => x.retired.sharing) ∧
      others (s.sramStore k (cells (.row wc))) ∧
      (∀ i < widthBytes wc, (s.sramStore k (cells (.row wc))).sramByte k (o + i) = stored i) ∧
      ∀ b, b < o ∨ o + widthBytes wc ≤ b → (s.sramStore k (cells (.row wc))).sramByte k b = s.sramByte k b)

/-- R258: scalars of the scratchpad, little-endian, extended as asked; they land two bundles after the next and go to no latch.
Completion is stated of: lds, sts. -/
def Claims.LocalScalarsLoadAndStore : Prop :=
  ∀ (s : State) (d base : BitVec 5) (sx : Bool) (size : Size) (disp : BitVec 12), s.Ready → s.MemCanonical →
    let o : Nat := (s.sReg base + disp.signExtend 64).toNat
    let n : Nat := match size with | .b1 => 1 | .b2 => 2 | .b4 => 4 | .b8 => 8
    let v : Nat := ((List.range n).map fun i => (s.spadByte s.cur (o + i)).toNat * 256 ^ i).sum
    let t := s.ownStore s.cur s.me.flow.bun ((List.range n).map fun i => (o + i, BitVec.ofNat 8 ((s.sReg d).toNat / 256 ^ i)))
    let places := (List.range n).map (o + ·)
    o % n = 0 → o + n ≤ 262144 →
    (¬ s.LocalWaits false false places → exec (.lds d base sx size disp) s = .next (s.modMe fun x => x.retired.awaiting 5 2 (.scalar d false
      (BitVec.ofInt 64 (if sx ∧ 2 ^ (8 * n - 1) ≤ v then (v : Int) - 2 ^ (8 * n) else v))))) ∧
    (¬ s.LocalWaits false true places → exec (.sts d base size disp) s = .next (t.modMe Core.retired)) ∧
    (∀ i < n, t.spadByte s.cur (o + i) = BitVec.ofNat 8 ((s.sReg d).toNat / 256 ^ i)) ∧
    (∀ b, b < o ∨ o + n ≤ b → t.spadByte s.cur b = s.spadByte s.cur b) ∧ (∀ c, c ≠ s.cur → t.core c = s.core c) ∧ t.hbm = s.hbm ∧
    t.clusters = s.clusters

/-- R222, R278, R279, R361: a local access that a fence, an acquire or an earlier access of its bytes holds back does not freeze its core: the bundle
completes, and the access waits in the queue of the core; what it loads lands when it is there. -/
def Claims.LocalAccessesWaitInTheQueue : Prop :=
  ∀ (s : State) (row : RowOp) (a : BitVec 4) (sh : RowShape) (wc : RowWidth) (disp : BitVec 9) (d base : BitVec 5) (sx : Bool) (size : Size)
    (off : BitVec 12), s.Ready →
    let f := s.me.flow
    let o : Nat := (s.aReg a + disp.signExtend 64 * 32).toNat
    let p : Nat := (s.sReg base + off.signExtend 64).toNat
    let n : Nat := match size with | .b1 => 1 | .b2 => 2 | .b4 => 4 | .b8 => 8
    let tag := if s.me.destTag row = .EMPTY then .N8 else s.me.destTag row
    let entry (k : MemKind) : MemOp := { id := f.nextId, bun := f.bun, kind := k }
    let loads (i : Instr) (k : MemKind) (left : Nat) (f' : Core → Core) : Prop := exec i s = .next (s.modMe fun x =>
      (f' ((x.sent [entry k]).sending row).retired).expecting
        [{ left := left, res := .row (x.regs.dest row) 0 tag (some .LC0), id := f.nextId, need := 1, ready := false, young := false, slot := 5
           bun := f.bun }])
    let stores (i : Instr) (k : MemKind) (f' : Core → Core) : Prop := exec i s = .next (s.modMe fun x => f' (x.sent [entry k]).retired)
    let cells (l : List Nat) : List (Nat × Byte) := l.zipIdx.map fun q => (q.1, (s.rowBits .FP32 row).extractLsb' (8 * q.2) 8)
    let local_ := shapePlaces sh o
    let shared := shapePlaces (.row wc) o
    let scalar := (List.range n).map (p + ·)
    (s.Writes row → fitsIn 262144 sh o = true → s.LocalWaits false false local_ → loads (.ldl row a sh disp) (.localLoad false local_ none) 3 id) ∧
    (s.Writes row → fitsIn 2097152 (.row wc) o = true → s.LocalWaits true false shared →
      loads (.ldsh row a wc disp) (.localLoad true shared none) 7 Core.sharing) ∧
    (s.Reads row → s.me.rowTag row ≠ .EMPTY → fitsIn 262144 sh o = true → s.LocalWaits false true local_ →
      stores (.stl row a sh disp) (.localStore false (cells local_)) id) ∧
    (s.Reads row → s.me.rowTag row ≠ .EMPTY → fitsIn 2097152 (.row wc) o = true → s.LocalWaits true true shared →
      stores (.stsh row a wc disp) (.localStore true (cells shared)) Core.sharing) ∧
    (p % n = 0 → p + n ≤ 262144 → s.LocalWaits false false scalar → exec (.lds d base sx size off) s = .next (s.modMe fun x =>
      (x.sent [entry (.localLoad false scalar (some (size, sx)))]).retired.expecting
        [{ left := 2, res := .scalar d false 0, id := f.nextId, need := 1, ready := false, young := false, slot := 5, bun := f.bun }])) ∧
    (p % n = 0 → p + n ≤ 262144 → s.LocalWaits false true scalar → stores (.sts d base size off)
      (.localStore false (scalar.zipIdx.map fun q => (q.1, BitVec.ofNat 8 ((s.sReg d).toNat / 256 ^ q.2)))) id)

/-- Loads and stores of scratchpad and shared SRAM, rows and scalars. -/
def Obligations.LocalLoadsAndStores : Prop :=
  Claims.LocalRowsLoadAndStore ∧ Claims.LocalScalarsLoadAndStore ∧ Claims.LocalAccessesWaitInTheQueue

/-- R222, R233, R252: LDR asks the owner of another scratchpad of the cluster for a row, which lands eleven bundles after the next once it has
come. Of the core's own scratchpad it reads the row in the order of its own stores, or waits in the queue behind what holds it.
Completion is stated of: ldr. -/
def Claims.RemoteRowsAreRequested : Prop :=
  ∀ (s : State) (row : RowOp) (a : BitVec 4) (sh : RowShape) (owner : BitVec 3) (disp : BitVec 6), s.Ready → s.Writes row →
    let o : Nat := (s.aReg a + disp.signExtend 64 * 32).toNat
    let f := s.me.flow
    let tag := if s.me.destTag row = .EMPTY then .N8 else s.me.destTag row
    let places := shapePlaces sh o
    let asks (e : MemOp) : Prop := exec (.ldr row a sh owner disp) s = .next (s.modMe fun x =>
      ((x.sent [e]).sending row).retired.expecting
        [{ left := 11, res := .row (x.regs.dest row) 0 tag (some .LC0), id := f.nextId, need := 1, ready := false, young := false, slot := 5
           bun := f.bun, remote := true }])
    fitsIn 262144 sh o = true →
    (owner.toNat ≠ s.cur % 8 →
      asks { id := f.nextId, bun := f.bun, kind := .remote (s.cur / 8 * 8 + owner.toNat) sh, pa := o, len := places.length }) ∧
    (owner.toNat = s.cur % 8 → s.LocalWaits false false places → asks { id := f.nextId, bun := f.bun, kind := .localLoad false places none }) ∧
    (owner.toNat = s.cur % 8 → ¬ s.LocalWaits false false places → ∃ v : RowBits,
      (exec (.ldr row a sh owner disp) s = .next (s.modMe fun x => (x.sending row).retired.expecting
        [{ left := 11, res := .row (x.regs.dest row) v tag (some .LC0), young := false, slot := 5, bun := f.bun, remote := true }])) ∧
      ∀ i < 512, elem 8 v i = if i < places.length then (s.spadByte s.cur (places.getD i 0)).toNat else 0)

/-- R223, R135: a store of a core to its own scratchpad is there for the core at once, and for a remote reader from the fourth cycle of the core on (log
entry 76): until then the reader finds the bytes that were there before. -/
def Claims.RemoteReadsSeeStoresLate : Prop :=
  ∀ (s : State) (c bun : Nat) (cells : List (Nat × Byte)), (cells.map (·.1)).Nodup → (∀ p ∈ cells, p.1 < spadSize) →
    let t := s.ownStore c bun cells
    let after (k : Nat) : State := Nat.repeat (fun u : State => u.modCore c fun x => x.modMem Local.age) k t
    (∀ p ∈ cells, t.spadByte c p.1 = p.2) ∧ (∀ o, o ∉ cells.map (·.1) → t.spadByte c o = s.spadByte c o) ∧
    (∀ o, t.remoteByte c o = s.remoteByte c o) ∧
    ((s.core c).mem.unseen = [] → ∀ k < 4, ∀ o, (after k).remoteByte c o = s.spadByte c o) ∧
    ((∀ e ∈ (s.core c).mem.unseen, e.left ≤ 4) → ∀ o, (after 4).remoteByte c o = t.spadByte c o)

/-- R105, R215, R217, R218, R219, R235: byte x of row y of a scratchpad lies in bank (x / 32) xor (y / 32), and the banks of an access are those of its bytes, none of
them twice. A lock holds an access that touches a bank of a pair it names back, but in the cycles in which its core is frozen on SYNC, a hardware queue, SLEEP, MLEASE, PWRACQ or a
remote read of its own whose data has not come. -/
def Claims.LocksAndBanks : Prop :=
  (∀ x < 512, ∀ y < 512, bankOf (512 * y + x) = Nat.xor (x / 32) (y / 32) ∧ bankOf (512 * y + x) < 16) ∧
  (∀ (sh : RowShape) (o : Nat), fitsIn spadSize sh o = true →
    (∀ b, b ∈ shapeBanks sh o ↔ ∃ p ∈ shapePlaces sh o, bankOf p = b) ∧ (shapeBanks sh o).Nodup) ∧
  ∀ (x : Core) (banks : List Nat),
    let idle : Prop := (∃ g, x.flow.frozen = some (.sync g)) ∨ (∃ q, x.flow.frozen = some (.queue q)) ∨ x.flow.frozen = some .sleep ∨
      x.flow.frozen = some .lease ∨ x.flow.frozen = some .power ∨
      (x.flow.frozen = some .landing ∧ ∃ p ∈ x.flow.pending, p.remote = true ∧ p.left = 0 ∧ ¬ (p.ready = true ∧ p.need = 0))
    x.lockHolds banks = true ↔ x.ctl.lockN ≠ 0 ∧ ¬ idle ∧ ∃ b ∈ banks, x.ctl.lockP.getLsbD (b / 2) = true

/-- R138 to R140, R190, R223, R233, R221, R246, R247, R365: a request for a row of another scratchpad is served with the bytes of its owner; data fixed at their home reach
the core that waits for them; results that are due and have their data land, one that goes to the same place behind an earlier one that waits
stays; rows that land together on a write stream are pushed in the order of their slots, and one that has been pushed ahead only reaches its
latch (log entry 75); a fill is installed in its cluster's cache unless the cache holds a younger copy of the line, and the oldest of 2,048
lines leaves (log entry 52).
Completion is stated of: remoteReadService, resultLanding, landingDataArrival, cacheFill. -/
def Claims.ResultsAndFillsArrive : Prop :=
  ∀ (s : State) (c i : Nat) (m : MemOp) (owner : Nat) (sh : RowShape) (d : BitVec 5) (v : Word),
    let x := s.core c
    let places := shapePlaces sh m.pa
    let row : RowBits := BitVec.ofNat 4096 (((List.range places.length).map fun n => (s.remoteByte owner (places.getD n 0)).toNat * 256 ^ n).sum)
    let f (p : Pending) : Pending :=
      if p.id = m.id ∧ m.id ≠ 0 ∧ p.part = 0 then { p with res := Result.place 0 none row.toNat p.res, need := p.need - 1 } else p
    let due (p : Pending) : Prop := p.left = 0 ∧ p.young = false
    let here (p : Pending) : Prop := p.ready = true ∧ p.need = 0
    let k := s.cluster c
    (s.eligible c i = some m → m.kind = .remote owner sh → exec (.remoteReadService c i) s = .next ((s.modCore c fun y =>
      (y.modMem fun q => { q with memq := q.memq.eraseIdx i }).modFlow fun w =>
        { w with pending := w.pending.map f, save := w.save.map fun t => { t with pending := t.pending.map f } }).endFences c)) ∧
    (∀ p ∈ x.flow.pending[i]?, exec (.landingDataArrival c i) s = .next (s.modCore c fun y => y.modFlow fun w =>
      { w with pending := if p.need = 0 then w.pending.set i { p with ready := true } else w.pending })) ∧
    (∀ z j, x.flow.save = some z → j = x.flow.pending.length + i → ∀ p ∈ z.pending[i]?,
      exec (.landingDataArrival c j) s = .next (s.modCore c fun y => y.modFlow fun w =>
        { w with save := some { z with pending := if p.need = 0 then z.pending.set i { p with ready := true } else z.pending } })) ∧
    ((∀ p ∈ x.flow.pending, due p → ¬ here p) → exec (.resultLanding c) s = .next (s.modCore c id)) ∧
    (∀ p t, x.flow.pending = p :: t → p.res = .scalar d true v → due p → here p → (∀ e ∈ t, ¬ due e) →
      exec (.resultLanding c) s = .next (s.modCore c fun y => (y.modFlow fun w => { w with pending := t }).modRegs fun r => r.scalar d v)) ∧
    (∀ p t n w tag l, x.flow.pending = p :: t → p.res = .row (.tile n) w tag (some l) → due p → here p → (∀ e ∈ t, ¬ due e) →
      exec (.resultLanding c) s = .next (s.modCore c fun y =>
        (y.modFlow fun q => { q with pending := t }).modRegs fun r => (r.setT n ⟨w, tag⟩).setLatch l ⟨w, tag⟩)) ∧
    (∀ p t, x.flow.pending = p :: t → due p → ¬ here p → (∀ e ∈ t, due e → p.res.clash e.res = true) →
      exec (.resultLanding c) s = .next (s.modCore c id)) ∧
    (∀ p e t q a ta la b tb lb, x.flow.pending = p :: e :: t → p.res = .row (.stream q) a ta la → e.res = .row (.stream q) b tb lb →
      p.pushed = false → e.pushed = false →
      due p → due e → here p → here e → (∀ y ∈ t, ¬ due y) → (∀ y ∈ x.mem.memq, y.holdsWrite p.bun = false ∧ y.holdsWrite e.bun = false) →
      e.slot < p.slot → ∃ u : State, exec (.resultLanding c) s = .next ((u.streamWrite c q b).streamWrite c q a) ∧
        (u.core c).flow.pending = t ∧ (u.core c).mem = x.mem ∧ u.hbm = s.hbm) ∧
    (∀ p t q w tag l, x.flow.pending = p :: t → p.res = .row (.stream q) w tag (some l) → p.pushed = true → due p → here p → (∀ e ∈ t, ¬ due e) →
      exec (.resultLanding c) s = .next (s.modCore c fun y => (y.modFlow fun v => { v with pending := t }).modRegs fun r => r.setLatch l ⟨w, tag⟩)) ∧
    (k.fills[i]? = none → exec (.cacheFill c i) s = .next (s.modCluster c id)) ∧
    (∀ e ∈ k.fills[i]?,
      exec (.cacheFill c i) s = .next (s.modCluster c fun y =>
        { y with
          fills := y.fills.eraseIdx i
          cache := if ∃ o ∈ y.cache, o.line = e.line ∧ e.stamp < o.stamp then y.cache
                   else (e :: y.cache.filter fun o => o.line != e.line).take 2048 }))

/-- Remote scratchpad rows, banks and the locks that hold them; results, landing data and cache fills arrive. -/
def Obligations.RemoteRowsAndArrivals : Prop :=
  Claims.RemoteRowsAreRequested ∧ Claims.RemoteReadsSeeStoresLate ∧ Claims.LocksAndBanks ∧ Claims.ResultsAndFillsArrive

/-- R216, R217, R252, R256 to R258: a local access outside its storage or misaligned faults with its offset, a row store of EMPTY is refused;
neither loads or stores a byte. -/
def Claims.LocalAccessTraps : Prop :=
  ∀ (s : State) (row : RowOp) (a : BitVec 4) (sh : RowShape) (wc : RowWidth) (disp : BitVec 9) (owner : BitVec 3) (near : BitVec 6)
    (d base : BitVec 5) (sx : Bool) (size : Size) (off : BitVec 12), s.Ready → s.MayTrap →
    let o := s.aReg a + disp.signExtend 64 * 32
    let r := s.aReg a + near.signExtend 64 * 32
    let p := s.sReg base + off.signExtend 64
    let n : Nat := match size with | .b1 => 1 | .b2 => 2 | .b4 => 4 | .b8 => 8
    let faults (i : Instr) (v : Word) : Prop := exec i s = .next (s.modMe (·.faulted 5 ⟨0x0A, v⟩))
    (s.Writes row → fitsIn 262144 sh o.toNat = false → faults (.ldl row a sh disp) o) ∧
    (s.Writes row → fitsIn 2097152 (.row wc) o.toNat = false → faults (.ldsh row a wc disp) o) ∧
    (s.Writes row → fitsIn 262144 sh r.toNat = false → faults (.ldr row a sh owner near) r) ∧
    (s.Reads row → s.me.rowTag row ≠ .EMPTY → fitsIn 262144 sh o.toNat = false → faults (.stl row a sh disp) o) ∧
    (s.Reads row → s.me.rowTag row ≠ .EMPTY → fitsIn 2097152 (.row wc) o.toNat = false → faults (.stsh row a wc disp) o) ∧
    ((p.toNat % n ≠ 0 ∨ 262144 < p.toNat + n) → faults (.lds d base sx size off) p ∧ faults (.sts d base size off) p) ∧
    (s.Reads row → s.me.rowTag row = .EMPTY →
      exec (.stl row a sh disp) s = .next (s.modMe (·.refused 5 ⟨0x04, 0⟩)) ∧
      exec (.stsh row a wc disp) s = .next (s.modMe (·.refused 5 ⟨0x04, 0⟩)))

/-- R140, R239, R243, R259 to R261, R276, R420: what a global access is refused for: its alignment, then its page; its word takes the fault, and
nothing is read or written. A load that finds the landing buffer full is refused at decode; a walk is held in a maintenance slot. -/
def Claims.GlobalAccessTraps : Prop :=
  ∀ (s : State) (row : RowOp) (a : BitVec 4) (land : BitVec 10) (wg : GlobWidth) (rh sx tr : Bool) (d base : BitVec 5) (size : Size)
    (w : AWidth) (sc : Scope) (ord : Ord), s.Ready → s.MayTrap → s.Writes row → s.Reads row →
    let g : Nat := match wg with | .w512 => 512 | .w128 => 128 | .w32 => 32 | .w8 => 8
    let n : Nat := match size with | .b1 => 1 | .b2 => 2 | .b4 => 4 | .b8 => 8
    let m : Nat := match w with | .w32 => 4 | .w64 => 8 | .w128 => 16
    let va := s.aReg a
    let sa := s.sReg base
    let cases : List (Instr × Need × Word × Nat × Bool) :=
      [(.ldg row a land wg rh, .read, va, g, true), (.ldsg d base sx size land, .read, sa, n, true), (.stsg d base size, .write, sa, n, false),
       (.aadd w d base d sc ord tr, .atomic, sa, m, false), (.acas w d base d sc ord tr, .atomic, sa, m, false),
       (.ald w d base sc ord tr, .atomicRead, sa, m, false), (.ast w base d sc ord tr, .atomic, sa, m, false),
       (.wadd w base d sc tr, .window, sa, m, false), (.wmax w base d sc tr, .window, sa, m, false)]
    ∀ c ∈ cases,
      (c.2.2.2.2 = true → s.me.buffered = 64 → exec c.1 s = .next (s.modMe (·.refused 8 ⟨0x03, 65⟩))) ∧
      ((c.2.2.2.2 = true → s.me.buffered < 64) →
        (s.mayWalk c.2.2.1 = false → exec c.1 s = .next (s.modMe (·.held .walk))) ∧
        (s.mayWalk c.2.2.1 = true →
          (c.2.2.1.toNat % c.2.2.2.1 ≠ 0 → exec c.1 s = .next (s.modMe (·.faulted 5 ⟨0x0A, c.2.2.1⟩))) ∧
          (c.2.2.1.toNat % c.2.2.2.1 = 0 → ∀ t ∈ s.pageTrap? c.2.1 c.2.2.1 c.2.2.2.1,
            exec c.1 s = .next ((s.walked c.2.1 c.2.2.1 c.2.2.2.1).modMe (·.faulted 5 t)))))

/-- Faults of local and global accesses. -/
def Obligations.MemoryAccessTraps : Prop :=
  Claims.LocalAccessTraps ∧ Claims.GlobalAccessTraps

/-- R140, R243, R259 to R262, R354, R358, R366, R436: a global load that its page permits holds a landing-buffer entry, waits for its parts, one for each
line, and lands when it asked to; a store leaves for home as parts, and its lines leave the cluster's read cache. A load of a post is an
acquire. To an SC page the core freezes while an earlier access of it to one is on its way.
Completion is stated of: ldg, stg, ldsg, stsg. -/
def Obligations.GlobalLoadsAndStores : Prop :=
  ∀ (s : State) (row : RowOp) (a : BitVec 4) (land : BitVec 10) (wg : GlobWidth) (rh sx : Bool) (d base : BitVec 5) (size : Size), s.Ready →
    let f := s.me.flow
    let w : Nat := match wg with | .w512 => 512 | .w128 => 128 | .w32 => 32 | .w8 => 8
    let n : Nat := match size with | .b1 => 1 | .b2 => 2 | .b4 => 4 | .b8 => 8
    let va := s.aReg a
    let sa := s.sReg base
    let tag := if s.me.destTag row = .EMPTY then .N8 else s.me.destTag row
    let parts (len pa : Nat) (l : Leaf) (k : Nat → MemKind) : List MemOp := (List.range ((len + 127) / 128)).map fun i =>
      { id := f.nextId, bun := f.bun, kind := k i, pa := pa + 128 * i, len := Min.min 128 (len - 128 * i), scPage := l.sc }
    let reading (pa : Nat) (l : List MemOp) : List MemOp := l.map fun m => if s.readsPost pa then { m with acq := true, scope := .module } else m
    let wait (r : Result) (need : Nat) : List Pending :=
      [{ left := land.toNat - 1, res := r, id := f.nextId, need := need, ready := false, buf := true, young := false, slot := 5, bun := f.bun }]
    let freezes (i : Instr) : Prop := exec i s = .next (s.modMe (·.held .scOrder))
    let lines (len pa : Nat) : List Nat := (List.range ((len + 127) / 128)).map (pa / 128 + ·)
    (va.toNat % w = 0 → s.mayWalk va = true → s.me.buffered < 64 → s.Writes row → ∀ p ∈ s.page? .read va w,
      (¬ s.InScOrder p.1 → freezes (.ldg row a land wg rh)) ∧
      (s.InScOrder p.1 → exec (.ldg row a land wg rh) s = .next ((s.walked .read va w).modMe fun x =>
        ((x.sent (reading p.2 (parts w p.2 p.1 fun i => .load (128 * i) none (rh && p.1.rhp && !p.1.sc)))).sending row).retired.expecting
          (wait (.row (x.regs.dest row) 0 tag (some .LC0)) ((w + 127) / 128))))) ∧
    (sa.toNat % n = 0 → s.mayWalk sa = true → s.me.buffered < 64 → ∀ p ∈ s.page? .read sa n,
      (¬ s.InScOrder p.1 → freezes (.ldsg d base sx size land)) ∧
      (s.InScOrder p.1 → exec (.ldsg d base sx size land) s = .next ((s.walked .read sa n).modMe fun x =>
        (x.sent (reading p.2 (parts n p.2 p.1 fun _ => .load 0 (some (size, sx)) false))).retired.expecting (wait (.scalar d false 0) 1)))) ∧
    (va.toNat % w = 0 → s.mayWalk va = true → s.Reads row → s.me.rowTag row ≠ .EMPTY → ∀ p ∈ s.page? .write va w,
      (¬ s.InScOrder p.1 → freezes (.stg row a wg)) ∧
      (s.InScOrder p.1 → exec (.stg row a wg) s = .next (((s.walked .write va w).cacheWithout (lines w p.2)).modMe fun x =>
        (x.sent (parts w p.2 p.1 fun i =>
          .store ((s.rowBits .FP32 row).toNat / 2 ^ (1024 * i) % 2 ^ (8 * Min.min 128 (w - 128 * i))))).retired))) ∧
    (sa.toNat % n = 0 → s.mayWalk sa = true → ∀ p ∈ s.page? .write sa n,
      (¬ s.InScOrder p.1 → freezes (.stsg d base size)) ∧
      (s.InScOrder p.1 → exec (.stsg d base size) s = .next (((s.walked .write sa n).cacheWithout (lines n p.2)).modMe fun x =>
        (x.sent (parts n p.2 p.1 fun _ => .store ((s.sReg d).toNat % 2 ^ (8 * n)))).retired)))

/-- R262, R246, R249, R420: PFG takes fills of its lines, or replicas where the hint and the page ask for them, and is dropped without a trap
where an access would trap or wait, or the page is sequentially consistent, no HBM or another module's. A maintenance slot that holds its walk
drops it (log entry 26). A fill that is still on its way gives way to a later one of its line (R365).
Completion is stated of: pfg. -/
def Claims.PrefetchTakesLinesOrIsDropped : Prop :=
  ∀ (s : State) (a : BitVec 4) (wg : GlobWidth) (rh : Bool), s.Ready →
    let w : Nat := match wg with | .w512 => 512 | .w128 => 128 | .w32 => 32 | .w8 => 8
    let va := s.aReg a
    let goes (t : State) : Prop := exec (.pfg a wg rh) s = .next (t.modMe Core.retired)
    let lines (pa : Nat) : List Nat := ((List.range ((w + 127) / 128)).map (pa / 128 + ·)).filter fun k => !s.badLines.contains k
    (va.toNat % w ≠ 0 ∨ s.mayWalk va = false → goes s) ∧
    (va.toNat % w = 0 → s.mayWalk va = true →
      ((s.pageTrap? .read va w).isSome = true → goes (s.walked .read va w)) ∧
      ∀ p ∈ s.page? .read va w,
        let here := !p.1.sc && p.2 / 2 ^ 48 == s.domMod.toNat && decide (p.2 % 2 ^ 48 < 0xC000000000)
        (here = false → goes (s.walked .read va w)) ∧
        (here = true → (rh && p.1.rhp) = true → goes ((lines p.2).foldl (fun t k => t.takeReplica s.cur k) (s.walked .read va w))) ∧
        (here = true → (rh && p.1.rhp) = false → ∃ t : State, exec (.pfg a wg rh) s = .next t ∧
          (t.cluster (clusterOf s.cur)).fills = ((s.cluster (clusterOf s.cur)).fills.filter fun f => !(lines p.2).contains f.line) ++
            ((lines p.2).zipIdx.map fun l => ⟨l.1, BitVec.ofNat 1024 (memRead s.hbm (l.1 * 128) 128), s.stamp + l.2⟩) ∧
          t.hbm = s.hbm ∧ t.cores = ((s.walked .read va w).modMe Core.retired).cores ∧ t.replicas = s.replicas))

/-- R247, R249, R282, R283: INVL removes its line from the cluster's read cache, and with a wide scope the replicas of its node; it waits for the
loads of the line. FLUSHMS is privileged and changes no value.
Completion is stated of: flushms, invl. -/
def Claims.CacheControl : Prop :=
  ∀ (s : State) (a : BitVec 5) (sc : Scope), s.Ready → s.calendar.hold = false →
    let va := s.sReg a
    let r := s.translate s.cur va
    let loads (line : Nat) : Bool := s.me.mem.memq.any fun e => (match e.kind with | .load _ _ _ => true | _ => false) && e.pa / 128 == line
    (∀ p ∈ s.page? .read va 8,
      (loads (p.2 / 128) = true → exec (.invl a sc) s = .next (s.modMe (·.held .scOrder))) ∧
      (loads (p.2 / 128) = false → exec (.invl a sc) s = .next (
        let t := (s.walked .read va 8).cacheWithout [p.2 / 128]
        State.modMe { t with
          replicas :=
            if sc ∈ [.die, .module, .domain] then
              t.replicas.filter fun r => decide (r.line ≠ p.2 / 128 ∨ s.me.run.map (·.node) ≠ some r.node)
            else t.replicas } Core.retired))) ∧
    (s.MayTrap → ∀ t ∈ s.pageTrap? .read va 8, exec (.invl a sc) s = .next ((s.walked .read va 8).modMe (·.faulted 5 t))) ∧
    (s.me.ctl.priv = true → a = 0 → exec (.flushms a sc) s = .next (s.modMe Core.retired)) ∧
    (s.me.ctl.priv = true → a ≠ 0 → r.2.toOption.isSome = true → exec (.flushms a sc) s = .next (r.1.modMe Core.retired)) ∧
    (s.me.ctl.priv = false → s.MayTrap → exec (.flushms a sc) s = .next (s.modMe (·.refused 5 ⟨0x05, 0⟩)))

/-- Prefetches and cache control. -/
def Obligations.PrefetchAndCacheControl : Prop :=
  Claims.PrefetchTakesLinesOrIsDropped ∧ Claims.CacheControl

/-- R271 to R277: an atomic that its page permits goes to the home of its line with its operands, its order and its scope; what it returns
lands thirty-one bundles after the next: the old value, the high half of a pair, and the line's sequence number. To an SC page the core freezes while an earlier access of it to one is on its way (R366).
Completion is stated of: aadd, amax, amin, amaxn, aminn, aand, aor, axor, axchg, acas, afadd, afmax, aamax, ald, ast. -/
def Obligations.AtomicsAreSentHome : Prop :=
  ∀ (s : State) (w : AWidth) (d a b : BitVec 5) (sc : Scope) (ord : Ord) (tr : Bool), s.Ready → s.mayWalk (s.sReg a) = true →
    let f := s.me.flow
    let va := s.sReg a
    let bytes (w : AWidth) : Nat := match w with | .w32 => 4 | .w64 => 8 | .w128 => 16
    let value (w : AWidth) (r : BitVec 5) : Nat := match w with
      | .w32 => (s.sReg r).toNat % 2 ^ 32
      | .w64 => (s.sReg r).toNat
      | .w128 => (s.sReg r).toNat + 2 ^ 64 * (s.sReg (r + 1)).toNat
    let part (r : BitVec 5) (i : Nat) : Pending :=
      { left := 31, res := .scalar r false 0, id := f.nextId, part := i, need := 1, ready := false, young := false, slot := 5, bun := f.bun
        reply := true }
    let goes (i : Instr) (op : AtomicOp) (w : AWidth) (d b : BitVec 5) (need : Need) : Prop :=
      va.toNat % bytes w = 0 → ∀ p ∈ s.page? need va (bytes w),
        (¬ s.InScOrder p.1 → exec i s = .next (s.modMe (·.held .scOrder))) ∧
        (s.InScOrder p.1 → exec i s = .next (((s.walked need va (bytes w)).cacheWithout [p.2 / 128]).modMe fun x =>
          (x.sent [{ id := f.nextId, bun := f.bun, kind := .atomic op (value w b) (value w d), pa := p.2, len := bytes w
                     acq := decide (ord = .acq ∨ ord = .ar), rel := decide (ord = .rel ∨ ord = .ar), scope := sc
                     scPage := p.1.sc }]).retired.expecting
            ((if d = 0 then [] else [part d 0]) ++ (if w = .w128 ∧ d ≠ 0 then [part (d + 1) 1] else []) ++
              if tr then [part (d + 1) 2] else [])))
    goes (.aadd w d a b sc ord tr) .add w d b .atomic ∧ goes (.amax w d a b sc ord tr) .max w d b .atomic ∧
    goes (.amin w d a b sc ord tr) .min w d b .atomic ∧ goes (.amaxn w d a b sc ord tr) .maxn w d b .atomic ∧
    goes (.aminn w d a b sc ord tr) .minn w d b .atomic ∧ goes (.aand w d a b sc ord tr) .and w d b .atomic ∧
    goes (.aor w d a b sc ord tr) .or w d b .atomic ∧ goes (.axor w d a b sc ord tr) .xor w d b .atomic ∧
    goes (.axchg w d a b sc ord tr) .xchg w d b .atomic ∧ goes (.acas w d a b sc ord tr) .cas w d b .atomic ∧
    goes (.afadd d a b sc ord tr) .fadd .w32 d b .atomic ∧ goes (.afmax d a b sc ord tr) .fmax .w32 d b .atomic ∧
    goes (.aamax d a b sc ord tr) .amax .w32 d b .atomic ∧ goes (.ald w d a sc ord tr) .ld w d 0 .atomicRead ∧
    goes (.ast w a b sc ord tr) .st w 0 b .atomic

/-- R222, R235, R278 to R281, R351, R358 to R361, R363, R366, R393, R420: which entry of a core's queues may be performed next. It is no fence; the earlier
entries that are left neither touch its line or its local bytes, nor are acquires or fences that hold it back; on a sequentially consistent page
they belong to no earlier access of such a page. A release of scope module or domain is behind every earlier access of its core, and what is
not in the queue: content-named operations, absolute maxima, replies of atomics, scratchpad stores that are not seen yet, and rows of write
streams (log entry 75); an acquire waits for all of this where a narrower release that it may have read orders it (log entry 72). A
maintenance slot holds all but local accesses, a lock of their owner remote ones of its banks, and a contribution waits where the home slice
of its window holds 4,096 sets of partials. -/
def Claims.AccessesArePerformedInOrder : Prop :=
  ∀ (s : State) (c i : Nat) (m : MemOp),
    let x := s.core c
    let q := x.mem.memq
    let fence (e : MemOp) : Bool := match e.kind with | .fence _ _ _ => true | _ => false
    let local_ (e : MemOp) : Bool := match e.kind with | .remote _ _ | .localLoad _ _ _ | .localStore _ _ => true | _ => false
    let look (e : MemOp) : Bool := match e.kind with | .look _ _ => true | _ => false
    let cls : Nat := match m.kind with
      | .load _ _ _ | .remote _ _ | .localLoad _ _ _ => 0
      | .store _ | .localStore _ _ => 1
      | .atomic _ _ _ | .contrib _ _ _ => 2
      | .look _ _ => 7
      | .fence _ _ _ => 8
    let writes : Bool := match m.kind with
      | .store _ | .localStore _ _ | .contrib _ _ _ => true
      | .atomic op _ _ => op != .ld
      | _ => false
    let names (e : MemOp) (k : Nat) : Bool := match e.kind with | .fence _ u _ => u.getLsbD k | _ => false
    let global (e : MemOp) : Bool := !fence e && !local_ e && !look e
    let lines (e : MemOp) : Bool := global e && !e.engine
    let bytes (e : MemOp) : Option (Bool × Bool × List Nat) := match e.kind with
      | .localLoad sh offs _ => some (sh, false, offs)
      | .localStore sh cells => some (sh, true, cells.map (·.1))
      | _ => none
    let far : Bool := m.rel && [Scope.module, .domain].contains m.scope
    let meet (sc : Scope) (a b : Nat) : Bool := match sc with
      | .core => a == b
      | .cluster => a / 8 == b / 8
      | .die => a / 512 == b / 512
      | _ => true
    let results (o : Nat) : List Pending := (match (s.core o).flow.save with | some t => t.pending | none => []) ++ (s.core o).flow.pending
    let done (o bun : Nat) : Prop :=
      (∀ r ∈ s.reaping, r.2 ≠ o) ∧ (∀ k ∈ (s.core o).mat.cmds, k.bun < bun → k.isAmx = false) ∧ (∀ u ∈ (s.core o).mem.unseen, bun ≤ u.bun) ∧
      (∀ p ∈ results o, p.isPush = true → bun ≤ p.bun) ∧ (∀ p ∈ results o, p.reply = true → p.ready = false → bun ≤ p.bun) ∧
      ∀ b ∈ (s.core o).mem.bulk, b.isOut = true → bun ≤ b.bun
    let slice (y : Window) := s.homeOf (y.base.toNat / 2 ^ 7 % 2 ^ 52 * 128)
    let sets (w : Nat) : Nat := (s.windows.toList.map fun y =>
      if y.cfg.getLsbD 57 = false ∧ slice y = slice (s.window w) then y.partials.length else 0).sum
    s.eligible c i = some m ↔
      q[i]? = some m ∧ fence m = false ∧ (s.calendar.hold = true → local_ m = true) ∧ (s.pool.setting = true → look m = false) ∧
      (global m = true → m.pa / 2 ^ 48 ∉ s.lostModules) ∧ (far = true → done c m.bun) ∧
      (m.acq = true → ∀ r ∈ s.releases, r.line = m.pa / 128 → r.core ≠ c → (meet r.scope r.core c && meet m.scope c r.core) = true →
        (∀ e ∈ (s.core r.core).mem.memq, e.id < r.id → fence e = true) ∧ done r.core r.bun) ∧
      (∀ w, (match m.kind with | .contrib k _ _ => k.toNat = w | _ => False) → (s.window w).cfg.getLsbD 57 = false →
        (∀ p ∈ (s.window w).partials, p.1 ≠ m.pa) → sets w < 4096) ∧
      (match m.kind with
        | .remote o sh => (s.core o).lockHolds (shapeBanks sh m.pa) = false
        | .load _ _ _ | .store _ => s.lockedAt m.pa m.len = false
        | _ => True) ∧
      ∀ e ∈ q.take i,
        (lines e = true → lines m = true → e.pa / 128 ≠ m.pa / 128) ∧ (far = true → fence e = true) ∧
        (e.bun < m.bun → e.acq = false ∧ names e cls = false ∧ (writes = true → names e 1 = false ∧ names e 2 = false)) ∧
        (m.scPage = true → e.scPage = true → e.id = m.id) ∧
        (∀ a ∈ bytes e, ∀ b ∈ bytes m, a.1 = b.1 → (a.2.1 || b.2.1) = true → ∀ o ∈ a.2.2, o ∉ b.2.2)

/-- R246, R247, R249, R273, R304, R355 to R357, R365: a store or a load whose turn it is is performed at the home of its line, or, for a load of an
ordinary page, served by its cluster's read cache or by a replica of its node; it has left its queue, and a load's result has its bytes. A
store leaves every other byte, drops its lines from the cluster's cache, ends the watch of weights that they hold, and is seen by the
monitors of other cores. An acquiring load of a wide scope clears its cluster's cache. A narrow release that the load may have read, and whose
accesses are not all performed, is noted (log entry 72). A fill of a line takes the place of one that is still on its way.
Completion is stated of: homeLoad, homeStore. -/
def Claims.LoadsAndStoresArePerformed : Prop :=
  ∀ (s : State) (c i : Nat) (m : MemOp), s.eligible c i = some m → s.place m.pa = .hbm → s.badLines = [] → s.lostModules = [] →
    s.MemCanonical →
    let k := clusterOf c
    let line := m.pa / 128
    let lines := linesOf m.pa m.len
    let owes := s.releases.filter fun r => r.line == line && r.core != c && inScope r.scope r.core c && s.outstanding r
    let left (x : Core) : Core := x.modMem fun q => { q with memq := q.memq.eraseIdx i }
    let noting (x : Core) : Core := x.modMem fun q => { q with owed := q.owed ++ owes }
    let acquired (t : State) : State := if m.acq = true ∧ m.scope ∈ [.die, .module, .domain] then t.clearCache k else t
    let got (x : Core) (at_ : Nat) (z : Option (Size × Bool)) (v : Nat) : Core :=
      let f (p : Pending) : Pending :=
        if p.id = m.id ∧ m.id ≠ 0 ∧ p.part = 0 then { p with res := Result.place at_ z v p.res, need := p.need - 1 } else p
      x.modFlow fun w => { w with pending := w.pending.map f, save := w.save.map fun t => { t with pending := t.pending.map f } }
    let hit := (s.cluster k).cache.find? fun e => e.line == line
    let home := memRead s.hbm m.pa m.len
    let part (l : Line) : Nat := l.toNat / 2 ^ (8 * (m.pa % 128)) % 2 ^ (8 * m.len)
    let whole : Line := BitVec.ofNat 1024 (memRead s.hbm (line * 128) 128)
    (∀ v, m.kind = .store v → ∃ t : State, exec (.homeStore c i) s = .next (t.endFences c) ∧
      { t.core c with mat := (s.core c).mat } = left (s.core c) ∧
      (∀ n < m.len, memGet t.hbm (m.pa + n) = BitVec.ofNat 8 (v / 256 ^ n)) ∧
      (∀ b, b < m.pa ∨ m.pa + m.len ≤ b → memGet t.hbm b = memGet s.hbm b) ∧
      (∀ e ∈ (t.cluster k).cache, e.line ∉ lines) ∧ (∀ e ∈ (t.cluster k).fills, e.line ∉ lines) ∧
      (∀ p ∈ t.clusters, ∀ j : Fin 8, ∀ w ∈ [(p.2.macros.get j).active, (p.2.macros.get j).shadow], ∀ y ∈ w.key, y.watch = true →
        ∀ l ∈ lines, y.covers l = false) ∧
      (∀ o, o ≠ c → (t.core o).regs = (s.core o).regs ∧ (t.core o).mem = (s.core o).mem ∧
        (t.core o).flow.monitor = (s.core o).flow.monitor.map fun y => (y.1, y.2 || lines.contains y.1)) ∧
      t.replicas = s.replicas ∧ t.lineSeq = s.lineSeq) ∧
    ∀ at_ z rh, m.kind = .load at_ z rh →
      let serves (t : State) (v : Nat) : Prop := 
        exec (.homeLoad c i) s = .next ((acquired (t.modCore c fun x => got (left (noting x)) at_ z v)).endFences c)
      (m.scPage = true → serves s home) ∧
      (m.scPage = false → (∀ e ∈ hit, serves (s.modCluster k fun x => { x with hits := x.hits + 1 }) (part e.data)) ∧
        (hit = none → (∀ r ∈ s.replicaFor c line, serves (if at_ = 0 then s.countDie (dieOf c) 0x122 else s) (part r.data)) ∧
          (s.replicaFor c line = none →
            let t := { s.modCluster k fun x => { x with fills := x.fills.filter (·.line != line) ++ [⟨line, whole, s.stamp⟩] } with stamp := s.stamp + 1 }
            serves (if rh then t.takeReplica c line else t) home)))

/-- R273 to R277, R271, R247: an atomic whose turn it is is performed in one step at home: it returns the old value, writes the new one, adds one to
its line's sequence number, which TR returns, and drops the line from its cluster's read cache; an acquire of a wide scope clears that cache. A
release of scope core, cluster or die that is performed before what it orders is noted for the acquires of its scope (R363; log entry 72).
Completion is stated of: homeAtomic. -/
def Claims.AtomicsArePerformedAtHome : Prop :=
  ∀ (s : State) (c i : Nat) (m : MemOp) (op : AtomicOp) (v x : Nat), s.eligible c i = some m → m.kind = .atomic op v x →
    s.badLines = [] → s.lostModules = [] → s.MemCanonical →
    let w := 8 * m.len
    let old := memRead s.hbm m.pa m.len
    let sg (a : Nat) : Int := if a < 2 ^ (w - 1) then a else a - 2 ^ w
    let F := decodeFloat fp32
    let new : Nat := match op with
      | .add => (old + v) % 2 ^ w
      | .max => if sg old < sg v then v else old
      | .min => if sg v < sg old then v else old
      | .maxn => Max.max old v
      | .minn => Min.min old v
      | .and => old &&& v
      | .or => old ||| v
      | .xor => old ^^^ v
      | .xchg | .st => v
      | .cas => if old = x then v else old
      | .fadd => rne fp32 (valAdd false (F old) (F v))
      | .fmax => rne fp32 (valMax (F old) (F v))
      | .amax => rne fp32 (valMax (valAbs (F old)) (valAbs (F v)))
      | .ld => old
    let release : NarrowRelease := ⟨m.pa / 128, c, m.id, m.bun, m.scope⟩
    let seq := mapGet 0 (m.pa / 128) s.lineSeq + 1
    let back (p : Pending) : Pending :=
      if p.id = m.id ∧ m.id ≠ 0 ∧ p.part ≤ 2 then
        { p with need := p.need - 1
                 res := p.res.setScalar (if p.part = 0 then BitVec.ofNat 64 old else if p.part = 1 then BitVec.ofNat 64 (old / 2 ^ 64) else seq) }
      else p
    ∃ t : State, exec (.homeAtomic c i) s = .next (t.endFences c) ∧ t.hbm = (if op = .ld then s.hbm else memWrite s.hbm m.pa m.len new) ∧
      mapGet 0 (m.pa / 128) t.lineSeq = seq ∧ (∀ l, l ≠ m.pa / 128 → mapGet 0 l t.lineSeq = mapGet 0 l s.lineSeq) ∧
      (t.core c).mem.memq = (s.core c).mem.memq.eraseIdx i ∧ (t.core c).flow.pending = (s.core c).flow.pending.map back ∧
      (t.core c).regs = (s.core c).regs ∧
      t.releases = (if m.rel = true ∧ m.scope ∉ [.module, .domain] ∧ s.outstanding release = true then s.releases.filter s.outstanding ++ [release]
        else s.releases) ∧
      ∀ e ∈ (t.cluster (clusterOf c)).cache, e.line ≠ m.pa / 128 ∧
        (m.acq = true → m.scope ∈ [.die, .module, .domain] → s.poolLine e.line = true)

/-- Queued loads, stores and atomics are performed, in the order that they must keep. -/
def Obligations.AccessesArePerformed : Prop :=
  Claims.AccessesArePerformedInOrder ∧ Claims.LoadsAndStoresArePerformed ∧ Claims.AtomicsArePerformedAtHome

/-- R154, R263 to R266, R268, R270, R468: a bulk transfer that passes the check of its rows starts under its tag: it opens the tag, and its promise
lies after the issue, not before those of the transfers it follows, and beyond the maintenance slots that begin until then. The bundle pays
its tokens, or freezes without them; a failed check moves nothing. The lines that it will write leave the read cache of its cluster (R247); a
transfer of an SC page waits for the core's earlier accesses to such pages (R366); that its own writes to one go one after another is the model's
reading (log entry 24).
Completion is stated of: bget, bput, bgetsh, bputsh. -/
def Claims.BulkTransfersStartUnderTheirTag : Prop :=
  ∀ (s : State) (ag al : BitVec 4) (sdesc : BitVec 5) (tag : BitVec 4) (sh : RowShape) (wc : RowWidth), s.Ready → s.calendar.hold = false →
    let desc := (s.sReg sdesc).toNat
    let signed (v : Nat) : Int := if v < 2 ^ 23 then (v : Int) else v - 2 ^ 24
    let rows := desc % 2 ^ 16 + 1
    let f := s.me.flow
    let old := s.me.mem.tags.get tag.toFin
    let shape (kind : BulkKind) : RowShape := match kind with | .get | .put => sh | _ => .row wc
    let b (kind : BulkKind) : Bulk :=
      { id := f.nextId, bun := f.bun, tag := tag, kind := kind, shape := shape kind, g := s.aReg ag, l := s.aReg al
        gstride := signed (desc / 2 ^ 40), lstride := signed (desc / 2 ^ 16 % 2 ^ 24), rows := rows, pages := [], promise := 0 }
    let start (k : Nat) : Nat := 2560 * k
    let len (k : Nat) : Nat := if k % 1024 = 0 then 4096 else 128
    let starts (i : Instr) (kind : BulkKind) (need : Need) (size : Nat) : Prop :=
      let r := s.bulkCheck need (b kind) size 0 rows
      let width := (shapePlaces (shape kind) 0).length
      let inOrder := s.me.scBusy = true → ∀ j < rows, ∀ p ∈ s.page? need (BitVec.ofNat 64 ((b kind).global j)) width, p.1.sc = false
      let full (pages : List (Nat × Nat) × Bool) : Bulk := { b kind with pages := pages.1, sc := pages.2 }
      let cost := Min.min (1 + (rows * width + 4095) / 4096) (s.die s.myDie).grant.cap
      (¬ inOrder → exec i s = .next (s.modMe (·.held .scOrder))) ∧
      (inOrder → s.me.ctl.bal < cost → exec i s = .next (s.modMe (·.held .tokens))) ∧
      (inOrder → cost ≤ s.me.ctl.bal → s.MayTrap → ∀ t, r.2 = .error t → exec i s = .next (r.1.modMe (·.faulted 5 t))) ∧
      (inOrder → cost ≤ s.me.ctl.bal → ∀ pages, r.2 = .ok pages → ∃ p : Nat, exec i s =
        .next (({ (if (full pages).puts then r.1.dropRuns s.cur ((full pages).globalRuns rows) else r.1) with fresh := s.fresh + 1 } : State).modMe fun x =>
          ((x.sent []).retired.modCtl fun t => { t with bal := t.bal - cost }).modMem fun m =>
            { m with
              bulk := m.bulk ++ [{ full pages with promise := p }]
              tags := m.tags.set tag.toNat
                { old with isOpen := true, promise := if old.isOpen then Max.max old.promise p else p } tag.isLt }) ∧
        s.now < p ∧ (∀ e ∈ s.me.mem.bulk, s.bulksMeet s.cur e (full pages) = true → e.promise ≤ p) ∧
        ∀ k, 0 < k → s.now ≤ start k → start k ≤ p → start k + len k < p)
    starts (.bget ag al sdesc tag sh) .get .bulkRead 262144 ∧ starts (.bput ag al sdesc tag sh) .put .bulkWrite 262144 ∧
    starts (.bgetsh ag al sdesc tag wc) .getsh .bulkRead 2097152 ∧ starts (.bputsh ag al sdesc tag wc) .putsh .bulkWrite 2097152

/-- R221, R223, R237, R265, R267, R355: a transfer goes on by one access. A read at home takes the next line part of its row; one of a window page takes the
row whole, as others see it where the scratchpad is another core's; when all is there the row is written on the local side, and nothing else
of it; a row of the local side is read whole and its line parts are issued, to be performed one by one, or, for a window page, as one write. -/
def Claims.BulkTransfersMoveTheirRows : Prop :=
  ∀ (s : State) (c i e at_ : Nat) (b : Bulk), s.MemCanonical → s.bulkReady c i = some b → b.isOut = false → b.next < b.rows → s.badLines = [] →
    s.lostModules = [] →
    fitsIn (if b.shared then 2097152 else 262144) b.shape (b.loc b.next) = true →
    let k := clusterOf c
    let home := b.pa (b.global b.next)
    let places := shapePlaces b.shape (b.loc b.next)
    let size := places.length
    let parts := (size + 127) / 128
    let len (p : Nat) : Nat := Min.min 128 (size - 128 * p)
    let byte (t : State) (o : Nat) : Byte := if b.shared then t.sramByte k o else t.spadByte c o
    let reads := b.kind = .get ∨ b.kind = .getsh
    let t := s.bulkRow c i
    let now (x : Bulk) : Prop := (t.core c).mem.bulk = (s.core c).mem.bulk.set i x
    let sum (f : Nat → Byte) : Nat := ((List.range size).map fun n => (f (at_ + n)).toNat * 256 ^ n).sum
    let row (n : Nat) : Byte := byte s (places.getD n 0)
    t.hbm = s.hbm ∧ (∀ o, o ≠ c → t.core o = s.core o) ∧
    (reads → b.part < parts → ∀ o, byte t o = byte s o) ∧
    (reads → b.part < parts → s.place home = .spad e at_ → now
      { b with part := parts, acc := sum fun n => if e = c then s.spadByte e n else s.remoteByte e n }) ∧
    (reads → b.part < parts → s.place home = .sram e at_ → now { b with part := parts, acc := sum (s.sramByte e) }) ∧
    (reads → b.part < parts → s.place home = .hbm → now { b with part := b.part + 1, acc := b.acc + memRead s.hbm (home + 128 * b.part) (len b.part) * 2 ^ (1024 * b.part) }) ∧
    (reads → parts ≤ b.part → now { b with next := b.next + 1, part := 0, acc := 0 } ∧
      (∀ n < size, byte t (places.getD n 0) = BitVec.ofNat 8 (b.acc / 256 ^ n)) ∧ ∀ o, o ∉ places → byte t o = byte s o) ∧
    (¬ reads → now { b with next := b.next + 1 } ∧ (∀ o, byte t o = byte s o) ∧
      (t.core c).mem.outs = (s.core c).mem.outs ++
        if s.place home = .hbm then (List.range parts).map fun p =>
          ⟨some b.id, b.bun, .line (home + 128 * p) ((List.range (len p)).map fun n => row (128 * p + n)), false⟩
        else [⟨some b.id, b.bun, .line home ((List.range size).map row), false⟩])

/-- R235, R355, R357, R366, R420: a write that an engine has issued is performed at its home by itself: behind the earlier ones of its core to the same
line, and, of a drain to an SC page, behind the earlier ones of such drains; or, for the core's own scratchpad, behind all of those; not while a maintenance slot, or a lock over its banks, holds it. It changes its own
bytes and no others. A write to a window page goes to the storage behind it. The order of those writes is log entry 24. -/
def Claims.EngineWritesArePerformed : Prop :=
  ∀ (s : State) (c i : Nat) (o : OutWrite), (s.core c).mem.outs[i]? = some o → s.badLines = [] → s.lostModules = [] → s.MemCanonical →
    let l := (s.core c).mem.outs
    let t := s.engineWrite c i
    let gone := (t.core c).mem.outs = l.eraseIdx i
    (∀ pa bytes, o.dest = .line pa bytes → s.place pa = .hbm →
      let first := ∀ e ∈ l.take i, (∀ q w, e.dest = .line q w → q / 128 ≠ pa / 128) ∧ (o.sc = true → e.sc = false)
      (first → s.calendar.hold = false → gone ∧ (∀ n < bytes.length, memGet t.hbm (pa + n) = bytes.getD n 0) ∧
        (∀ a, a < pa ∨ pa + bytes.length ≤ a → memGet t.hbm a = memGet s.hbm a) ∧ ∀ e, (t.core e).mem.spad = (s.core e).mem.spad) ∧
      (¬ first ∨ s.calendar.hold = true → t = s)) ∧
    (∀ pa bytes k w, o.dest = .line pa bytes →
      let first := ∀ e ∈ l.take i, (∀ q w, e.dest = .line q w → q / 128 ≠ pa / 128) ∧ (o.sc = true → e.sc = false)
      let locked := s.lockedAt pa bytes.length
      (s.place pa = .sram k w → first → s.calendar.hold = false → gone ∧ t.hbm = s.hbm ∧
        (∀ n < bytes.length, w + n < 2097152 → t.sramByte k (w + n) = bytes.getD n 0) ∧
        ∀ a, a < w ∨ w + bytes.length ≤ a → t.sramByte k a = s.sramByte k a) ∧
      (s.place pa = .spad k w → first → s.calendar.hold = false → locked = false → gone ∧ t.hbm = s.hbm ∧
        (∀ n < bytes.length, w + n < 262144 → t.spadByte k (w + n) = bytes.getD n 0) ∧
        ∀ a, a < w ∨ w + bytes.length ≤ a → t.spadByte k a = s.spadByte k a) ∧
      (s.place pa ≠ .hbm → ¬ first ∨ s.calendar.hold = true ∨ locked = true → t = s)) ∧
    (∀ cells, o.dest = .spad cells →
      let first := ∀ e ∈ l.take i, ∀ w, e.dest ≠ .spad w
      let locked := (s.core c).lockHolds (cells.map fun p => bankOf p.1)
      (first → locked = false → gone ∧ t.hbm = s.hbm ∧ (∀ a, a ∉ cells.map (·.1) → t.spadByte c a = s.spadByte c a) ∧
        ((cells.map (·.1)).Nodup → ∀ p ∈ cells, p.1 < 262144 → t.spadByte c p.1 = p.2)) ∧
      (¬ first ∨ locked = true → t = s))

/-- R268, R331, R339, R350: a transfer is complete, and leaves its core, when every row is moved and every write of it performed; until then it stays. A
CNOUT then releases its root, if the pool that it belongs to is still in service.
Completion is stated of: bulkTransferComplete. -/
def Claims.BulkTransfersComplete : Prop :=
  ∀ (s : State) (c i : Nat) (b : Bulk), (s.core c).mem.bulk[i]? = some b →
    let m := (s.core c).mem
    let ended := (if b.isOut then b.work = [] else b.rows ≤ b.next) ∧ ∀ o ∈ m.outs, o.bulk ≠ some b.id
    let left := s.modCore c fun x => x.modMem fun m => { m with bulk := m.bulk.eraseIdx i }
    let done (t : State) : Prop := exec (.bulkTransferComplete c i) s = .next (t.endFences c)
    (¬ ended → exec (.bulkTransferComplete c i) s = .next s) ∧
    (ended → b.isOut = false → done left) ∧
    (ended → ∀ root d, b.kind = .cnout root d →
      done (if root ≠ 0 ∧ s.pool.base.getLsbD 0 = true ∧ s.pool.epoch = b.epoch then left.decName c root else left))

/-- R141, R268: BWAIT of a closed tag goes on; of an open one it freezes until the promise, and then closes it if its transfers are complete, or takes the
missed-promise trap, after which it waits. A transfer of its own bundle opens the tag anew. BPROM tells the promise.
Completion is stated of: bwait, bprom. -/
def Claims.BulkTagsWaitForTheirPromise : Prop :=
  ∀ (s : State) (tag : BitVec 4) (d : BitVec 5), s.Ready →
    let t := s.me.mem.tags.get tag.toFin
    let complete := ∀ b ∈ s.me.mem.bulk, b.tag ≠ tag
    let i := Instr.bwait tag
    let waits := exec i s = .next (s.modMe (·.held (.promise tag)))
    let closes := exec i s = .next (s.modMe fun x => x.retired.modMem fun m => { m with tags := m.tags.set tag.toNat {} tag.isLt })
    (t.isOpen = false → exec i s = .next (s.modMe Core.retired)) ∧
    (t.isOpen = true → t.missed = false → s.now < t.promise → waits) ∧
    (t.isOpen = true → t.missed = false → t.promise ≤ s.now → complete → closes) ∧
    (t.isOpen = true → t.missed = false → t.promise ≤ s.now → (∃ b ∈ s.me.mem.bulk, b.tag = tag ∧ b.bun ≠ s.me.flow.bun) → s.MayTrap → exec i s = .next (s.modMe fun x =>
      (x.modMem fun m => { m with tags := m.tags.set tag.toNat { t with missed := true } tag.isLt }).faulted 5 ⟨0x10, tag.setWidth 64⟩)) ∧
    (t.isOpen = true → t.missed = false → t.promise ≤ s.now → (∀ b ∈ s.me.mem.bulk, b.tag = tag → b.bun = s.me.flow.bun) → ¬ complete →
      ∃ p : Nat, exec i s = .next (s.modMe fun x => x.retired.modMem fun m =>
          { m with tags := m.tags.set tag.toNat { isOpen := true, promise := p } tag.isLt }) ∧
        (∃ b ∈ s.me.mem.bulk, b.tag = tag ∧ b.promise = p) ∧ ∀ b ∈ s.me.mem.bulk, b.tag = tag → b.promise ≤ p) ∧
    (t.isOpen = true → t.missed = true → ¬ complete → waits) ∧ (t.isOpen = true → t.missed = true → complete → closes) ∧
    exec (.bprom d tag) s = .next (s.modMe fun x => x.retired.modRegs (·.setS d (BitVec.ofNat 64 (if t.isOpen then t.promise else 0))))

/-- Bulk transfers start under their tag, move their rows and keep their promise. -/
def Obligations.BulkTransfersAndTags : Prop :=
  Claims.BulkTransfersStartUnderTheirTag ∧ Claims.BulkTransfersMoveTheirRows ∧ Claims.EngineWritesArePerformed ∧ Claims.BulkTransfersComplete ∧ Claims.BulkTagsWaitForTheirPromise

/-- R247, R278 to R281: a fence enters the queues behind the accesses of its core, and leaves when those it names are performed; one with an empty
mask does nothing, and MARK is a fence of scope core. An acquire fence of a wide scope clears the read cache as it leaves.
Completion is stated of: fence, mark. -/
def Obligations.FencesLeaveWhenEarlierAccessesAreDone : Prop :=
  ∀ (s : State) (pred succ : BitVec 8) (sc : Scope), s.Ready →
    let f := s.me.flow
    let acq := decide ((pred.getLsbD 0 = true ∨ pred.getLsbD 2 = true) ∧ succ ≠ 0)
    let entry : MemOp := { id := f.nextId, bun := f.bun, kind := .fence pred succ sc, acq := acq, scope := sc }
    (pred = 0 ∨ succ = 0 → exec (.fence pred succ sc) s = .next (s.modMe Core.retired)) ∧
    (pred ≠ 0 → succ ≠ 0 → ∃ t : State,
      exec (.fence pred succ sc) s = .next t ∧ t = (s.modMe fun x => (x.sent [entry]).retired).endFences s.cur ∧
      (∀ e ∈ t.me.mem.memq, e.fenceDone t s.cur = false) ∧ (∀ e ∈ s.me.mem.memq, e.isFence = false → e ∈ t.me.mem.memq) ∧
      t.hbm = s.hbm ∧ t.me.regs = s.me.regs) ∧
    (pred ≠ 0 → succ ≠ 0 → s.me.mem.memq = [] → s.me.mem.bulk = [] → s.me.mem.outs = [] → s.me.mem.unseen = [] →
      s.me.mem.owed = [] → s.me.mat.cmds = [] → s.reaping = [] → s.me.flow.save = none →
      exec (.fence pred succ sc) s = .next (
        let t := s.modMe fun x => (x.sent []).retired
        if acq = true ∧ sc ∈ [.die, .module, .domain] then t.modCluster (clusterOf s.cur) fun k =>
          { k with cache := k.cache.filter fun e => s.poolLine e.line, fills := k.fills.filter fun e => s.poolLine e.line }
        else t)) ∧
    exec .mark s = exec (.fence 7 7 .core) s

/-- R386 to R390, R393: a contribution to a window in service goes to its home with the value, the index of CTL.WINIDX, its order and its scope; it
faults where no window holds its address, or the window is of another operation or element type; on an SC page it waits for the core's earlier
accesses to such pages (R366).
Completion is stated of: wadd, wmax, wfadd. -/
def Claims.ContributionsAreSentToTheirWindow : Prop :=
  ∀ (s : State) (a b : BitVec 5) (sc : Scope) (rel : Bool), s.Ready → s.mayWalk (s.sReg a) = true →
    let f := s.me.flow
    let va := s.sReg a
    let bytes (w : AWidth) : Nat := match w with | .w32 => 4 | .w64 => 8 | .w128 => 16
    let value (w : AWidth) : Nat := match w with
      | .w32 => (s.sReg b).toNat % 2 ^ 32
      | .w64 => (s.sReg b).toNat
      | .w128 => (s.sReg b).toNat + 2 ^ 64 * (s.sReg (b + 1)).toNat
    let field (k lo len : Nat) : Nat := (s.window k).cfg.toNat / 2 ^ lo % 2 ^ len
    let goes (i : Instr) (op : Nat) (types : List Nat) (w : AWidth) : Prop :=
      va.toNat % bytes w = 0 → ∀ p ∈ s.page? .window va (bytes w),
        let t := s.walked .window va (bytes w)
        let holds (k : Nat) : Bool := field k 63 1 == 1 && decide ((s.window k).first ≤ p.2) && decide (p.2 < (s.window k).last)
        (¬ s.InScOrder p.1 → exec i s = .next (s.modMe (·.held .scOrder))) ∧
        (s.InScOrder p.1 → (∀ k < 16, holds k = false) → s.MayTrap → exec i s = .next (t.modMe (·.faulted 5 ⟨0x09, va⟩))) ∧
        (s.InScOrder p.1 → ∀ k < 16, holds k = true → (∀ j < k, holds j = false) →
          (¬ (field k 60 3 = op ∧ field k 58 2 ∈ types) → s.MayTrap → exec i s = .next (t.modMe (·.faulted 5 ⟨0x03, va⟩))) ∧
          (field k 60 3 = op ∧ field k 58 2 ∈ types → exec i s = .next (t.modMe fun x =>
            (x.sent [{ id := f.nextId, bun := f.bun, kind := .contrib (BitVec.ofNat 4 k) (value w) s.me.ctl.winIdx, pa := p.2, len := bytes w
                       rel := rel, scope := sc, scPage := p.1.sc }]).retired)))
    goes (.wadd .w32 a b sc rel) 0 [0, 1] .w32 ∧ goes (.wadd .w64 a b sc rel) 0 [2] .w64 ∧
    goes (.wmax .w32 a b sc rel) 2 [0, 1, 3] .w32 ∧ goes (.wmax .w64 a b sc rel) 2 [2] .w64 ∧ goes (.wfadd a b sc rel) 1 [3] .w32

/-- R386, R387: a write of CTL.WCFG, due 32 ticks after it issued, puts a disabled window into service with no partials and no rounds, or
is ignored with an error-log entry where the configuration is not allowed; while a window is in service it can only clear EN, which
discards and counts its partials.
Completion is stated of: windowEnable, windowDisable. -/
def Claims.WindowsAreEnabledAndDisabled : Prop :=
  ∀ (s : State) (w : BitVec 4) (v : Word) (l : LateWrite) (rest : List LateWrite), s.late = l :: rest → l.at_ ≤ s.now →
    l.creg.toNat = 0x431 + 4 * w.toNat → l.v = v →
    let k := w.toNat
    let x := s.window k
    let t : State := { s with late := rest }
    let f (lo len : Nat) : Nat := v.toNat / 2 ^ lo % 2 ^ len
    let en := x.cfg.toNat / 2 ^ 63
    let low := x.base.toNat / 2 ^ 7 % 2 ^ 52 * 128
    let high := low + (f 0 16 + 1) * 128
    let done := x.done.toNat / 8 % 2 ^ 56 * 8
    let lies (a n : Nat) : Prop := a / 2 ^ 48 < s.domSize.toNat ∧ a / 2 ^ 48 < 1152 ∧ a % 2 ^ 48 + n ≤ 0xC000000000
    let allowed : Prop :=
      (f 60 3 = 0 ∧ f 58 2 < 3 ∨ f 60 3 = 1 ∧ f 58 2 = 3 ∨ f 60 3 = 2) ∧ f 24 24 ≠ 0 ∧ lies low (high - low) ∧ lies done 8 ∧
      done / 2 ^ 48 = low / 2 ^ 48 ∧ (f 57 1 = 0 → low / 2 ^ 48 = s.domMod.toNat) ∧
      ∀ j < 16, j ≠ k → (s.window j).en = true → (s.window j).last ≤ low ∨ high ≤ (s.window j).first
    (f 63 1 = 1 → en = 1 → exec (.windowEnable w v) s = .next t) ∧
    (f 63 1 = 1 → en = 0 → ¬ allowed → exec (.windowEnable w v) s = .next (t.logError l.die 0x50 [])) ∧
    (f 63 1 = 1 → en = 0 → allowed → exec (.windowEnable w v) s =
      .next (t.modWindow k fun y => { y with cfg := v &&& 0xFE00FFFFFF00FFFF, rounds := 0, partials := [] })) ∧
    (f 63 1 = 0 → en = 0 → exec (.windowDisable w v) s = .next (t.modWindow k fun y => { y with cfg := v &&& 0xFE00FFFFFF00FFFF })) ∧
    (f 63 1 = 0 → en = 1 → ∃ t : State, exec (.windowDisable w v) s = .next t ∧ t.late = rest ∧ t.hbm = s.hbm ∧ t.partials k = [] ∧
      t.window k = { x with
        cfg := BitVec.ofNat 64 (x.cfg.toNat - 2 ^ 63), partials := if x.atSwitch then x.partials else []
        discard := BitVec.ofNat 16 (Min.min 65535 (x.discard.toNat + ((s.partials k).map fun p => p.2.length).sum)) } ∧
      ∀ j < 16, j ≠ k → t.window j = s.window j)

/-- R386, R391 to R393, R450: the home of a window, or the switch, takes a contribution into its element's partial set; one whose index is too
large or already there is discarded, counted and logged. The contribution that completes the set folds it over the element's value in
ascending order of index, whatever the order of arrival, writes the element, empties the set, adds one to the rounds, and leaves an addition
to the completion word, which is performed as an access of its own. A contribution that the home module of a switch-homed window refuses for
its configuration is discarded and logged besides with kind 0x52; one from a peer with another configuration is discarded, its entries being
the peer's. While a maintenance slot holds the links, what a peer sends waits there. What a window homed elsewhere takes from its home module
and what is counted here are log entry 48; a release of a narrow scope is noted by the element and by the completion word (log entry 72).
Completion is stated of: windowContribution, switchMerge. -/
def Claims.ContributionsFoldInIndexOrder : Prop :=
  ∀ (s : State) (c i : Nat) (m : MemOp) (w : BitVec 4) (v : Nat) (idx : BitVec 24) (pa : Nat) (peer value : Word), s.badLines = [] →
    s.lostModules = [] →
    let k := w.toNat
    let x := s.window k
    let f (cfg : Word) (lo len : Nat) : Nat := cfg.toNat / 2 ^ lo % 2 ^ len
    let elsewhere : Bool := f x.cfg 57 1 == 1 && x.first / 2 ^ 48 != s.domMod.toNat
    let known : Option (Word × Word) := if elsewhere then s.homeCfgs.lookup k else none
    let cfg : Word := (known.map (·.1)).getD x.cfg
    let done := ((known.map (·.2)).getD x.done).toNat / 8 % 2 ^ 56 * 8
    let count := f cfg 24 24
    let type := f cfg 58 2
    let size := if type = 2 then 8 else 4
    let sg (a : Nat) : Int := if a < 2 ^ (8 * size - 1) then a else a - 2 ^ (8 * size)
    let op (a b : Nat) : Nat := match f cfg 60 3 with
      | 0 => (a + b) % 2 ^ (8 * size)
      | 1 => rne fp32 (valAdd false (decodeFloat fp32 a) (decodeFloat fp32 b))
      | _ => if type = 1 then Max.max a b
             else if type = 3 then rne fp32 (valMax (decodeFloat fp32 a) (decodeFloat fp32 b))
             else if sg a < sg b then b else a
    let fold (set : List (Nat × Nat)) (old : Nat) : Nat := (List.range count).foldl (fun a j => op a ((set.lookup j).getD 0)) old
    let counted (t : State) : State :=
      t.modWindow k fun y => { y with discard := BitVec.ofNat 16 (Min.min 65535 (y.discard.toNat + 1)) }
    let refused : Bool := f x.cfg 63 1 == 0 || decide (count ≤ idx.toNat) || (mapGet [] pa (s.partials k)).any fun p => p.1 == idx.toNat
    let differs (a : Word) : Prop := f a 60 3 ≠ f cfg 60 3 ∨ f a 58 2 ≠ type ∨ f a 24 24 ≠ count
    let said (t : State) : State := t.logError (dieOf c) 0x51 [BitVec.ofNat 64 (k * 2 ^ 40 + idx.toNat)]
    let takes (ev : Instr) (who : Option (Nat × Nat)) (fin : State → State) (left lost : State) (v : Nat) : Prop :=
      let set := mapGet [] pa (s.partials k) ++ [(idx.toNat, v)]
      (refused = true → exec ev s = .next (fin lost)) ∧
      (refused = false → ∃ t : State, exec ev s = .next (fin t) ∧ (∀ j < 16, j ≠ k → t.window j = s.window j) ∧
        (t.window k).discard = x.discard ∧ (t.core c).mem = (left.core c).mem ∧ t.releases = left.releases ∧
        (set.length < count → t.hbm = s.hbm ∧ t.partials k = mapSet pa set (s.partials k) ∧ (t.window k).rounds = x.rounds ∧
          t.doneAdds = s.doneAdds) ∧
        (count ≤ set.length → t.hbm = memWrite s.hbm pa size (fold set (memRead s.hbm pa size)) ∧
          t.partials k = mapDel pa (s.partials k) ∧ (t.window k).rounds = x.rounds + 1 ∧ t.doneAdds = s.doneAdds ++ [⟨done, who⟩]))
    (s.eligible c i = some m → m.kind = .contrib w v idx → m.pa = pa →
      let release (a : Nat) : NarrowRelease := ⟨a / 128, c, m.id, m.bun, m.scope⟩
      let noted : State :=
        if m.rel = true ∧ m.scope ∉ [.module, .domain] ∧ (s.outstanding (release pa) || s.outstanding (release done)) = true then
          { s with releases := s.releases.filter s.outstanding ++ [release pa, release done] }
        else s
      let left : State := noted.modCore c fun y => y.modMem fun q => { q with memq := q.memq.eraseIdx i }
      (differs x.cfg → exec (.windowContribution c i) s = .next (((said (counted left)).logError (dieOf c) 0x52 []).endFences c)) ∧
      (¬ differs x.cfg → takes (.windowContribution c i) ((s.nodeOf c).map fun n => (c, n)) (·.endFences c) left (said (counted left)) v)) ∧
    (s.calendar.hold = true ∨ s.linkQ ≠ [] → exec (.switchMerge w pa idx value peer) s =
      .next { s with linkQ := s.linkQ ++ [.contrib w pa idx value peer] }) ∧
    (s.calendar.hold = false → s.linkQ = [] → f x.cfg 63 1 = 1 → f cfg 57 1 = 1 → x.first ≤ pa → pa < x.first + (f cfg 0 16 + 1) * 128 →
      pa % size = 0 →
      (differs peer → exec (.switchMerge w pa idx value peer) s = .next (counted s)) ∧
      (¬ differs peer → takes (.switchMerge w pa idx value peer) none id s (counted s) (value.toNat % 2 ^ (8 * size)))) ∧
    ∀ a b : List (Nat × Nat), a.Perm b → (a.map (·.1)).Nodup → ∀ old, fold a old = fold b old

/-- R355, R391, R420, R450: the addition that a completed round has left to its completion word: one is added there, wrapping at 2^64, and
no other byte of HBM changes; a maintenance slot holds it back. -/
def Claims.CompletionWordsCountRounds : Prop :=
  ∀ (s : State) (i : Nat) (a : DoneAdd), s.doneAdds[i]? = some a → s.badLines = [] → s.lostModules = [] →
    (s.calendar.hold = true → s.addDone i = s) ∧
    (s.calendar.hold = false →
      (s.addDone i).hbm = memWrite s.hbm a.pa 8 ((memRead s.hbm a.pa 8 + 1) % 2 ^ 64) ∧ (s.addDone i).doneAdds = s.doneAdds.eraseIdx i ∧
      (s.addDone i).windows = s.windows ∧ (s.addDone i).switchParts = s.switchParts)

/-- Reduction windows: contributions are sent, and fold in index order. -/
def Obligations.ReductionWindows : Prop :=
  Claims.ContributionsAreSentToTheirWindow ∧ Claims.WindowsAreEnabledAndDisabled ∧ Claims.ContributionsFoldInIndexOrder ∧ Claims.CompletionWordsCountRounds

/-- R332, R343 to R350: the content-named operations that need the directory send it their request and freeze until its verdict; a name, class or
child that is malformed faults first, a class before the read of the row (R226, R345). What CNSWAP has checked at issue goes with its request (log
entry 19); a CNLOOK that something holds waits in the queue (log entries 28 and 49); the latch is CNGET's (log entry 29). -/
def Claims.ContentNamedOperationsAskTheDirectory : Prop :=
  ∀ (s : State) (n m : BitVec 5) (row : RowOp) (qtr : BitVec 2) (land : BitVec 10) (a : BitVec 5) (sc : Scope), s.Ready →
    s.me.buffered < 64 → s.calendar.hold = false →
    let name (r : BitVec 5) : BitVec 128 := s.sReg (r + 1) ++ s.sReg r
    let named (x : BitVec 128) : Bool := decide (x.toNat % 2 ^ 8 = 0 ∧ x.toNat / 2 ^ 8 % 2 ^ 8 ≤ 1)
    let cls : BitVec 8 := BitVec.ofNat 8 ((s.sReg n).toNat / 2 ^ 8)
    let data : BitVec 1024 := (s.rowBits .FP32 row).extractLsb' (1024 * qtr.toNat) 1024
    let child (k : Nat) : BitVec 128 := data.extractLsb' (128 * k) 128
    let asksOn (t : State) (i : Instr) (q : CnReq) (sc : Bool) : Prop := exec i s = .next (t.modMe fun x =>
      (x.held .verdict).modMem fun w => { w with cn := [{ slot := 5, req := q, sc := sc }] })
    let asks (i : Instr) (q : CnReq) : Prop := asksOn s i q false
    let faults (i : Instr) : Prop := s.MayTrap → exec i s = .next (s.modMe (·.faulted 5 ⟨0x03, 0⟩))
    (s.Reads row → s.me.rowTag row ≠ .EMPTY →
      ((cls = 0 ∨ cls = 1 ∧ ∀ k < 8, named (child k) = true) → data ≠ 0 → asks (.cnput n row qtr land) (.put cls data)) ∧
      ((2 ≤ cls.toNat ∨ cls = 1 ∧ ∃ k < 8, named (child k) = false) → faults (.cnput n row qtr land))) ∧
    (∀ (q : BitVec 3) (b : Stream), row = .q q → s.me.stream? q = some b → b.write = false → b.tag ≠ .EMPTY → b.total ≤ b.pos →
      (2 ≤ cls.toNat → faults (.cnput n row qtr land)) ∧
      (cls.toNat ≤ 1 → s.MayTrap → exec (.cnput n row qtr land) s = .next (s.modMe (·.faulted 5 ⟨0x11, q.setWidth 64⟩)))) ∧
    (named (name n) = true → name n ≠ 0 → asks (.cnref n) (.ref (name n)) ∧ asks (.cndrop n) (.drop (name n)) ∧
      (row.isReg = true → asks (.cnget n row qtr land) (.get (name n)))) ∧
    (named (name n) = false → faults (.cnref n) ∧ faults (.cndrop n) ∧ (row.isReg = true → faults (.cnget n row qtr land))) ∧
    (name n = 0 → exec (.cnref n) s = .next (s.modMe Core.retired) ∧ exec (.cndrop n) s = .next (s.modMe Core.retired)) ∧
    ((s.sReg a).toNat % 32 = 0 →
      let u := s.walked .root (s.sReg a) 16
      let i := Instr.cnswap n a m sc
      (∀ p ∈ s.page? .root (s.sReg a) 16,
        (¬ s.InScOrder p.1 → exec i s = .next (s.modMe (·.held .scOrder))) ∧
        (s.InScOrder p.1 → named (name n) = true → named (name m) = true → asksOn u i (.swap p.2 (name n) (name m) sc) p.1.sc) ∧
        (s.InScOrder p.1 → (named (name n) && named (name m)) = false → s.MayTrap → exec i s = .next (u.modMe (·.faulted 5 ⟨0x03, 0⟩)))) ∧
      ∀ t ∈ s.pageTrap? .root (s.sReg a) 16, s.MayTrap → exec i s = .next (u.modMe (·.faulted 5 t))) ∧
    ((s.sReg a).toNat % 32 ≠ 0 → s.MayTrap → exec (.cnswap n a m sc) s = .next (s.modMe (·.faulted 5 ⟨0x0A, s.sReg a⟩)))

/-- R140, R247, R332, R345 to R349: with its verdict the operation goes on: it takes the verdict's fault, or the name or the quarter of a row that the
directory gave is on its way, into LC0 as the latch (log entry 29). A CNPUT of zero data has the name 0, and a CNGET of the name 0 gives zeros, without a
request; and CNHASH and CNLOOK, which ask nothing, land the name of the data, the former computed and the latter that of the entry that holds
them, or 0; a lookup that a fence or the setting of the pool holds goes on from the queue, and its core does not freeze (log entries 28, 49).
Completion is stated of: cnput, cnget, cnref, cndrop, cnswap, cnlook, cnhash. -/
def Claims.ContentNamedResultsLand : Prop :=
  ∀ (s : State) (v : CnVerdict) (n m : BitVec 5) (pa : Nat) (x y : BitVec 128) (z : Scope) (row : RowOp) (qtr : BitVec 2) (land : BitVec 10) (a : BitVec 5) (sc : Scope),
    s.me.buffered < 64 → s.calendar.hold = false →
    let cls : BitVec 8 := BitVec.ofNat 8 ((s.sReg n).toNat / 2 ^ 8)
    let data : BitVec 1024 := (s.rowBits .FP32 row).extractLsb' (1024 * qtr.toNat) 1024
    let name (r : BitVec 5) : BitVec 128 := s.sReg (r + 1) ++ s.sReg r
    let named (x : BitVec 128) : Bool := decide (x.toNat % 2 ^ 8 = 0 ∧ x.toNat / 2 ^ 8 % 2 ^ 8 ≤ 1)
    let okLine : Bool := cls == 0 || (cls == 1 && (List.range 8).all fun k => named (data.extractLsb' (128 * k) 128))
    let bun := s.me.flow.bun
    let pair (left : Nat) (r : BitVec 5) (x : BitVec 128) (buf : Bool) : List Pending :=
      [{ left := left, res := .scalar r false (x.extractLsb' 0 64), buf := buf, young := false, slot := 5, bun := bun },
       { left := left, res := .scalar (r + 1) false (x.extractLsb' 64 64), young := false, slot := 5, bun := bun }]
    let lands (i : Instr) (t : State) (l : List Pending) : Prop := exec i s = .next ((t.modMe fun x => x.retired.expecting l).landDue s.cur)
    let faults (i : Instr) : Prop := s.MayTrap → ∀ t ∈ v.fault, exec i s = .next (s.modMe (·.faulted 5 t))
    let left := land.toNat - 1
    let quarter (old : RowBits) (l : BitVec 1024) : RowBits := BitVec.ofNat 4096
      (((List.range 4).map fun k => (if k = qtr.toNat then l else old.extractLsb' (1024 * k) 1024).toNat * 2 ^ (1024 * k)).sum)
    let hash : BitVec 128 := if data = 0 then 0 else namePrefix cls data ++ 0#16 ++ cls ++ 0#8
    (s.Judged v →
      (s.Reads row → s.me.rowTag row ≠ .EMPTY → okLine = true →
        (v.fault = none → lands (.cnput n row qtr land) s.unjudged (pair left n v.name true)) ∧ faults (.cnput n row qtr land)) ∧
      (named (name n) = true →
        (v.fault = none → exec (.cnref n) s = .next (s.unjudged.modMe Core.retired) ∧
          exec (.cndrop n) s = .next (s.unjudged.modMe Core.retired) ∧
          (row.isReg = true → lands (.cnget n row qtr land) s.unjudged
            [{ left := left, res := .row (s.me.regs.dest row) (quarter (s.rowBits .FP32 row) v.data)
                 (if s.me.rowTag row = .EMPTY then .N8 else s.me.rowTag row) (some .LC0), buf := true, young := false, slot := 5, bun := bun }])) ∧
        faults (.cnref n) ∧ faults (.cndrop n) ∧ (row.isReg = true → faults (.cnget n row qtr land))) ∧
      ((∀ p ∈ s.page? .root (s.sReg a) 16, s.InScOrder p.1) →
        (v.fault = none → v.req = .swap pa x y z → lands (.cnswap n a m sc) (s.unjudged.cacheWithout [pa / 128]) (pair 31 n v.name false)) ∧
        faults (.cnswap n a m sc))) ∧
    (s.Ready → s.Reads row → s.me.rowTag row ≠ .EMPTY → cls.toNat ≤ 1 → data = 0 → lands (.cnput n row qtr land) s (pair left n 0 true)) ∧
    (s.Ready → row.isReg = true → name n = 0 → lands (.cnget n row qtr land) s
      [{ left := left, res := .row (s.me.regs.dest row) (quarter (s.rowBits .FP32 row) 0)
           (if s.me.rowTag row = .EMPTY then .N8 else s.me.rowTag row) (some .LC0), buf := true, young := false, slot := 5, bun := bun }]) ∧
    (s.Ready → s.Reads row → s.me.rowTag row ≠ .EMPTY → cls.toNat ≤ 1 →
      lands (.cnhash n row qtr land) s (pair left n hash false) ∧
      let waits := (∃ e ∈ s.me.mem.memq, e.holds bun 7 = true) ∨ s.pool.setting = true
      let look := Instr.cnlook n row qtr land
      (data = 0 → lands look s (pair left n 0 false)) ∧
      (data ≠ 0 → s.poolEn = false → s.MayTrap → exec look s = .next (s.modMe (·.faulted 5 ⟨0x14, 3⟩))) ∧
      (data ≠ 0 → s.poolEn = true → ¬ waits →
        lands look s (pair left n (match s.findData cls data with | some i => (s.dirEntry i).name | none => 0) false)) ∧
      (data ≠ 0 → s.poolEn = true → waits →
        let id := s.me.flow.nextId
        let part (r : BitVec 5) (k : Nat) : Pending :=
          { left := left, res := .scalar r false 0, id := id, part := k, need := 1, ready := false, young := false, slot := 5, bun := bun }
        exec look s = .next (s.modMe fun x =>
          (x.sent [{ id := id, bun := bun, kind := .look cls data }]).retired.expecting [part n 0, part (n + 1) 1])))

/-- R154, R268, R344, R350: CNOUT starts a transfer of the leaves below its root under its tag, with the pages that it has checked at issue, once the directory has
found the root; the root 0 needs no verdict. The lines that it will write leave the read cache of its cluster (R247).
Completion is stated of: cnout. -/
def Claims.ContentNamedOutputStartsATransfer : Prop :=
  ∀ (s : State) (v : CnVerdict) (ag al : BitVec 4) (r : BitVec 5) (tag : BitVec 4), s.calendar.hold = false →
    let root : BitVec 128 := s.sReg (r + 1) ++ s.sReg r
    let d := (s.aReg al).toNat
    let f := s.me.flow
    let old := s.me.mem.tags.get tag.toFin
    let acc := s.outAccess ag al r
    let i := Instr.cnout ag al r tag
    let size := 8 ^ (d % 16) * 128
    let inOrder := s.me.scBusy = true → ∀ q ∈ pagePieces (s.aReg ag) size, ∀ p ∈ s.page? .engineWrite q.1 q.2, p.1.sc = false
    let cost := Min.min (1 + (size + 4095) / 4096) (s.die s.myDie).grant.cap
    let b (pages : List (Nat × Nat)) (sc : Bool) (p : Nat) : Bulk :=
      { id := f.nextId, bun := f.bun, tag := tag, kind := .cnout root (d % 16), shape := .row .w128, g := s.aReg ag, l := 0, gstride := 128
        lstride := 0, rows := 8 ^ (d % 16), pages := pages, sc := sc, work := [(some root, d % 16)], epoch := s.pool.epoch, promise := p }
    let starts (u : State) (pages : List (Nat × Nat)) (sc : Bool) : Prop := ∃ p : Nat, exec i s =
      .next (({ u.dropRuns s.cur ((b pages sc p).globalRuns (8 ^ (d % 16))) with fresh := s.fresh + 1 } : State).modMe fun x =>
        ((x.sent []).retired.modCtl fun t => { t with bal := t.bal - cost }).modMem fun m =>
          { m with
            bulk := m.bulk ++ [b pages sc p]
            tags := m.tags.set tag.toNat
              { old with isOpen := true, promise := if old.isOpen then Max.max old.promise p else p } tag.isLt }) ∧ s.now < p
    ((s.Ready ∨ s.Judged v) → ¬ inOrder → exec i s = .next (s.modMe (·.held .scOrder))) ∧
    ((s.Ready ∨ s.Judged v) → inOrder → s.me.ctl.bal < cost → exec i s = .next (s.modMe (·.held .tokens))) ∧
    (inOrder → cost ≤ s.me.ctl.bal →
      (s.Ready → ∀ l, acc.2 = .ok l → (root = 0 → starts acc.1 l.1 l.2) ∧
        (root ≠ 0 → exec i s = .next (acc.1.modMe fun x => (x.held .verdict).modMem fun w =>
          { w with cn := [{ slot := 5, req := .out root, pages := l.1, sc := l.2 }] }))) ∧
      (s.Ready → s.MayTrap → ∀ t, acc.2 = .error t → exec i s = .next (acc.1.modMe (·.faulted 5 t))) ∧
      (s.Judged v → (v.fault = none → starts s.unjudged v.pages v.sc) ∧
        (s.MayTrap → ∀ t ∈ v.fault, exec i s = .next (s.modMe (·.faulted 5 t))))) ∧
    (12 < d ∨ (root ≠ 0 ∧ (root.toNat / 2 ^ 8 % 2 ^ 8 = 0 ∧ d ≠ 0 ∨ root.toNat / 2 ^ 8 % 2 ^ 8 = 1 ∧ d = 0)) →
      acc = (s, .error ⟨0x03, 0⟩))

/-- R332, R334, R350: CNOUT goes on subtree by subtree, leaves in order. A name that is 0, that stands where it may not, or that is not present stands for
zeros, and the last two are logged once, with the low half of the name; a present interior line is taken once, for its eight children. -/
def Claims.ContentNamedTreesAreWritten : Prop :=
  ∀ (s : State) (c i : Nat) (b : Bulk) (root n : BitVec 128) (d k : Nat) (rest : List (Option (BitVec 128) × Nat)),
    s.bulkReady c i = some b → b.kind = .cnout root k → s.badLines = [] → s.lostModules = [] →
    let goes (t : State) (w : List (Option (BitVec 128) × Nat)) (lines : Nat) : Prop := s.bulkRow c i =
      (t.modCore c fun x => x.modMem fun m => { m with bulk := m.bulk.set i { b with next := b.next + lines, work := w } }).endFences c
    let writes (v : BitVec 1024) : State := s.modCore c fun x => x.modMem fun m => { m with
      outs := m.outs ++ [⟨some b.id, b.bun, .line (b.pa ((b.g.toNat + 128 * b.next) % 2 ^ 64)) (natBytes 128 v.toNat), false⟩] }
    let zeros := (none, 8 ^ d) :: rest
    let cls := n.toNat / 2 ^ 8 % 2 ^ 8
    let logs (kind : BitVec 8) : Prop := goes (s.logError (c / 512) kind [n.setWidth 64]) zeros 0
    (b.work = [] → s.bulkRow c i = s) ∧
    (b.work = (none, 0) :: rest → goes s rest 0) ∧
    (b.work = (none, d + 1) :: rest → goes (writes 0) ((none, d) :: rest) 1) ∧
    (b.work = (some n, d) :: rest →
      (n = 0 → goes s zeros 0) ∧
      (n ≠ 0 → (cls = 0 ∧ d ≠ 0 ∨ cls ≠ 0 ∧ d = 0) → logs 0x41) ∧
      (n ≠ 0 → (cls = 0 ↔ d = 0) → s.findName n = none → logs 0x42) ∧
      (n ≠ 0 → (cls = 0 ↔ d = 0) → ∀ j ∈ s.findName n,
        (d = 0 → goes (writes (s.slotLine j)) rest 1) ∧
        (d ≠ 0 → goes s (((List.range 8).map fun q => (some ((s.slotLine j).extractLsb' (128 * q) 128), d - 1)) ++ rest) 0)))

/-- Content-named operations ask the directory, and its verdict lands. -/
def Obligations.ContentNamedOperations : Prop :=
  Claims.ContentNamedOperationsAskTheDirectory ∧ Claims.ContentNamedResultsLand ∧ Claims.ContentNamedOutputStartsATransfer ∧ Claims.ContentNamedTreesAreWritten

/-- R331, R336, R337: a name is present when one of the 64 entries of its probe range is live and holds it; an entry that is written reads
back, and no other entry and no line of the pool changes. -/
def Claims.DirectoryEntriesAreFoundAndKept : Prop :=
  ∀ (s : State) (n : BitVec 128) (who : Option Nat) (i : Nat) (e : DirEntry), s.MemCanonical → s.badLines = [] → s.lostModules = [] →
    let buckets := s.pool.lines / 4
    let entry (j : Nat) : Nat := 4 * ((n.toNat / 2 ^ 32 % 2 ^ 32 % buckets + j / 4) % buckets) + j % 4
    let live (k : Nat) : Prop := (s.dirEntry k).state = 1 ∧ (s.dirEntry k).name = n
    let t := s.setEntry who i e
    (∀ k, s.findName n = some k ↔ ∃ j < 64, k = entry j ∧ live k ∧ ∀ l < j, ¬ live (entry l)) ∧
    (s.findName n = none ↔ ∀ j < 64, ¬ live (entry j)) ∧
    t.dirEntry i = e ∧ (∀ j, j ≠ i → t.dirEntry j = s.dirEntry j) ∧ (∀ j < s.pool.lines, t.slotLine j = s.slotLine j) ∧
    t.lineSeq = s.lineSeq ∧ t.reaping = s.reaping ∧ ∀ c, (t.core c).regs = (s.core c).regs ∧ (t.core c).mem = (s.core c).mem

/-- R331, R338 to R340, R344 to R350: the directory performs a content-named request and gives its verdict: a fault that changes nothing where
the pool is out of service, the name or a child is not present, or there is no room; otherwise the name, the line or the old root, with the
counts of R339; a line is read through the read cache of the cluster (R246), and no replica serves it (R249). A name that loses its last
reference is free, or, when interior, reaped. A swap is a release and an acquire: it waits for what goes before it, and for what a narrower
release on its root's line orders (R361, R363, log entry 72). While the directory is being set, requests wait (log entry 49).
Completion is stated of: cnDirectoryVerdict. -/
def Claims.DirectoryGivesVerdicts : Prop :=
  ∀ (s : State) (c : Nat) (v : CnVerdict) (n new : BitVec 128) (cls : BitVec 8) (data : Line) (pa : Nat) (sc : Scope),
    (s.core c).mem.cn = [v] → v.slot = 5 ∨ v.slot = 6 → v.done = false → s.pool.setting = false → s.calendar.hold = false →
    (s.core c).mem.memq = [] → s.badLines = [] → s.lostModules = [] →
    let ev := Instr.cnDirectoryVerdict c (v.slot = 6)
    let gives (t : State) (u : CnVerdict) : Prop := exec ev s = .next (t.modCore c fun x => x.modMem fun m => { m with cn := [{ u with done := true }] })
    let faults (code : BitVec 8) (a : Nat) : Prop := gives s { v with fault := some ⟨code, BitVec.ofNat 64 a⟩ }
    let open_ := s.pool.base.toNat % 2 = 1
    let pinned : BitVec 32 := 0xFFFFFFFF
    let up (t : State) (i : Nat) : State :=
      let e := t.dirEntry i
      t.setEntry (some c) i { e with count := if e.count = pinned then pinned else e.count + 1 }
    let down (t : State) (i : Nat) : State :=
      let e := t.dirEntry i
      if e.count = pinned then t
      else if 1 < e.count.toNat then t.setEntry (some c) i { e with count := e.count - 1 }
      else if e.name.toNat / 2 ^ 8 % 2 ^ 8 = 1 then
        { t.setEntry (some c) i { e with count := 0, state := 2 } with reaping := t.reaping ++ [(i, c)] }
      else t.setEntry (some c) i { e with count := 0, state := 0 }
    let upName (t : State) (m : BitVec 128) : State := match t.findName m with | some i => up t i | none => t
    let p := namePrefix cls data
    let kid (k : Nat) : BitVec 128 := data.extractLsb' (128 * k) 128
    let held (j : Nat) : Option (BitVec 16) :=
      let e := s.dirEntry j
      if (e.state = 1 ∨ e.state = 2) ∧ e.name.extractLsb' 32 96 = p ∧ e.name.extractLsb' 8 8 = cls then some (e.name.extractLsb' 16 16) else none
    let range := s.probe (p.extractLsb' 0 32)
    let free (j : Nat) : Bool := (s.dirEntry j).state == 0
    let root : BitVec 128 := BitVec.ofNat 128 (memRead s.hbm pa 16)
    let counted : State := { s with lineSeq := mapSet (pa / 128) (mapGet 0 (pa / 128) s.lineSeq + 1) s.lineSeq }
    let acquired (t : State) : State := if sc ∈ [.die, .module, .domain] then t.clearCache (clusterOf c) else t
    let waits : Bool := match v.req with
      | .swap a _ _ k => s.releaseWaits c (s.core c).flow.bun || s.releases.any fun r =>
          r.line == a / 128 && r.core != c && inScope r.scope r.core c && inScope k c r.core && s.outstanding r
      | _ => false
    let reads (i : Nat) : Prop :=
      let line := s.slotAddr i / 128
      let hit := (s.cluster (clusterOf c)).cache.find? fun e => e.line == line
      (∀ e ∈ hit, gives (s.modCluster (clusterOf c) fun x => { x with hits := x.hits + 1 }) { v with data := e.data }) ∧
      (hit = none → gives
        { s.modCluster (clusterOf c) fun x => { x with fills := x.fills.filter (fun e => e.line != line) ++ [⟨line, s.slotLine i, s.stamp⟩] } with
          stamp := s.stamp + 1 }
        { v with data := s.slotLine i })
    (waits = true → exec ev s = .next s) ∧
    (v.req ∈ [.get 0, .ref 0, .drop 0, .out 0, .put cls 0] → gives s v) ∧
    (v.req ∈ [.get n, .ref n, .drop n, .out n] → n ≠ 0 →
      (¬ open_ → faults 0x14 3) ∧ (open_ → s.findName n = none → faults 0x13 0) ∧
      (open_ → ∀ i ∈ s.findName n,
        (v.req = .get n → reads i) ∧ (v.req ∈ [.ref n, .out n] → gives (up s i) v) ∧
        (v.req = .drop n → gives (down s i) v))) ∧
    (v.req = .put cls data → data ≠ 0 →
      (¬ open_ → faults 0x14 3) ∧
      (open_ → ∀ i ∈ s.findData cls data, gives (up s i) { v with name := (s.dirEntry i).name }) ∧
      (open_ → s.findData cls data = none →
        ((∀ j ∈ range, free j = false) → faults 0x14 1) ∧
        ∀ f ∈ range.find? free,
          (∀ k < 8, cls = 1 → kid k ≠ 0 → s.findName (kid k) = none → (∀ l < k, kid l = 0 ∨ s.findName (kid l) ≠ none) → faults 0x13 (8 + k)) ∧
          ((cls = 1 → ∀ k < 8, kid k = 0 ∨ s.findName (kid k) ≠ none) →
            ∃ dis : BitVec 16, (∀ j ∈ range, held j ≠ some dis) ∧ (∀ d < dis, ∃ j ∈ range, held j = some d) ∧
              let name : BitVec 128 := BitVec.ofNat 128 (p.toNat * 2 ^ 32 + dis.toNat * 2 ^ 16 + cls.toNat * 2 ^ 8)
              let line := s.slotAddr f / 128
              let t := ({ s with clusters := s.clusters.map fun y => (y.1, y.2.dropLine line) } : State).hbmWrite (some c) (s.slotAddr f)
                (natBytes 128 data.toNat)
              let kids := if cls = 1 then ((List.range 8).map kid).filter (· != 0) else []
              gives (kids.foldl upName (t.setEntry (some c) f ⟨name, 1, 1⟩)) { v with name := name }))) ∧
    (v.req = .swap pa n new sc → waits = false →
      (¬ open_ → n ≠ 0 ∨ new ≠ 0 → faults 0x14 3) ∧
      (open_ ∨ n = 0 ∧ new = 0 →
        (root ≠ n → gives (acquired counted) { v with name := root }) ∧
        (root = n → new ≠ 0 → s.findName new = none → faults 0x13 0) ∧
        (root = n → (new = 0 ∨ s.findName new ≠ none) →
          let t := counted.hbmWrite (some c) pa (natBytes 16 new.toNat)
          let t := if new = 0 then t else upName t new
          gives (acquired (if n = 0 then t else match t.findName n with | some i => down t i | none => t)) { v with name := root })))

/-- R331, R339, R340: the reaper takes one reference from each child of an interior line that lost its last, then frees its entry; when the
directory has been set, the operations that waited for it go on. A child that is not present is skipped (log entry 49).
Completion is stated of: reaper, directoryFreeSettingDone. -/
def Claims.ReaperFreesInteriorLines : Prop :=
  ∀ (s : State) (slot c : Nat), s.badLines = [] → s.lostModules = [] →
    let down (t : State) (i : Nat) : State :=
      let e := t.dirEntry i
      if e.count = 0xFFFFFFFF then t
      else if 1 < e.count.toNat then t.setEntry (some c) i { e with count := e.count - 1 }
      else if e.name.toNat / 2 ^ 8 % 2 ^ 8 = 1 then
        { t.setEntry (some c) i { e with count := 0, state := 2 } with reaping := t.reaping ++ [(i, c)] }
      else t.setEntry (some c) i { e with count := 0, state := 0 }
    let kids := ((List.range 8).map fun k => (s.slotLine slot).extractLsb' (128 * k) 128).filter (· != 0)
    (s.reaping.find? (fun p => p.1 == slot) = some (slot, c) →
      let t := kids.foldl (fun t n => match t.findName n with | some i => down t i | none => t)
        { s with reaping := s.reaping.filter fun p => p.1 != slot }
      exec (.reaper slot) s = .next ((t.setEntry (some c) slot { t.dirEntry slot with state := 0 }).endFences c)) ∧
    ((∀ p ∈ s.reaping, p.1 ≠ slot) → exec (.reaper slot) s = .next s) ∧
    exec .directoryFreeSettingDone s = .next { s with pool := { s.pool with setting := false } }

/-- The directory of content-named lines: entries, verdicts and reaping. -/
def Obligations.ContentNamedDirectory : Prop :=
  Claims.DirectoryEntriesAreFoundAndKept ∧ Claims.DirectoryGivesVerdicts ∧ Claims.ReaperFreesInteriorLines

/-- R374 to R383: an XPH bundle moves the roads of its die once a phase cycle; a value sent enters its strip's road two cycles later, and what a core
selects is what its strip's latch holds, marked where values have met; the row of XSEL goes to no latch (log entry 29). XMIT and XSEL outside an XPH
bundle are illegal.
Completion is stated of: xph, xmit, xsel. -/
def Claims.PhasesAndRoads : Prop :=
  ∀ (s : State) (np : BitVec 5) (pop : BitVec 8) (op : Option (BitVec 3)) (h : Head) (row : RowOp) (part lane : BitVec 3) (west : Bool)
    (p : Phase),
    let d := s.myDie
    let iss := s.cur :: p.issued
    let phased (t : State) : State :=
      t.modDie d fun x => { x with phase := some { p with issued := if p.members.all iss.contains then [] else iss } }
    let own := s.stripOf s.cur
    let held := (s.die d).roads.find? fun v => v.wait == 0 && v.west == west && v.lane == lane && v.strip == own
    let value : BitVec 512 := match held with | some v => v.data | none => 0
    let put (old : RowBits) : RowBits := BitVec.ofNat 4096
      (((List.range 8).map fun k => (if k = part.toNat then value else old.extractLsb' (512 * k) 512).toNat * 2 ^ (512 * k)).sum)
    (s.Between → (∀ i : Fin 4, (s.me.flow.loops.get i).act = false) → s.me.ctl.handler = false → s.me.flow.synced = false →
      np.toNat < 8 → s.Pops pop → s.lockstep s.cur = some p →
      ((p.issued.contains s.cur = false ∧ s.calendar.now = none ∧ ∀ c ∈ s.gangCores p.node p.gang, (s.core c).flow.synced = false) →
        exec (.xph np op pop) s =
          .next (((phased (if p.issued = [] then s.advanceRoads d else s)).modMe fun x => (x.popped pop).retired).asks op)) ∧
      ((p.issued.contains s.cur = true ∨ s.calendar.now.isSome = true ∨ ∃ c ∈ s.gangCores p.node p.gang, (s.core c).flow.synced = true) → exec (.xph np op pop) s = .next (s.modMe (·.held .phase)))) ∧
    (s.LastWord 5 h → s.Reads row → exec (.xmit row part lane west) s = .next (((s.modDie d fun x =>
      { x with roads := x.roads ++ [⟨west, lane, own, 2, (s.rowBits .FP32 row).extractLsb' (512 * part.toNat) 512, [s.cur], false⟩] }).modMe
        Core.retired).cycleOver h)) ∧
    (s.LastWord 5 h → row.isReg = true → exec (.xsel row part lane west) s = .next (((s.modMe fun x =>
      ((x.modCtl fun t => { t with xcoll := if (held.map (·.met)).getD false then t.xcoll ||| 1 else t.xcoll }).retired.expecting
        [{ left := 0, res := .row (x.regs.dest row) (put (s.rowBits .FP32 row)) (if x.rowTag row = .EMPTY then .N8 else x.rowTag row) none
           young := false, slot := 5, bun := x.flow.bun - 1 }])).cycleOver h).landDue s.cur)) ∧
    (s.Ready → s.MayTrap → s.Reads row → exec (.xmit row part lane west) s = .next (s.modMe (·.refused 5 ⟨0x02, 0⟩)) ∧
      exec (.xsel row part lane west) s = .next (s.modMe (·.refused 5 ⟨0x02, 0⟩))) ∧
    (let moved := (s.die d).roads.filterMap RoadValue.step
     let here := moved.filter fun v => v.wait == 0 && v.west == west && v.lane == lane && v.strip == own
     (((s.advanceRoads d).die d).latchAt west lane own).1 = here.foldl (fun (b : BitVec 512) v => b ||| v.data) 0)

/-- R102, R121, R122, R318, R381: the word of an XMIT or an XSEL in a bundle that is no XPH bundle is an illegal instruction also where its row operand is
reserved, and so is an MMUL with a reserved row operand and a split that its profile or the part does not have: that comes before the illegal
operand. -/
def Claims.IllegalWordsComeBeforeIllegalOperands : Prop :=
  ∀ (s u : State) (c k : Nat) (ws : List Nat), s.Turn c ws u → u.Ready → u.MayTrap → (∀ j < 8, j ≠ k → ws.getD j 0 = 0) →
    let w := ws.getD k 0
    let traps := step s = .next (u.modMe (·.refused k ⟨0x02, 0⟩))
    (k = 5 ∨ k = 6 → 0x40 * 2 ^ 25 ≤ w → w < 0x42 * 2 ^ 25 → decodeSlot .C w = .error .operand → traps) ∧
    (k = 4 → 0x01 * 2 ^ 26 ≤ w → w < 0x02 * 2 ^ 26 → decodeSlot .M w = .error .operand → w / 2 ^ 10 % 8 ≠ 0 → u.part.charge = false → traps)

/-- Caravan phases and the roads between cores. -/
def Obligations.PhasesAndRoads : Prop :=
  Claims.PhasesAndRoads ∧ Claims.IllegalWordsComeBeforeIllegalOperands

/-- R220, R289 to R291, R294, R299, R310, R312, R318 to R321, R440: a product of any profile takes its activations, from a run of register rows, from a
stream or by fetching them from a scratchpad of its cluster, sets the kinds of its accumulator rows, and enters the command buffer under the
lease with the rows that were of kind Z. Rows of the core's own scratchpad are taken one a service round. Profile 6 has no geometry 3.
Completion is stated of: mmul, mmuls. -/
def Claims.ProductsEnterTheCommandBuffer : Prop :=
  ∀ (s : State) (h : Head) (A : RowOp) (a : BitVec 4) (owner : BitVec 3) (col : Bool) (nr : BitVec 5) (split : BitVec 3) (mode : AccMode)
    (n start g : Nat), s.LastWord 4 h → s.me.mat.lease = .held n start g →
    let np := h.np
    let geom := s.arrayGeom
    let elems := (nr.toNat + 1) * (2048 / 2 ^ geom)
    let t := s.me.rowTag A
    let rows (t : Tag) : Nat := (elems + tagCount t - 1) / tagCount t
    let slice := match s.me.run with | some r => r.slice | none => 0
    let rnd := if np = 4 then some (s.me.ctl.rngSeed, slice, s.me.ctl.rndCount) else none
    let cycles := if np = 1 ∨ np = 6 then 4 else if np = 2 then 16 else 8
    let cost := Min.min ((nr.toNat + 1) * cycles / 4) (s.die s.myDie).grant.cap
    let zeros : BitVec 32 := BitVec.ofNat 32 (((List.range 32).map fun i => if s.me.mat.kinds.get (Fin.ofNat 32 i) = .Z then 2 ^ i else 0).sum)
    let enters (i : Instr) (t : Tag) (r : List RowBits) (f : Option (Nat × List Nat × RowShape)) (z : Core → Core) : Prop :=
      exec i s = .next (((s.commanded cost (some g) (.product np nr.toNat split.toNat mode t geom r rnd f zeros) fun x =>
        (x.modCtl fun c => { c with rndCount := c.rndCount + if np = 4 then BitVec.ofNat 64 elems else 0 }).modMat fun m =>
          { m with kinds := Vector.ofFn fun i => if i.val ≤ nr.toNat then (if np = 5 ∨ np = 6 then .I else .F) else m.kinds.get i
                   lease := if n ≤ 1 then .idle else .held (n - 1) start g }).modMe z).cycleOver h)
    let m : Tag := if np = 5 then .I8 else if np = 6 then .I4 else if np = 7 then .E4M3 else .BF16
    let sh : RowShape := if col then .col (if m = .BF16 then .e2 else .e1) else .row .w512
    let step := if col then (if m = .BF16 then 2 else 1) else 512
    let offs := (List.range (rows m)).map fun f => (s.aReg a + BitVec.ofNat 64 (step * f)).toNat
    let peer := s.cur / 8 * 8 + owner.toNat
    (np = 6 → geom = 3 → s.MayTrap → s.me.flow.issue.perf = aloneMask 4 →
      exec (.mmul A nr split mode) s = .next (s.modMe (·.faulted 4 ⟨0x03, 0⟩)) ∧
      exec (.mmuls a owner col nr split mode) s = .next (s.modMe (·.faulted 4 ⟨0x03, 0⟩))) ∧
    (¬ (np = 6 ∧ geom = 3) →
    (∀ r ∈ s.me.regs.tileIdx A, r.toNat + rows t ≤ 128 →
      enters (.mmul A nr split mode) t ((List.range (rows t)).map fun f => s.me.regs.t.get (Fin.ofNat 128 (r.toNat + f))) none id) ∧
    (∀ o : BitVec 3, A = .o o → o.toNat + rows t ≤ 8 →
      enters (.mmul A nr split mode) t ((List.range (rows t)).map fun f => (s.me.regs.o.get (Fin.ofNat 8 (o.toNat + f))).bits) none id) ∧
    (∀ q : BitVec 3, A = .q q → ∀ b ∈ s.me.stream? q, b.pos + rows t ≤ b.total → (∀ f < rows t, b.rowOk (b.pos + f) = true) →
      enters (.mmul A nr split mode) t ((List.range (rows t)).map fun f => s.streamRow s.cur b (b.pos + f)) none fun x =>
        x.modStream q fun v => { v with pos := v.pos + rows t }) ∧
    ((∀ o ∈ offs, fitsIn 262144 sh o = true) →
      (peer = s.cur → enters (.mmuls a owner col nr split mode) m (offs.map (readShape (s.spadByte s.cur) sh)) none (·.rounded (rows m))) ∧
      (peer ≠ s.cur → enters (.mmuls a owner col nr split mode) m [] (some (peer, offs, sh)) id)) ∧
    (∀ o ∈ offs.find? (fun o => !fitsIn 262144 sh o), s.MayTrap → s.me.flow.issue.perf = aloneMask 4 →
      exec (.mmuls a owner col nr split mode) s = .next (s.modMe (·.faulted 4 ⟨0x0A, BitVec.ofNat 64 o⟩))))

/-- R222, R294, R299, R312, R320, R321, R361: what a product is refused for when its bundle comes to issue, under any profile: an activation tag
that the profile does not accept, or accumulator rows of the other kind where it adds to them. An MMULS of the core's own scratchpad waits for
a local store of the core that is held, and for an acquire of an earlier bundle.
Completion is stated of: mmul, mmuls. -/
def Claims.ProductsAreRefusedOrWait : Prop :=
  ∀ (s u : State) (c : Nat) (ws : List Nat) (np : BitVec 5) (A : RowOp) (a : BitVec 4) (owner : BitVec 3) (col : Bool) (nr : BitVec 5)
    (mode : AccMode) (n start g : Nat), s.Turn c ws u → u.Ready → (∀ j < 8, j ≠ 0 → j ≠ 4 → ws.getD j 0 = 0) → np.toNat < 8 →
    decodeSlot .H (ws.getD 0 0) = .ok (.normal np none 0) →
    let word (i : Instr) : Prop := decodeSlot .M (ws.getD 4 0) = .ok i
    let refuses : Prop := step s = .next (u.modMe (·.refused 4 ⟨0x04, 0⟩))
    let t := u.me.rowTag A
    let accepted : List Tag :=
      if np = 2 then [.FP32, .BF16, .FP16] else if np = 5 then [.I8] else if np = 6 then [.I4] else if np = 7 then [.E4M3]
      else [.FP32, .BF16, .FP16, .E4M3, .E5M2]
    let other : RowKind := if np = 5 ∨ np = 6 then .F else .I
    let mixed : Prop := mode ≠ .ovr ∧ ∃ i ≤ nr.toNat, u.me.mat.kinds.get (Fin.ofNat 32 i) = other
    (u.MayTrap → word (.mmul A nr 0 mode) → u.Reads A → (∀ l, A ≠ .latch l) → t ∉ accepted ∨ mixed → refuses) ∧
    (u.MayTrap → word (.mmuls a owner col nr 0 mode) → mixed → refuses) ∧
    (word (.mmuls a owner col nr 0 mode) → ¬ mixed → u.me.mat.lease = .held n start g → u.me.mat.cmds.length < 32 →
      owner.toNat = c % 8 → (∃ e ∈ u.me.mem.memq, e.isLocalStore = true ∨ (e.acq = true ∧ e.bun < u.me.flow.bun)) →
      step s = .next (u.modMe (·.held .fence)))

/-- Products enter the command buffer of their core. -/
def Obligations.ProductsEnterTheCommandBuffer : Prop :=
  Claims.ProductsEnterTheCommandBuffer ∧ Claims.ProductsAreRefusedOrWait

/-- R299 to R305, R315, R317, R322: under the lease MWLD enters with its images, MWINV with its mask, and MSWAP, once nothing older is under way,
exchanges the planes of its macros or faults with those whose shadow is invalid; reissued after such a fault it first loads those again that
only a failed burst has made invalid. MZERO needs no lease. Without the lease an array command asks for one and freezes. That a misaligned MWLD
waits for the order of the SC pages before its trap is the model's reading (log entry 24).
Completion is stated of: mwld, mswap, mzero, mwinv. -/
def Obligations.WeightCommandsAndZeroing : Prop :=
  ∀ (s : State) (a : BitVec 4) (mask : BitVec 8) (geom : BitVec 2) (wfmt : WFmt) (n start g : Nat), s.Ready → s.calendar.hold = false →
    let k := clusterOf s.cur
    let M (t : State) (i : Nat) : Macro := (t.cluster k).macros.get (Fin.ofNat 8 i)
    let on (i : Nat) : Bool := mask.getLsbD i
    let size := if wfmt = .wbx4 then 32768 else 33792
    let images := ((List.range 8).filter on).map fun i => (i, pagePieces (s.aReg a + BitVec.ofNat 64 (i * size)) size)
    let r := s.imageAccess images
    let cost := Min.min (4 * ((List.range 8).filter on).length) (s.die s.myDie).grant.cap
    let inOrder := s.me.scBusy = true → ∀ p ∈ images, ∀ q ∈ p.2, ∀ w ∈ s.page? .image q.1 q.2, w.1.sc = false
    let spent : Lease := if n ≤ 1 then .idle else .held (n - 1) start g
    let spend (x : Core) : Core := x.modMat fun m => { m with lease := spent }
    let node := (s.me.run.map (·.node)).getD 0
    let invalid (i : Nat) : Bool :=
      let p := (M s i).shadow
      p.inval || p.burst || (match p.key with | some q => q.node != node | none => true)
    let failing (i : Nat) : Bool :=
      let p := (M s i).shadow
      on i && p.burst && !p.inval && (match p.key with | some q => q.node == node | none => false)
    let queue (i : Nat) : List Queued := (s.core (8 * k + i)).mat.cmds
    let fills (q : Queued) : Bool := match q.cmd with | .load _ _ l => l.any fun p => on p.1 | _ => false
    let busy : Prop := s.me.mat.cmds ≠ [] ∨ (∃ i < 8, ∃ q ∈ queue i, fills q = true) ∨
      (∃ i < 8, 8 * k + i ≠ s.cur ∧ ∃ q ∈ queue i, ∃ h ∈ q.grant, h < g) ∨ ∃ b, s.calendar.now = some (b, .major)
    let full := 32 ≤ s.me.mat.cmds.length
    let array := [Instr.mwld a mask geom wfmt, .mswap mask, .mwinv mask]
    (full → s.me.mat.lease = .held n start g → ∀ i ∈ array, exec i s = .next (s.modMe (·.held .commands))) ∧
    (full → exec .mzero s = .next (s.modMe (·.held .commands))) ∧
    (¬ full → exec .mzero s = .next (s.commanded 0 none .zero fun x => x.modMat fun m => { m with kinds := Vector.replicate 32 .Z })) ∧
    (s.me.mat.lease = .idle → ∀ i ∈ array,
      exec i s = .next (s.modMe fun x => (x.held .lease).modMat fun m => { m with lease := .wait 1 })) ∧
    (s.me.mat.lease = .held n start g → ¬ full →
      exec (.mwinv mask) s = .next (s.commanded 0 (some g) (.inval mask) spend) ∧
      (¬ inOrder → exec (.mwld a mask geom wfmt) s = .next (s.modMe (·.held .scOrder))) ∧
      (inOrder → s.me.ctl.bal < cost → exec (.mwld a mask geom wfmt) s = .next (s.modMe (·.held .tokens))) ∧
      (inOrder → cost ≤ s.me.ctl.bal → (s.aReg a).toNat % 512 = 0 → ∀ l, r.2 = .ok l →
        exec (.mwld a mask geom wfmt) s = .next (r.1.commanded cost (some g) (.load geom wfmt l.1) spend l.2)) ∧
      (inOrder → cost ≤ s.me.ctl.bal → s.MayTrap → (s.aReg a).toNat % 512 = 0 → ∀ t, r.2 = .error t →
        exec (.mwld a mask geom wfmt) s = .next (r.1.modMe (·.faulted 4 t))) ∧
      (inOrder → cost ≤ s.me.ctl.bal → s.MayTrap → (s.aReg a).toNat % 512 ≠ 0 →
        exec (.mwld a mask geom wfmt) s = .next (s.modMe (·.faulted 4 ⟨0x0A, s.aReg a⟩))) ∧
      let again : Prop := s.me.flow.redo.getLsbD 12 = true ∧ ∃ i < 8, failing i = true
      (¬ again → busy → exec (.mswap mask) s = .next (s.modMe (·.held .commands))) ∧
      (again → s.me.mat.cmds = [] → exec (.mswap mask) s = .next ((s.modCluster k fun x =>
          { x with macros := Vector.ofFn fun i =>
              let m := x.macros.get i
              if failing i.val = true then { m with shadow := { m.shadow with burst := false } } else m }).modMe fun x =>
        (x.held .commands).modMat fun m =>
          { m with cmds := ((List.range 8).filter failing).filterMap fun i => (M s i).shadow.key.map fun q =>
              { bun := x.flow.bun, grant := some g, cmd := .load q.geom q.wfmt [(i, q.pages)] } })) ∧
      (¬ busy → ¬ again →
        ((∀ i < 8, on i = true → invalid i = false) → ∃ t : State, exec (.mswap mask) s = .next t ∧
          (∀ i < 8, M t i = if on i = true then ⟨(M s i).shadow, (M s i).active⟩ else M s i) ∧
          t.me = ((spend s.me).countArray false).retired ∧ t.hbm = s.hbm ∧ (∀ c, c ≠ s.cur → t.core c = s.core c)) ∧
        ((∃ i < 8, on i = true ∧ invalid i = true) → s.MayTrap → exec (.mswap mask) s = .next (s.modMe (·.faulted 4
          ⟨0x12, BitVec.ofNat 64 (((List.range 8).map fun i => if (on i && invalid i) = true then 2 ^ i else 0).sum)⟩)))))

/-- R140, R323 to R329, R467: a drain enters the command buffer with the kinds of its rows, the maximum of LS, the checked address of its atomic, and
where it goes: entries of the landing buffer under its tag, or checked rows of the scratchpad or of memory. MCOMMIT sends the oldest rows of
a tag, once they are there, to a run of registers or to a stream, whose buffer takes more rows than it has entries when it is empty (log entry
84). That mixed kinds are refused when the bundle is checked (log entry 20), and that MCOMMIT's row count is checked before the fit of its run
(log entry 30), are the model's readings.
Completion is stated of: mdrain, mdrains, mcommit. -/
def Obligations.DrainsAndCommits : Prop :=
  ∀ (s : State) (nr : BitVec 5) (tag : BitVec 4) (fmt : DrainFmt) (a : BitVec 4) (col : Bool) (D : RowOp) (amx : Option (BitVec 4 × Scope)),
    s.Ready → s.calendar.hold = false → s.me.mat.cmds.length < 32 →
    let f := s.me.flow
    let kinds := (List.range (nr.toNat + 1)).map fun i => s.me.mat.kinds.get (Fin.ofNat 32 i)
    let copies := fmt ∈ [.f128, .f256, .f512, .f1024]
    let amax := s.me.regs.ls.toNat % 2 ^ 32
    let bad : Bool := match decodeFloat fp32 amax with
      | .fin n m _ => n && m != 0
      | _ => true
    let out := (nr.toNat + 1) * (drainShape fmt).2
    let res : Tag := if copies then (if .I ∈ kinds then .I32 else .FP32) else if fmt ∈ [.bf256, .bf512, .bf1024] then .BF16
      else if fmt ∈ [.e512, .e1024] then .E4M3 else if fmt ∈ [.bx512, .bx1024] then .BX4 else .FP32
    let cmd (at_ : Option MemOp) (d : DrainTo) : Cmd := .drain nr.toNat fmt kinds amax at_ d
    let max (p : Leaf × Nat) (sc : Scope) : Option MemOp :=
      some { id := f.nextId, bun := f.bun, kind := .atomic .amax 0 0, pa := p.2, len := 4, scope := sc, scPage := p.1.sc, engine := true }
    let e : ElemSize := if fmt ∈ [.bf256, .bf512, .bf1024] then .e2 else if fmt ∈ [.e512, .e1024] then .e1 else .e4
    let sh : RowShape := if col then .col e else .row .w512
    let step := if col then elemBytes e else 512
    let offs := (List.range out).map fun i => (s.aReg a + BitVec.ofNat 64 (step * i)).toNat
    let pages := s.accessAll s.cur .engineWrite ((List.range out).map fun i => (s.aReg a + BitVec.ofNat 64 (512 * i), 512))
    let ids (n : Nat) (x : Core) : Core := { x with flow := { x.flow with nextId := x.flow.nextId + n } }
    let queued (n : Nat) (x : Core) : Core := ids (n + 1) { x with
      mat := { x.mat with drains := x.mat.drains ++ List.replicate out ⟨tag, f.nextId + n, none, res⟩ } }
    let held (i : Instr) : Prop := exec i s = .next (s.modMe (·.held .scOrder))
    let rows := (List.range out).map fun i => (s.aReg a + BitVec.ofNat 64 (512 * i), 512)
    let inOrder := s.me.scBusy = true → ∀ q ∈ rows, ∀ p ∈ s.page? .engineWrite q.1 q.2, p.1.sc = false
    let fine := (copies → ¬ (.F ∈ kinds ∧ .I ∈ kinds)) ∧ (fmt ∈ [.bx512, .bx1024] → bad = false)
    let n := nr.toNat + 1
    let due := (s.me.mat.drains.filter fun d => d.tag == tag).take n
    let results : List Pending := due.zipIdx.map fun p =>
      { left := 1, res := .row ((s.me.regs.dest D).plus p.2) (p.1.row.getD {}).bits (p.1.row.getD {}).tag (some .LM), buf := true
        young := false, slot := 4, bun := f.bun }
    let commits (z : Core → Core) : Prop := exec (.mcommit D tag nr) s = .next (s.modMe fun x =>
      (z (x.modMat fun m => { m with drains := dropDrains tag n m.drains })).retired.expecting results)
    (fine → s.me.buffered + out ≤ 64 →
      (amx = none → exec (.mdrain nr tag fmt amx) s = .next (s.commanded 0 none (cmd none (.buffer tag f.nextId)) (queued 0))) ∧
      (∀ x ∈ amx, (s.aReg x.1).toNat % 4 = 0 → ∀ p ∈ s.page? .atomic (s.aReg x.1) 4,
        (¬ s.InScOrder p.1 → held (.mdrain nr tag fmt amx)) ∧
        (s.InScOrder p.1 → exec (.mdrain nr tag fmt amx) s = .next (((s.walked .atomic (s.aReg x.1) 4).cacheWithout [p.2 / 128]).commanded 0 none
          (cmd (max p x.2) (.buffer tag (f.nextId + 1))) (queued 1) p.1.sc)))) ∧
    (fine → (∀ o ∈ offs, fitsIn 262144 sh o = true) →
      (amx = none → exec (.mdrains nr a fmt amx false col) s = .next (s.commanded 0 none (cmd none (.spad (s.aReg a).toNat col)) id)) ∧
      (∀ x ∈ amx, (s.aReg x.1).toNat % 4 = 0 → ∀ p ∈ s.page? .atomic (s.aReg x.1) 4,
        (¬ s.InScOrder p.1 → held (.mdrains nr a fmt amx false col)) ∧
        (s.InScOrder p.1 → exec (.mdrains nr a fmt amx false col) s = .next (((s.walked .atomic (s.aReg x.1) 4).cacheWithout [p.2 / 128]).commanded
          0 none (cmd (max p x.2) (.spad (s.aReg a).toNat col)) (ids 1) p.1.sc)))) ∧
    (fine → (s.aReg a).toNat % 512 = 0 → ∀ l, pages.2 = .ok l →
      let u := pages.1
      let dest : DrainTo := .global (l.map (·.2.1)) (l.any (·.1.sc))
      let stale (t : State) : State := t.dropRuns s.cur (l.map fun p => (p.2.1, 512))
      let i := Instr.mdrains nr a fmt amx true false
      (amx = none → ¬ inOrder → held i) ∧
      (amx = none → inOrder → exec i s = .next ((stale u).commanded 0 none (cmd none dest) id (l.any (·.1.sc)))) ∧
      (s.me.scBusy = false → ∀ x ∈ amx, (s.aReg x.1).toNat % 4 = 0 → ∀ p ∈ u.page? .atomic (s.aReg x.1) 4, exec i s =
        .next ((stale ((u.walked .atomic (s.aReg x.1) 4).cacheWithout [p.2 / 128])).commanded 0 none (cmd (max p x.2) dest) (ids 1)
          (l.any (·.1.sc) || p.1.sc)))) ∧
    ((copies ∧ .F ∈ kinds ∧ .I ∈ kinds) → s.MayTrap → exec (.mdrain nr tag fmt amx) s = .next (s.modMe (·.refused 4 ⟨0x04, 0⟩)) ∧
      exec (.mdrains nr a fmt amx false col) s = .next (s.modMe (·.refused 4 ⟨0x04, 0⟩))) ∧
    (due.length = n → (∀ d ∈ due, d.row.isSome = true ∧ d.fmtTag = (due.map (·.fmtTag)).headD .EMPTY) →
      (∀ r ∈ s.me.regs.tileIdx D, r.toNat + n ≤ 128 → commits id) ∧ (∀ o : BitVec 3, D = .o o → o.toNat + n ≤ 8 → commits id) ∧
      (∀ q : BitVec 3, D = .q q → ∀ b ∈ s.me.stream? q, b.write = true → b.pos + n ≤ b.total →
        (∀ k < n, b.rowOk (b.pos + k) = true) → b.pos - b.done + Min.min 4 n ≤ 4 →
        commits fun x => x.modStream q fun v => { v with pos := v.pos + n })) ∧
    (due.length = n → (∃ d ∈ due, d.row = none) → (∀ l, D ≠ .latch l) → (∀ q, D ≠ .q q) →
      exec (.mcommit D tag nr) s = .next (s.modMe (·.held .commit))) ∧
    (due.length < n → s.MayTrap → (∀ l, D ≠ .latch l) → (∀ q, D ≠ .q q) →
      exec (.mcommit D tag nr) s = .next (s.modMe (·.faulted 4 ⟨0x03, tag.setWidth 64⟩)))

/-- R285 to R288, R291, R292, R294, R298, R299, R301, R321: a product whose rows lie with another core reads them there one by one; then, when its
turn it is, it writes the lanes below N of its accumulator rows, overwriting or adding by their kind, and their bounds; every other lane stays. A
row that was of kind Z when the command issued counts as zero. Under profile 5 with S = 0 each output is the exact sum of its inputs times the
active weights, modulo 2^32. With S > 0 a segment takes a code of its converter that errs by at most 96 (2^S − 1), or, where there is none, the
end of the range that is nearer; a code at an end of the range clips.
Completion is stated of: arrayProduct. -/
def Claims.ProductsArePerformed : Prop :=
  (∀ (s : State) (c : Nat) (q : Queued) (np : BitVec 5) (nr split : Nat) (mode : AccMode) (tag : Tag) (geom : Nat) (rows : List RowBits)
      (rnd : Option (Word × Nat × Word)) (fetch : Option (Nat × List Nat × RowShape)) (zeros : BitVec 32),
    s.headCmd c = some q → q.cmd = .product np nr split mode tag geom rows rnd fetch zeros → nr < 32 → geom < 4 →
    let lane (m : Matrix) (j l : Nat) : Nat := ((m.bank.get (Fin.ofNat 32 j)).extractLsb' (32 * l) 32).toNat
    let comp (m : Matrix) (j l : Nat) : Nat := ((m.comp.get (Fin.ofNat 32 j)).extractLsb' (32 * l) 32).toNat
    let out := productOutputs (ArrayView.of s c) np nr split geom tag rows rnd
    let y (j l : Nat) : Output := (out.getD j []).getD l ⟨0, 0, false⟩
    let was (j v : Nat) : Nat := if zeros.getLsbD j then 0 else v
    let perMacro := if np = 6 then 256 else if np = 2 then 64 else 128
    let old := (s.core c).mat
    let f := decodeFloat fp32
    let node := (s.nodeOf c).getD 0
    let weight (n k : Nat) : Int :=
      let p := ((s.cluster (clusterOf c)).macros.get (Fin.ofNat 8 (n / 128 * 2 ^ (3 - geom) + k / 256))).active
      let b := if (p.key.map (·.node)) = some node ∧ (s.nodeOf c).isSome = true then (p.w.extractLsb' (8 * (128 * (k % 256) + n % 128)) 8).toInt else 0
      b
    let input (j k : Nat) : Int :=
      let e := j * (2048 / 2 ^ geom) + k
      ((rows.getD (e / 512) 0).extractLsb' (8 * (e % 512)) 8).toInt
    (∀ owner o rest sh, fetch = some (owner, o :: rest, sh) →
      let q' : Queued := { q with cmd := .product np nr split mode tag geom (rows ++ [readShape (s.remoteByte owner) sh o]) rnd (some (owner, rest, sh)) zeros }
      exec (.arrayProduct c) s = .next ((s.modCore c fun x => x.modMat fun m => { m with cmds := q' :: m.cmds.drop 1 }).endFences c)) ∧
    (fetch = none ∨ (∃ owner sh, fetch = some (owner, [], sh)) → ∃ t : State, exec (.arrayProduct c) s = .next (t.afterCmd c) ∧
      let new := (t.core c).mat
      new.cmds = old.cmds.drop 1 ∧ new.kinds = old.kinds ∧ new.drains = old.drains ∧ (t.core c).regs = (s.core c).regs ∧ t.hbm = s.hbm ∧
      (∀ j < 32, ∀ l < 1024,
        (j ≤ nr ∧ l < perMacro * 2 ^ geom →
          lane new j l = (match mode with
            | .ovr => (y j l).y
            | _ => if np = 5 ∨ np = 6 then (was j (lane old j l) + (y j l).y) % 2 ^ 32
              else rne fp32 (valAdd false (f (was j (lane old j l))) (f (y j l).y))) % 2 ^ 32 ∧
          comp new j l = (match mode with
            | .ovr => (y j l).bound
            | .acc => if split = 0 then was j (comp old j l) else 0x7F800000
            | .accb => roundVal fp32 .ru 0 false (valAdd false (f (was j (comp old j l))) (f (y j l).bound))) % 2 ^ 32) ∧
        (j ≤ nr → perMacro * 2 ^ geom ≤ l → lane new j l = was j (lane old j l) ∧ comp new j l = was j (comp old j l)) ∧
        (nr < j → lane new j l = lane old j l ∧ comp new j l = comp old j l)) ∧
      (∀ i < 64, ((t.core c).ctl.clip.getLsbD i = true ↔ (s.core c).ctl.clip.getLsbD i = true ∨ ∃ j ≤ nr, ∃ l, l / 16 = i ∧ (y j l).clip = true)) ∧
      (np = 5 → tag = .I8 → split = 0 → ∀ j ≤ nr, ∀ l < 128 * 2 ^ geom, ((y j l).y : Int) =
        ((List.range (2048 / 2 ^ geom)).map fun k => input j k * weight l k).sum % 2 ^ 32))) ∧
  ∀ (split pick : Nat) (o : Int) (a w : List Int),
    let exact := (List.zipWith (· * ·) a w).sum
    let r := convertSum split o pick a w
    let u : Int := 2 ^ split - 1
    let charge := (List.zipWith (fun x y => x * (y % 2 ^ split)) a w).sum
    let miss (k : Int) : Int := 8 * u * (8 * k - o) - charge
    (split = 0 ∨ o < -128 ∨ 127 < o → r = ⟨exact, false⟩) ∧
    (0 < split → -128 ≤ o → o ≤ 127 → ∃ k : Int, -128 ≤ k ∧ k ≤ 127 ∧ r.v = exact + miss k ∧ (r.clip = true ↔ k = -128 ∨ k = 127) ∧
      (miss k ≤ 96 * u ∧ -(96 * u) ≤ miss k ∨ (∀ e : Int, -128 ≤ e → e ≤ 127 → 96 * u < miss e) ∧ k = -128 ∨
        (∀ e : Int, -128 ≤ e → e ≤ 127 → miss e < -(96 * u)) ∧ k = 127))

/-- R290, R292 to R298, R318: output n of vector j of a product, of any profile. The activations of each segment of 64 are aligned, the integers of
profiles 5 and 6 as they are; the weights are those of the macro's active planes in the form of the profile, zeros where the planes are not
the node's; a segment's result errs from the exact sum by the bound of its split unless it clips; the results are scaled, rounded and added
from the first on, by a pairwise tree under profile 3, or as integers under profiles 5 and 6; the bounds are added and rounded up. -/
def Claims.ProductOutputsAreComputed : Prop :=
  ∀ (s : State) (c j n : Nat) (np : BitVec 5) (nr split geom : Nat) (tag : Tag) (rows : List RowBits) (seed : Word) (slice : Nat) (count : Word),
    let accepted : List Tag := match np.toNat with
      | 2 => [.FP32, .BF16, .FP16]
      | 5 => [.I8]
      | 6 => [.I4]
      | 7 => [.E4M3]
      | _ => [.FP32, .BF16, .FP16, .E4M3, .E5M2]
    let perMacro := if np = 6 then 256 else if np = 2 then 64 else 128
    np.toNat < 8 → tag ∈ accepted → geom < 4 → (np = 6 → geom < 3) → j ≤ nr → n < perMacro * 2 ^ geom →
    let K := 2048 / 2 ^ geom
    let whole := np = 5 ∨ np = 6
    let bits : Nat := if np = 1 then 4 else if np = 2 then 16 else 8
    let code (k : Nat) : Nat :=
      elem (tagBits tag) (rows.getD ((j * K + k) / (4096 / tagBits tag)) 0) ((j * K + k) % (4096 / tagBits tag))
    let x (k : Nat) : Val := decodeFloat (tagFmt tag) (code k)
    let bad (g : Nat) : Bool := (List.range 64).any fun i => match x (64 * g + i) with | .fin _ _ _ => false | _ => true
    let place (g : Nat) : Nat := n / perMacro * 2 ^ (3 - geom) + g / 4
    let col := n % perMacro
    let planes (g : Nat) : Planes := ((s.cluster (clusterOf c)).macros.get (Fin.ofNat 8 (place g))).active
    let mine (g : Nat) : Prop := ∃ id ∈ s.nodeOf c, ∃ k ∈ (planes g).key, k.node = id
    let byte (g i q : Nat) : BitVec 8 := if mine g then (planes g).w.extractLsb' (8 * (128 * (64 * (g % 4) + i) + q)) 8 else 0
    let weight (g i : Nat) : Int :=
      if np = 6 then (if col < 128 then ((byte g i col).extractLsb' 0 4).toInt else ((byte g i (col - 128)).extractLsb' 4 4).toInt)
      else if np = 2 then 256 * (byte g i (2 * col)).toInt + (byte g i (2 * col + 1)).toNat
      else (byte g i col).toInt
    let exponent (g : Nat) : Nat :=
      if mine g then ((planes g).codes.extractLsb' (8 * (128 * (g % 4) + if np = 2 then 2 * col else col)) 8).toNat else 127
    let sw (g : Nat) : Int := if whole ∨ exponent g = 255 then 0 else (exponent g : Int) - 127
    let err : Nat := 96 * (2 ^ split - 1) * if np = 2 then 257 else 1
    let y := ((productOutputs (ArrayView.of s c) np nr split geom tag rows (if np = 4 then some (seed, slice, count) else none)).getD j []).getD n
      ⟨0, 0, false⟩
    ∃ (q : Nat → Nat → Int) (sa r : Nat → Int) (clip : Nat → Bool),
      (∀ g < K / 64,
        let exact := ((List.range 64).map fun i => q g i * weight g i).sum
        (whole → sa g = 0 ∧ ∀ i < 64, q g i = intVal tag (code (64 * g + i))) ∧
        (¬ whole → bad g = true ∨ (∀ i < 64, valEq (x (64 * g + i)) (.fin false 0 0) = true) → sa g = 0 ∧ ∀ i < 64, q g i = 0) ∧
        (¬ whole → bad g = false → ∀ E : Int, (∃ i < 64, valLt (valAbs (x (64 * g + i))) (.fin false 1 E) = false) →
          (∀ i < 64, valLt (valAbs (x (64 * g + i))) (.fin false 1 (E + 1)) = true) →
          sa g = E - bits + 2 ∧ ∀ i < 64,
            let v := (valToInt (if np = 4 then .sr else .rne) (rnd16 seed slice count (j * K + 64 * g + i))
              (valScale (x (64 * g + i)) (-(E - bits + 2)))).getD 0
            q g i = Max.max (-2 ^ (bits - 1)) (Min.min (2 ^ (bits - 1) - 1) v)) ∧
        (split = 0 → r g = exact ∧ clip g = false) ∧ (clip g = false → r g - exact ≤ err ∧ exact - r g ≤ err)) ∧
      (y.clip = true ↔ ∃ g < K / 64, clip g = true) ∧
      y.bound = (if (List.range (K / 64)).any clip then 0x7F800000 else
        roundVal fp32 .ru 0 false ((List.range (K / 64)).foldl (fun b g => valAdd false b (.fin false err (sa g + sw g))) (.fin false 0 0))) ∧
      let z (g : Nat) : Nat := rne fp32 (valOfInt false (r g) (sa g + sw g))
      (whole → (y.y : Int) = ((List.range (K / 64)).map r).sum % 2 ^ 32) ∧
      (¬ whole →
        ((∃ g < K / 64, bad g = true ∨ exponent g = 255) → y.y = 0x7FC00000) ∧
        ((∀ g < K / 64, bad g = false ∧ exponent g ≠ 255) → y.y =
          if np = 3 then (List.range (K / 64).log2).foldl (fun (f : Nat → Nat) _ i => fAdd fp32 (f (2 * i)) (f (2 * i + 1))) z 0
          else (List.range' 1 (K / 64 - 1)).foldl (fun a g => fAdd fp32 a (z g)) (z 0)))

/-- R323 to R327, R355: a drain whose turn it is converts the lanes of its rows, each rounded once, and sends them, in order, to its entries of the landing buffer,
or issues them as writes to the scratchpad or, line part by line part, to memory; the maximum of its magnitudes enters the queues as an atomic,
which leaves its word alone where every lane is missing. The bank stays as it is.
Completion is stated of: drainPerform. -/
def Claims.DrainsArePerformed : Prop :=
  ∀ (s : State) (c nr amax : Nat) (q : Queued) (fmt : DrainFmt) (kinds : List RowKind) (amx : Option MemOp) (dest : DrainTo),
    s.headCmd c = some q → q.cmd = .drain nr fmt kinds amax amx dest → nr < 32 →
    let m := (s.core c).mat
    let lane (j l : Nat) : Nat := ((m.bank.get (Fin.ofNat 32 j)).extractLsb' (32 * l) 32).toNat
    let comp (j l : Nat) : Nat := ((m.comp.get (Fin.ofNat 32 j)).extractLsb' (32 * l) 32).toNat
    let kind (j : Nat) : Tag := if kinds.getD j .Z = .I then .I32 else .FP32
    let fp (j l : Nat) : Nat := if kinds.getD j .Z = .I then convert .I32 .FP32 .rne 0 false (lane j l) else lane j l
    let span : Nat × Nat := match fmt with
      | .f128 | .bnd128 => (128, 1)
      | .f256 | .bnd256 => (256, 2)
      | .f512 | .bnd512 => (512, 4)
      | .f1024 | .bnd1024 => (1024, 8)
      | .bf256 => (256, 1)
      | .bf512 => (512, 2)
      | .bf1024 => (1024, 4)
      | .e512 | .bx512 => (512, 1)
      | .e1024 | .bx1024 => (1024, 2)
    let res : Tag := match fmt with
      | .f128 | .f256 | .f512 | .f1024 => if .I ∈ kinds then .I32 else .FP32
      | .bf256 | .bf512 | .bf1024 => .BF16
      | .e512 | .e1024 => .E4M3
      | .bx512 | .bx1024 => .BX4
      | _ => .FP32
    let row (j p : Nat) : RowBits :=
      let n := span.1 / span.2
      let lanes := (List.range n).map fun i => p * n + i
      match fmt with
      | .f128 | .f256 | .f512 | .f1024 => packRow 32 (lanes.map (lane j))
      | .bf256 | .bf512 | .bf1024 => packRow 16 (lanes.map fun l => convert (kind j) .BF16 .rne 0 false (lane j l))
      | .e512 | .e1024 => packRow 8 (lanes.map fun l => convert (kind j) .E4M3 .rne 0 true (lane j l))
      | .bx512 | .bx1024 => quantise (lanes.map (fp j)) amax
      | _ => packRow 32 (lanes.map (comp j))
    let rows := (List.range (nr + 1)).flatMap fun j => (List.range span.2).map (row j)
    let byte (r : RowBits) (i : Nat) : Byte := r.extractLsb' (8 * i) 8
    let size := if res = .BF16 then 2 else if res = .E4M3 then 1 else 4
    let place (off : Nat) (col : Bool) (i : Nat) : Nat := if col then off + i / size * 512 + i % size else off + i
    let popped := s.modCore c fun x => x.modMat fun m => { m with cmds := m.cmds.drop 1 }
    let issues (sc : Bool) (l : List OutDest) : State := popped.modCore c fun x => x.modMem fun m =>
      { m with outs := m.outs ++ l.map fun d => ⟨none, q.bun, d, sc⟩ }
    let sent : State := match dest with
      | .buffer t id => popped.modCore c fun x => x.modMat fun m => { m with drains := fillDrains t id res m.drains rows }
      | .spad off col => issues false (rows.zipIdx.map fun (p : RowBits × Nat) =>
          .spad ((List.range 512).map fun i => (place (off + p.2 * if col then size else 512) col i, byte p.1 i)))
      | .global pas sc => issues sc ((rows.zip pas).flatMap fun (p : RowBits × Nat) =>
          if s.place p.2 = .hbm then (List.range 4).map fun k => .line (p.2 + 128 * k) (natBytes 128 (p.1.toNat / 2 ^ (1024 * k)))
          else [.line p.2 (natBytes 512 p.1.toNat)])
    let largest := rne fp32 (((List.range (nr + 1)).flatMap fun j => (List.range span.1).map (fp j)).foldl
      (fun v l => valMax v (valAbs (decodeFloat fp32 l))) .nan)
    (amx = none → exec (.drainPerform c) s = .next (sent.afterCmd c)) ∧
    (∀ e ∈ amx,
      let u : MemOp := { e with kind := .atomic (if largest = 0x7FC00000 then .ld else .amax) largest 0 }
      exec (.drainPerform c) s = .next ((sent.modCore c fun x => x.modMem fun l =>
        { l with memq := (l.memq.filter fun o => decide (o.bun ≤ e.bun)) ++ u :: l.memq.filter fun o => decide (e.bun < o.bun) }).afterCmd c)) ∧
    (sent.core c).mat.bank = m.bank ∧ (sent.core c).mat.comp = m.comp ∧ (sent.core c).mat.cmds = m.cmds.drop 1

/-- Array products and drains are performed. -/
def Obligations.ArrayCommandsArePerformed : Prop :=
  Claims.ProductsArePerformed ∧ Claims.ProductOutputsAreComputed ∧ Claims.DrainsArePerformed

/-- R287, R300, R314: MLEASE gives up a lease that is held and asks for a new one, once for its bundle, and goes on when it is granted; MUNLEASE
gives the lease up; MCLIP reads the clip bits of the core's products, when all are done, and clears them.
Completion is stated of: mlease, munlease, mclip. -/
def Claims.LeasesAndClipping : Prop :=
  ∀ (s : State) (ln : BitVec 6) (d : BitVec 5), s.Ready →
    let pendingCmds := ∃ q ∈ s.me.mat.cmds, q.grant.isSome = true
    let held := ∃ n start g, s.me.mat.lease = .held n start g
    (s.me.flow.leased = false → exec (.mlease ln) s = .next (s.modMe fun x => (x.held .lease).modMat fun m =>
      { m with lease := match m.lease with | .wait k => .wait k | _ => .wait (ln.toNat + 1) })) ∧
    (s.me.flow.leased = true → held → exec (.mlease ln) s = .next (s.modMe Core.retired)) ∧
    (s.me.flow.leased = true → ¬ held → exec (.mlease ln) s = .next (s.modMe (·.held .lease))) ∧
    exec .munlease s = .next (s.modMe fun x => x.retired.modMat fun m =>
      { m with lease := match m.lease with | .wait k => .wait k | _ => .idle }) ∧
    (pendingCmds → exec (.mclip d) s = .next (s.modMe (·.held .commands))) ∧
    (¬ pendingCmds → exec (.mclip d) s = .next (s.modMe fun x =>
      (x.modCtl fun t => { t with clip := 0 }).retired.awaiting 4 1 (.scalar d false s.me.ctl.clip)))

/-- R44, R297, R303 to R307, R315, R316, R355: a weight load whose turn it is reads its images one line part at a time; then it fills the shadow of
each macro of its mask, from the macro's own planes where their key is the same and still watched, else from its image, which moves through
the flue in bursts of 4 KiB, each sent again up to three times; it logs what the image has wrong, there too where planes are used again (log
entry 71), and records its key, watched unless a line of the images was written meanwhile. Weights of BX4 are aligned to the exponent of their
column-segment, and a row that fails the checks of R44 loads zeros. A flue signal that fails makes the shadows that its burst fed invalid,
those of a load in progress once it fills them, and is logged.
Completion is stated of: weightLoadComplete, flueSignalFailure. -/
def Claims.WeightLoadsFillShadows : Prop :=
  ∀ (s : State) (c : Nat) (q : Queued) (geom : BitVec 2) (wfmt : WFmt) (images : List (Nat × List (Nat × Nat))) (node : Nat)
    (die : BitVec 3) (signal : BitVec 17) (k : Nat) (mask : BitVec 8),
    let shadowed (t : State) (k m : Nat) (p : Planes) : State := t.modCluster k fun x =>
      { x with macros := x.macros.set (m % 8) { x.macros.get (Fin.ofNat 8 m) with shadow := p } (Nat.mod_lt m (by decide)) }
    let stretches := images.flatMap (·.2)
    let sum (l : List (Nat × Nat)) : Nat := (l.map (·.2)).sum
    let got := q.got.length
    let fill (t : State) (p : (Nat × List (Nat × Nat)) × Nat) : State :=
      let im := p.1
      let bytes := (q.got.drop (sum ((images.take p.2).flatMap (·.2)))).take (sum im.2)
      let failed := q.failed.getLsbD im.1
      let key : PlaneKey := ⟨(im.2.headD (0, 0)).1, im.2, geom, wfmt, node, !q.stale && !failed⟩
      let x := (t.cluster (clusterOf c)).macros.get (Fin.ofNat 8 im.1)
      let same (p : Planes) : Bool := match p.key with
        | some k => k.watch && k.pa == key.pa && k.pages == key.pages && k.geom == geom && k.wfmt == wfmt
        | none => false
      let own (p : Planes) : Planes := { p with key := some key, burst := false, inval := false }
      let fresh := planesOf wfmt bytes
      let logged := fresh.2.foldl (fun t e => t.logError (dieOf c) e.2 [BitVec.ofNat 64 (imageAddr im.2 (512 * e.1))]) t
      if same x.active then shadowed logged (clusterOf c) im.1 (own x.active)
      else if same x.shadow then shadowed logged (clusterOf c) im.1 (own x.shadow)
      else shadowed (logged.moveImage (dieOf c) bytes.length) (clusterOf c) im.1 { fresh.1 with key := some key, burst := failed }
    let popped := s.modCore c fun x => x.modMat fun m => { m with cmds := m.cmds.drop 1 }
    let lost := s.wear.flueLost
    let second := lost.any fun p => p.1 == die.toNat && p.2 / 32 == signal.toNat / 32 && p.2 != signal.toNat
    (s.calendar.hold = true → exec (.weightLoadComplete c) s = .next s) ∧
    (s.calendar.hold = false → s.headCmd c = some q → q.cmd = .load geom wfmt images → s.nodeOf c = some node →
      (got < sum stretches → ∃ n, 0 < n ∧ got + n ≤ sum stretches ∧
        let pa := imageAddr stretches got
        (∀ i < n, imageAddr stretches (got + i) = pa + i) ∧ (pa + n - 1) / 128 = pa / 128 ∧
        ((pa + n) % 128 = 0 ∨ ∃ k, got + n = sum (stretches.take k)) ∧
        let r := s.physRead (some c) pa n
        exec (.weightLoadComplete c) s = .next (r.1.modCore c fun x => x.modMat fun m =>
          { m with cmds := { q with got := q.got ++ natBytes n r.2 } :: m.cmds.drop 1 })) ∧
      (sum stretches ≤ got → exec (.weightLoadComplete c) s =
        .next (((images.zipIdx.foldl fill popped).modCore c (·.countArray false)).afterCmd c))) ∧
    (∀ b : List Byte, 33280 ≤ b.length → ∀ i < 32768,
      (planesOf .w8 b).1.w.extractLsb' (8 * i) 8 = b.getD i 0 ∧ (planesOf .w4 b).1.w.extractLsb' (8 * i) 8 = b.getD i 0 ∧
      (planesOf .w16 b).1.w.extractLsb' (8 * i) 8 = b.getD (if i % 2 = 0 then i + 1 else i - 1) 0 ∧
      (i < 512 → ∀ f ∈ [WFmt.w8, .w4, .w16], (planesOf f b).1.codes.extractLsb' (8 * i) 8 = b.getD (32768 + i) 0)) ∧
    (∀ b : List Byte, 32768 ≤ b.length → ∀ row < 64,
      let p := planesOf .wbx4 b
      let x := bytesNat ((b.drop (512 * row)).take 512)
      let starts (i : Nat) : Nat := ((List.range (i + 1)).map fun k => x / 2 ^ (2048 + k) % 2).sum
      let code (k : Nat) : Nat := x / 2 ^ (2560 + 8 * k) % 256
      let scale (a : Nat) : Val := if a < 32 then .fin false a (-7) else .fin false (32 + a % 32) (a / 32 - 8)
      let band := x / 2 ^ 3584 % 2 ^ 16
      let v (i : Nat) : Val := valMul (valMul (decodeFloat e2m1 (x / 2 ^ (4 * i) % 16)) (scale (code (starts i - 1)))) (decodeFloat bf16 band)
      let weight (h k : Nat) : Int := (p.1.w.extractLsb' (8 * (128 * k + 2 * row + h)) 8).toInt
      let exponent (h g : Nat) : Int := (p.1.codes.extractLsb' (8 * (128 * g + 2 * row + h)) 8).toNat
      let tops (h g : Nat) (E : Int) : Prop :=
        (∃ i < 64, valLt (valAbs (v (256 * h + 64 * g + i))) (.fin false 1 E) = false) ∧
        ∀ i < 64, valLt (valAbs (v (256 * h + 64 * g + i))) (.fin false 1 (E + 1)) = true
      let wrong : Prop := starts 0 = 0 ∨ 128 < starts 511 ∨ (∃ k < starts 511, code k = 255) ∨ 0x7F80 ≤ band
      (wrong → (∀ h < 2, ∀ k < 256, weight h k = 0 ∧ exponent h (k / 64) = 127) ∧ p.2.filter (fun e => e.1 == row) = [(row, 0x33)]) ∧
      (¬ wrong →
        (∀ h < 2, ∀ g < 4,
          ((∀ i < 64, valEq (v (256 * h + 64 * g + i)) (.fin false 0 0) = true) → exponent h g = 127 ∧ ∀ i < 64, weight h (64 * g + i) = 0) ∧
          ∀ E, tops h g E → exponent h g = Max.max 0 (Min.min 254 (E - 6 + 127)) ∧ ∀ i < 64, weight h (64 * g + i) =
            Max.max (-128) (Min.min 127 ((valToInt .rne 0 (valScale (v (256 * h + 64 * g + i)) (127 - exponent h g))).getD 0))) ∧
        (∀ e ∈ p.2, e.1 = row → e.2 = 0x34) ∧
        ((row, 0x34) ∈ p.2 ↔ ∃ h < 2, ∃ g < 4, ∃ E, tops h g E ∧ (E - 6 + 127 < 0 ∨ 254 < E - 6 + 127)))) ∧
    (∀ n d : Nat, d < 8 → ∃ again ≤ 3 * ((n + 4095) / 4096),
      let t := s.moveImage d n
      let count (u : State) (i : Nat) : Nat := (mapGet 0 i (u.die d).counters).toNat
      count t 0x133 = (count s 0x133 + n + 4096 * again) % 2 ^ 64 ∧ count t 0x134 = (count s 0x134 + again) % 2 ^ 64 ∧
      t.cores = s.cores ∧ t.clusters = s.clusters ∧ t.hbm = s.hbm ∧ t.nodes = s.nodes) ∧
    ∃ t : State, exec (.flueSignalFailure die signal k mask) s = .next t ∧
      let feeds (e : Queued) (i : Nat) : Bool := !e.got.isEmpty && match e.cmd with
        | .load _ _ images => images.any fun im => decide (im.1 < 8) && im.1 == i
        | _ => false
      let loading (i : Nat) : Bool := (List.range 8).any fun l => (s.core (k / 64 * 512 + k % 64 * 8 + l)).mat.cmds.any fun e => feeds e i
      (∀ l < 8, let o := k / 64 * 512 + k % 64 * 8 + l
        let flags (e : Queued) : BitVec 8 := (List.range 8).foldl (fun f i => if mask.getLsbD i && feeds e i then f ||| (1#8 <<< i) else f) e.failed
        (t.core o).mat.cmds = (s.core o).mat.cmds.map fun e => { e with failed := flags e }) ∧
      (∀ i < 8, let x := (s.cluster k).macros.get (Fin.ofNat 8 i)
        (t.cluster k).macros.get (Fin.ofNat 8 i) = if mask.getLsbD i = true ∧ loading i = false then
          { x with shadow := { x.shadow with burst := true, key := x.shadow.key.map fun q => { q with watch := false } } } else x) ∧
      t.wear = { s.wear with
        flueLost := lost ++ [(die.toNat, signal.toNat)]
        flueRepair := if second then s.wear.flueRepair.set die.toNat true die.isLt else s.wear.flueRepair } ∧
      t.dies = (s.logError die.toNat 0x32 [BitVec.ofNat 64 (die.toNat * 2 ^ 29 + signal.toNat)]).dies

/-- R300, R302: while no lease of a cluster is held, the waiting core that follows the last holder of the claiming node is granted it, or, without a
claim, the first that waits, whose node then claims the array; none is granted in a major slot. A lease ends 4,096 periods after its grant, rounded up to ticks (log entry
50).
Completion is stated of: leaseGrant, leaseTimeout. -/
def Claims.LeasesAreGrantedInTurn : Prop :=
  ∀ (s : State) (k c n start g : Nat),
    let cl := s.cluster k
    let lane (i : Nat) : Nat := k / 64 * 512 + k % 64 * 8 + i
    let lease (i : Nat) : Lease := (s.core (lane i)).mat.lease
    let held := (List.range 8).any fun i => match lease i with | .held _ _ _ => true | _ => false
    let major := match s.calendar.now with | some (_, .major) => true | _ => false
    let first : Nat := match cl.claim, cl.lastHolder with | some _, some h => h + 1 | _, _ => 0
    let at_ (i : Nat) : Nat := (first + i) % 8
    let asks (i : Nat) : Bool := (match lease (at_ i) with | .wait _ => true | _ => false) &&
      (match cl.claim with | some id => s.nodeOf (lane (at_ i)) == some id | none => (s.nodeOf (lane (at_ i))).isSome)
    let freq : Nat := [80, 100, 120, 140, 155, 170, 185, 200].getD (s.core c).ctl.opCur.toNat 0
    (held = true ∨ major = true ∨ (∀ i < 8, asks i = false) → exec (.leaseGrant k) s = .next s) ∧
    (held = false → major = false → ∀ i < 8, asks i = true → (∀ j < i, asks j = false) →
      exec (.leaseGrant k) s = .next { (s.modCluster k fun x => { x with claim := s.nodeOf (lane (at_ i)), lastHolder := some (at_ i) }).modCore
        (lane (at_ i)) fun x => (x.modMat fun m => { m with lease := match m.lease with | .wait n => .held n s.now s.grants | l => l }).modFlow
          fun f => { f with leased := true } with grants := s.grants + 1 }) ∧
    ((s.core c).mat.lease = .held n start g →
      (s.now < start + (40960 + freq - 1) / freq → exec (.leaseTimeout c) s = .next s) ∧
      (start + (40960 + freq - 1) / freq ≤ s.now → exec (.leaseTimeout c) s =
        .next (s.modCore c fun x => (x.modMat fun m => { m with lease := .idle }).modFlow fun f => { f with leased := false }))) ∧
    ((∀ n start g, (s.core c).mat.lease ≠ .held n start g) → exec (.leaseTimeout c) s = .next s)

/-- Leases, clipping, weight loads of the flue and the turns of array grants. -/
def Obligations.LeasesAndWeightLoads : Prop :=
  Claims.LeasesAndClipping ∧ Claims.WeightLoadsFillShadows ∧ Claims.LeasesAreGrantedInTurn

/-- R409, R412, R424, R425, R452: a passed deadline, a window of 100 ticks whose energy lies above the limit of the held class, and a zone
that reads 100 degrees or more make their trap pending on the cores that run a node's context, once; a deadline that passes on an idle core
is discarded, its entry then 0 (log entry 51). Energies and temperatures are measured, and come with the event (log entry 9).
Completion is stated of: timerDeadline, powerExcess, thermalTrap. -/
def Claims.TimersPowerAndHeatRaiseTraps : Prop :=
  ∀ (s : State) (c o own array : Nat) (die : BitVec 3) (zone : BitVec 4) (whole : BitVec 8) (cores : List Nat),
    let x := s.core c
    let entry := mapGet 0 (c % 512) (s.die (c / 512)).timers
    let due := entry ≠ 0 ∧ entry.toNat ≤ s.now ∧ x.ctl.timerPassed = false
    let raised (x : Core) (u : Trap) : Core :=
      if x.run.isSome = true ∧ ∀ e ∈ x.flow.causes, e.code ≠ u.code then x.modFlow fun f => { f with causes := f.causes ++ [u] } else x
    let lowest := ([150, 250, 350, 450, 600, 750, 950].filter fun l => decide (l < own + array)).length
    let excess : Prop := x.run.isSome = true ∧ x.ctl.cls.toNat < lowest ∧ 0 < s.now ∧ s.now % 100 = 0
    let temp : Nat := (mapGet 0 (16 * die.toNat + zone.toNat) s.zones).toNat % 2 ^ 16
    let deg : Int := if temp < 2 ^ 15 then temp else (temp : Int) - 2 ^ 16
    (¬ due → exec (.timerDeadline c) s = .next s) ∧
    (due → x.run.isSome = true → exec (.timerDeadline c) s = .next (s.modCore c fun y => y.modCtl fun u => { u with timerPassed := true })) ∧
    (due → x.run = none → exec (.timerDeadline c) s = .next
      ((s.modDie (c / 512) fun d => { d with timers := mapDel (c % 512) d.timers }).modCore c fun y =>
        y.modCtl fun u => { u with timerPassed := false })) ∧
    (¬ excess → exec (.powerExcess c (own, array)) s = .next s) ∧
    (excess → exec (.powerExcess c (own, array)) s = .next (s.modCore c fun y =>
      raised y ⟨0x18, BitVec.ofNat 64 (lowest * 2 ^ 8 + x.ctl.cls.toNat)⟩)) ∧
    (deg < 100 * 16 ∨ (die.toNat, zone.toNat) ∈ s.hot ∨ whole.toNat ≠ deg.toNat / 16 % 256 → exec (.thermalTrap die zone whole cores) s = .next s) ∧
    (100 * 16 ≤ deg → (die.toNat, zone.toNat) ∉ s.hot → whole.toNat = temp / 16 % 256 →
      (∀ p ∈ s.cores, p.1 / 512 = die.toNat → Config.zoneOf p.1 = zone → (s.core p.1).run.isSome = true → p.1 ∈ cores) →
      ∃ t : State, exec (.thermalTrap die zone whole cores) s = .next t ∧
      t.hot = (die.toNat, zone.toNat) :: s.hot ∧
      t.core o = (if o / 512 = die.toNat ∧ Config.zoneOf o = zone then
        raised (s.core o) ⟨0x19, BitVec.ofNat 64 (die.toNat * 2 ^ 16 + zone.toNat * 2 ^ 8 + temp / 16 % 256)⟩ else s.core o) ∧
      t.nodes = s.nodes ∧ t.dies = s.dies ∧ t.hbm = s.hbm)

/-- R300, R419 to R423, R456 to R459, R18, R25: from 64 ticks before slot k, which begins at tick 2,560 k, requests are held; a slot begins, minor or
major, with its sweep of the zones' temperatures, which traps where a zone has risen to 100 degrees; a major one also ends every lease and
begins to rewrite the wear state, its generation odd. At its end the steps, which never fall, the levels and the marks found stand there,
routers found to have failed are bypassed, a strip whose routers are both out or worn is marked, and the generation is even again. An extended
slot ends with its trap on every core that runs a node, whether or not the event says which task has run over; one that runs into the next
slot ends there and does not shift it. What a slot finds is measured (log entry 9), the die of the entry of kind 0x61 is log entry 39, a
zone's STATE and its re-arming are log entry 40, the task that nothing names is log entry 73, and the strip marked for a router is log entry
74.
Completion is stated of: slotHold, minorSlot, majorSlot, slotEnd, maintenanceOverrun. -/
def Claims.MaintenanceSlots : Prop :=
  ∀ (s : State) (k : Nat) (kind : SlotKind) (ext o : Nat) (task : BitVec 8) (f : Config.Findings),
    let n := s.calendar.nextSlot
    let due : Prop := 2560 * n ≤ s.now
    let alone : Prop := s.calendar.now = none
    let turn := s.fresh + (if s.calendar.now.isSome then 1 else 0)
    let temp (i : Nat) : Nat := (Config.zoneReading turn (i / 16) (i % 16)).toNat % 2 ^ 16
    let deg (i : Nat) : Int := if temp i < 2 ^ 15 then temp i else (temp i : Int) - 2 ^ 16
    let cool : Prop := ∀ i < 128, deg i < 115 * 16
    let z := 16 * (o / 512) + (Config.zoneOf o).toNat
    let swept (t : State) (ended : Core → Core) : Prop :=
      (∀ i < 128, mapGet 0 i t.zones = (Config.zoneReading turn (i / 16) (i % 16) &&& 0x0000FF000000FFFF) |||
        BitVec.ofNat 64 ((if 110 * 16 ≤ deg i then 2 else if 100 * 16 ≤ deg i then 1 else 0) * 2 ^ 32)) ∧
      (∀ p, p ∈ t.hot ↔ p ∈ s.hot ∧ 16 * p.1 + p.2 < 128 ∧ 95 * 16 < deg (16 * p.1 + p.2) ∨
        p.1 < 8 ∧ p.2 < 16 ∧ 100 * 16 ≤ deg (16 * p.1 + p.2)) ∧
      (cool → t.core o = (if (s.core o).run.isSome = true ∧ 100 * 16 ≤ deg z ∧ (z / 16, z % 16) ∉ s.hot ∧
          ∀ e ∈ (s.core o).flow.causes, e.code ≠ 0x19 then
        (ended (s.core o)).modFlow fun w => { w with causes := w.causes ++
          [⟨0x19, BitVec.ofNat 64 (z / 16 * 2 ^ 16 + z % 16 * 2 ^ 8 + temp z / 16 % 256)⟩] } else ended (s.core o))) ∧
      ((∃ i < 128, 115 * 16 ≤ deg i) → t.stopped = true) ∧
      (cool → t.stopped = s.stopped ∧ t.nodes = s.nodes ∧ ∀ d < 8, (t.die d).withheld =
        if (List.range 16).any fun z => decide (110 * 16 ≤ deg (16 * d + z)) then true else if (List.range 16).all fun z => decide (deg (16 * d + z) < 100 * 16) then false else (s.die d).withheld)
    let quiet : Prop := s.hostQ = [] ∧ ∀ p ∈ s.cores, p.2.mat.cmds = []
    let stop := 2560 * k + if k % 1024 = 0 then 4096 else 128
    let held := decide (2560 * n ≤ s.now + 64)
    (exec .slotHold s = .next (if 2560 * n ≤ s.now + 64 then { s with calendar := { s.calendar with hold := true } } else s)) ∧
    let idle (x : Core) : Core := match x.mat.lease with
      | .held _ _ _ => (x.modMat fun m => { m with lease := .idle }).modFlow fun w => { w with leased := false }
      | _ => x
    let worn (l : List (Nat × Nat × BitVec 8)) (d k per : Nat) : Prop := ∃ q, q / per = k ∧ (d, q, 255#8) ∈ l
    let overran (j lasted task : Nat) (kind : SlotKind) : Trap := ⟨0x3E, BitVec.ofNat 64 (Min.min lasted (2 ^ 32 - 1) * 2 ^ 32 +
      j % 2 ^ 16 * 2 ^ 16 + (if kind = .major then 2 ^ 8 else 0) + task)⟩
    let struck : Prop := (s.core o).run.isSome = true ∧ ∀ e ∈ (s.core o).flow.causes, e.code ≠ 0x3E
    (¬ (due ∧ n % 1024 ≠ 0) → exec .minorSlot s = .next s) ∧ (¬ (due ∧ n % 1024 = 0) → exec .majorSlot s = .next s) ∧
    (due → n % 1024 ≠ 0 → ∃ t : State, exec .minorSlot s = .next t ∧
      t.calendar = { nextSlot := n + 1, now := some (n, .minor), hold := true } ∧ (alone → swept t id ∧ t.wear = s.wear)) ∧
    (due → n % 1024 = 0 → ∃ t : State, exec .majorSlot s = .next t ∧
      t.calendar = { nextSlot := n + 2, now := some (n, .major), hold := true } ∧ t.calEpoch = s.calEpoch + 1 ∧
      (alone → swept t idle ∧ ∃ g, t.wear = { s.wear with generation := s.wear.generation + 1, found := some g }) ∧
      ∀ p ∈ t.cores, ∀ a b g, p.2.mat.lease ≠ .held a b g) ∧
    (∀ ev, ev = Instr.minorSlot ∧ n % 1024 ≠ 0 ∨ ev = .majorSlot ∧ n % 1024 = 0 → due → s.calendar.now = some (k, kind) → s.wear.found = none →
      cool → ∃ t : State, ∃ j, exec ev s = .next t ∧ 0 < j ∧ j < 10 ∧ (struck → overran k (2560 * n - stop) j kind ∈ (t.core o).flow.causes) ∧
        (ev = .minorSlot → (t.die 0).qerr = ((s.logError 0 0x61 []).die 0).qerr)) ∧
    (s.calendar.now = none → exec .slotEnd s = .next s ∧ exec (.maintenanceOverrun ext task) s = .next s) ∧
    (s.calendar.now = some (k, kind) →
      (s.now < stop → exec .slotEnd s = .next s) ∧
      (s.now = stop → quiet → s.wear.found = none →
        exec .slotEnd s = .next { s with calendar := { s.calendar with now := none, hold := held } }) ∧
      (stop < s.now → quiet → s.wear.found = none → ∃ t : State, ∃ j, exec .slotEnd s = .next t ∧ 0 < j ∧ j < 10 ∧
        t.calendar = { s.calendar with now := none, hold := held } ∧ t.dies = (s.logError 0 0x61 []).dies ∧
        (struck → t.core o = (s.core o).modFlow fun w => { w with causes := w.causes ++ [overran k (s.now - stop) j kind] }) ∧
        (¬ struck → t.core o = s.core o)) ∧
      (s.now = stop → s.wear.found = some f → ∃ t : State, exec .slotEnd s = .next t ∧ t.calendar = { s.calendar with now := none, hold := held } ∧
        t.wear.found = none ∧ t.wear.generation = s.wear.generation + 1 ∧
        (∀ d < 8, ∀ i < 512, let old := mapGet 0 (512 * d + i) s.wear.step; let new := mapGet 0 (512 * d + i) t.wear.step
          old ≤ new ∧ (∀ g, (d, i, g) ∈ f.steps → Min.min 16 g ≤ new) ∧ (new = old ∨ ∃ g, (d, i, g) ∈ f.steps ∧ new = Min.min 16 g)) ∧
        ∀ d : Fin 8,
          (∀ i < 64, ((t.wear.clusters.get d).getLsbD i = true ↔ (s.wear.clusters.get d).getLsbD i = true ∨ (d.val, i) ∈ f.bonds ∨
            worn f.cores d i 8 ∨ ∃ q g, q / 8 = i ∧ 16 < g ∧ (d.val, q, g) ∈ f.steps)) ∧
          (∀ i < 64, ((t.wear.slices.get d).getLsbD i = true ↔ (s.wear.slices.get d).getLsbD i = true ∨ worn f.slices d i 1)) ∧
          (∀ r < 24, ∀ b : Bool, ((t.wear.routers.get d).getLsbD (2 * r + b.toNat) = true ↔
            (s.wear.routers.get d).getLsbD (2 * r + b.toNat) = true ∨ (d.val, r, b) ∈ f.routers)) ∧
          ∀ r < 24,
            let both (w : Wear) : Prop := (w.routers.get d).getLsbD (2 * r) = true ∧ (w.routers.get d).getLsbD (2 * r + 1) = true
            let gone : Prop := (s.wear.strips.get d).getLsbD r = true ∨ ∃ b, (d.val, r, b, 255#8) ∈ f.crossings
            ((t.wear.strips.get d).getLsbD r = true → gone ∨ both t.wear) ∧
            (gone ∨ (both t.wear ∧ ¬ both s.wear) → (t.wear.strips.get d).getLsbD r = true)) ∧
      (0 < ext → stop + ext = s.now → quiet → s.wear.found = none → ∃ t : State, exec (.maintenanceOverrun ext task) s = .next t ∧
        t.calendar = { s.calendar with now := none, hold := held } ∧ t.dies = (s.logError 0 0x61 []).dies ∧
        (struck → t.core o = (s.core o).modFlow fun w => { w with causes := w.causes ++ [overran k ext task.toNat kind] }) ∧
        (¬ struck → t.core o = s.core o)))

/-- Timers, power and heat raise their traps; maintenance slots. -/
def Obligations.TimersSlotsAndHeat : Prop :=
  Claims.TimersPowerAndHeatRaiseTraps ∧ Claims.MaintenanceSlots

/-- R236 to R244, R420: a walk reads the address-space table and then, level by level, the tables it leads to; it ends at an absent entry, a
malformed one, a group that disagrees, a page that must not be used, or a leaf, which the core and its cluster then cache: the core its latest
64 leaves, the cluster its latest 1,024 (log entry 52).
Completion is stated of: pageWalk. -/
def Claims.WalksFollowTheTables : Prop :=
  ∀ (s : State) (c k : Nat) (va : Word) (t : Nat → Nat), s.badLines = [] →
    let asid := (s.core c).activeAsid
    let v := va.toNat
    let entry (pa : Nat) : Nat := memRead s.hbm (s.domMod.toNat * 2 ^ 48 + pa) 8
    let part (e hi lo : Nat) : Nat := e / 2 ^ lo % 2 ^ (hi + 1 - lo)
    let home := s.ptBase.toNat + 8 * asid.toNat
    let root := entry home
    let idx (l : Nat) := v / 2 ^ (52 - 9 * l) % 512
    let rootGood := part root 62 48 = 0 ∧ part root 11 0 = 0 ∧ part root 47 12 * 4096 < 768 * 2 ^ 30
    let table (e : Nat) : Prop := part e 63 63 = 1 ∧ part e 62 36 = 0 ∧ part e 35 0 * 4096 < 768 * 2 ^ 30
    let reached := home < 768 * 2 ^ 30 ∧ part root 63 63 = 1 ∧ rootGood ∧ t 1 = part root 47 12 * 4096 ∧
      ∀ l < k, 1 ≤ l → table (entry (t l + 8 * idx l)) ∧ t (l + 1) = part (entry (t l + 8 * idx l)) 35 0 * 4096
    let pa := t k + 8 * idx k
    let e := entry pa
    let ps := part e 44 43
    let addr := part e 35 0
    let unit := if k = 3 then 8192 else 16
    let pos := idx k % 32
    let start : Int := (addr : Int) - pos * unit
    let goesOn := k < 3 ∨ k = 3 ∧ ps = 0
    let bad := part e 42 36 ≠ 0 ∨ ps = 3 ∨ k = 3 ∧ ps = 1 ∨ k = 4 ∧ ps = 2 ∨ k < 3 ∧ ps ≠ 0 ∨
      goesOn ∧ (part e 62 45 ≠ 0 ∨ 768 * 2 ^ 30 ≤ addr * 4096) ∨
      ¬ goesOn ∧ (addr % unit ≠ 0 ∨ ps ≠ 0 ∧ start % (32 * unit) ≠ 0)
    let piece (j : Nat) := entry (pa - 8 * pos + 8 * j)
    let agrees (j : Nat) : Prop := part (piece j) 63 36 = part e 63 36 ∧ (part (piece j) 35 0 : Int) = start + j * unit
    let isBit (n : Nat) : Bool := part e n n == 1
    let pages := if ps = 0 then 1 else if ps = 1 then 32 else 16384
    let leaf : Leaf :=
      { asid := asid, vpn := v / 65536 / pages * pages, pages := pages
        base := part e 55 45 * 2 ^ 48 + (if ps = 0 then addr else start.toNat) * 4096
        w := isBit 62, x := isBit 61, u := isBit 60, sc := isBit 59, cn := isBit 58, rhp := isBit 57, msc := isBit 56 }
    let lo := leaf.base % 2 ^ 48
    let inHbm := lo + pages * 65536 ≤ 768 * 2 ^ 30
    let usable := if part e 55 45 = s.domMod.toNat then inHbm ∨ ∀ i < pages, s.region (lo + i * 65536) ≠ .reserved
      else part e 55 45 < 1152 ∧ part e 55 45 < s.domSize.toNat ∧ inHbm
    let hit (l : Leaf) : Bool := l.asid == asid && decide (l.vpn ≤ v / 65536) && decide (v / 65536 < l.vpn + l.pages)
    let cached := (s.core c).mem.tlb ++ (s.cluster (clusterOf c)).tlb
    let ends (u : State) (r : Except Trap Leaf) : Prop :=
      s.translate c va = (u, r) ∧ exec (.pageWalk c va) s = .next (if s.calendar.hold then s else u)
    let faults (code : BitVec 8) (at_ : Option Nat) : Prop :=
      ends (match at_ with | some a => s.logError (dieOf c) 0x21 [BitVec.ofNat 64 a] | none => s) (.error ⟨code, va⟩)
    (2 ^ 52 ≤ v → faults 0x09 none) ∧
    (v < 2 ^ 52 → ∀ l ∈ cached.find? hit, ends s (.ok l)) ∧
    (v < 2 ^ 52 → cached.find? hit = none →
      (768 * 2 ^ 30 ≤ home → faults 0x09 (some home)) ∧
      (home < 768 * 2 ^ 30 → part root 63 63 = 0 → faults 0x08 none) ∧
      (home < 768 * 2 ^ 30 → part root 63 63 = 1 → ¬ rootGood → faults 0x09 (some home)) ∧
      (1 ≤ k → k ≤ 4 → reached →
        (part e 63 63 = 0 → faults 0x08 none) ∧
        (part e 63 63 = 1 → bad → faults 0x09 (some pa)) ∧
        (part e 63 63 = 1 → ¬ bad → ¬ goesOn →
          (ps ≠ 0 → ∀ j < 32, ¬ agrees j → (∀ i < j, agrees i) → faults 0x09 (some (pa - 8 * pos + 8 * j))) ∧
          ((ps ≠ 0 → ∀ j < 32, agrees j) → ¬ usable → faults 0x09 none) ∧
          ((ps ≠ 0 → ∀ j < 32, agrees j) → usable →
            ends ((s.modCore c fun x => x.modMem fun m => { m with tlb := (leaf :: m.tlb).take 64 }).modCluster (clusterOf c) fun q =>
              { q with tlb := (leaf :: q.tlb).take 1024 }) (.ok leaf)))))

/-- R97, R132, R224, R235, R268: the fetch of a bundle ends the bubble before it; a read stream's buffer takes its next row, up to four ahead,
unless the lock of its core holds a bank that it reads; a promise
that has come lets its BWAIT be tested again. Nothing else changes.
Completion is stated of: streamRowFetch, promiseTick, bundleFetch. -/
def Claims.FetchesAndPromises : Prop :=
  ∀ (s : State) (c : Nat) (q : BitVec 3) (tag : BitVec 4),
    let f := (s.core c).flow
    let ahead (t : Stream) : Prop := t.write = false ∧ t.done < t.pos + 4 ∧ max t.done t.pos < t.total
    (exec (.bundleFetch c) s = .next (s.modCore c fun x => x.modFlow fun w =>
      { w with fetched := true, frozen := if f.frozen = some .fetch then none else f.frozen })) ∧
    (∀ t ∈ (s.core c).stream? q,
      (ahead t → (s.core c).fetchHeld t (max t.done t.pos) = false → exec (.streamRowFetch c q) s = .next (s.modCore c fun x => x.modStream q fun u => { u with done := max t.done t.pos + 1 })) ∧
      (¬ ahead t ∨ (s.core c).fetchHeld t (max t.done t.pos) = true → exec (.streamRowFetch c q) s = .next s)) ∧
    ((s.core c).stream? q = none → exec (.streamRowFetch c q) s = .next s) ∧
    (f.frozen = some (.promise tag) → ((s.core c).mem.tags.get tag.toFin).promise ≤ s.now →
      exec (.promiseTick c tag) s = .next (s.modCore c fun x => x.modFlow fun w => { w with frozen := none })) ∧
    (f.frozen ≠ some (.promise tag) ∨ s.now < ((s.core c).mem.tags.get tag.toFin).promise → exec (.promiseTick c tag) s = .next s)

/-- Page walks; fetches, stream rows and promises. -/
def Obligations.TranslationAndFetch : Prop :=
  Claims.WalksFollowTheTables ∧ Claims.FetchesAndPromises

/-- R370, R373 to R377, R385: a SYNC group restarts when every member that has not halted its last slice has arrived and its earlier accesses
are performed, with the rows that it pushes to write streams (log entry 75); a gang or strip also empties its clusters' caches; a gang's restart ends its own caravan phase and opens one when every
member goes on with an XPH bundle (log entry 21), for which it waits while another gang's phase is open. A gang of which a pre-emption has
saved a core does not restart.
Completion is stated of: syncRestart. -/
def Obligations.SyncGroupsRestart : Prop :=
  ∀ (s : State) (c o : Nat) (g : Group) (r : Run), (s.core c).run = some r →
    let d := dieOf c
    let gang := s.gangCores r.node r.gang
    let m := match g with
      | .gang => gang
      | .cluster => gang.filter fun o => o / 8 == c / 8
      | .strip => gang.filter fun o => s.stripOf o == s.stripOf c
    let here (x : Core) : Bool := x.flow.arrived == some g &&
      x.mem.memq.all (fun e => match e.kind with | .fence _ _ _ => true | _ => false) &&
      x.mem.unseen == [] && x.mat.cmds.all (fun e => match e.cmd with | .drain _ _ _ _ (some _) _ => false | _ => true) &&
      ((match x.flow.save with | some t => t.pending | none => []) ++ x.flow.pending).all fun p =>
        decide (x.flow.bun < p.bun) || !(p.isPush || p.reply && !p.ready)
    let ready := c ∈ m ∧ (∀ o ∈ m, here (s.core o) = true) ∧ s.partSaved r.node r.gang = false
    let phase := (s.die d).phase
    let own : Bool := match phase with | some p => p.node == r.node && p.gang == r.gang | none => false
    let opens := m.all s.nextIsXph
    let blocked := g = .gang ∧ opens = true ∧ phase ≠ none ∧ own = false
    let open_ : Phase := { node := r.node, gang := r.gang, members := m, issued := [] }
    ((s.core c).flow.arrived = none → exec (.syncRestart c) s = .next s) ∧
    ((s.core c).flow.arrived = some g → (¬ ready ∨ blocked) → exec (.syncRestart c) s = .next s) ∧
    ((s.core c).flow.arrived = some g → ready → ¬ blocked → ∃ t : State, exec (.syncRestart c) s = .next t ∧
      t.core o = (if o ∈ m then (s.core o).modFlow fun f => { f with synced := true, restarted := true, arrived := none, frozen := none } else s.core o) ∧
      t.cluster o = (if g ≠ .cluster ∧ o ∈ m.map clusterOf then
        { s.cluster o with
          cache := (s.cluster o).cache.filter fun e => s.poolLine e.line
          fills := (s.cluster o).fills.filter fun e => s.poolLine e.line } else s.cluster o) ∧
      (∀ j < 8, t.die j = (if j = d ∧ g = .gang then
        { s.die j with
          phase := if opens then some open_ else if own then none else phase
          roads := if own = true ∨ opens = true then [] else (s.die j).roads } else s.die j)) ∧
      t.hbm = s.hbm ∧ t.nodes = s.nodes)

/-- R68 to R71, R75, R82, R420, R444, R447: the host's launch takes the next handle of its die, or is discarded, counted as lost and logged; LSTAT
tells the next number, the loss, which its read clears, and the free entries; LQUERY goes to the serai, whose next cycle answers the state
code after everything else that it does, with a message where DONE was clear. A request that the bridge holds waits there. The timing of requests
is log entry 46.
Completion is stated of: launch, lstat, lquery. -/
def Claims.LaunchesAndQueries : Prop :=
  ∀ (s : State) (die : BitVec 3) (v : Word),
    let d := die.toNat
    let D := s.die d
    let port (k : Nat) := 0x8000 + 0x100 * d + k
    let bits (lo n : Nat) : Nat := v.toNat / 2 ^ lo % 2 ^ n
    let handle (src seq : Nat) : Word := BitVec.ofNat 64 (src * 2 ^ 35 + d * 2 ^ 32 + seq)
    let kept (h : Word) : Prop := ∃ g ∈ s.graph? h, ∀ t ∈ g.finalAt, s.now ≤ t + 100000
    let named := if bits 50 14 ≠ 0 ∨ bits 44 4 ≠ 0 ∨ bits 48 2 = 3 then none
      else s.nodes.find? fun n => n.handle == handle (bits 48 2) (bits 0 32) && n.idx == bits 32 12
    let code (n : Node) : Nat := match n.state with
      | .waiting => 0 | .ready => 1 | .reserving => 2 | .running => 3 | .preempted => 4 | .retiring => 5 | .done => 6
      | .cancelled => 7 | .killed => 8 | .rejected => 9
    let held := (s.nodes.filter fun n => n.die == d && !([.done, .cancelled, .killed, .rejected].contains n.state)).length
    let status : Word := BitVec.ofNat 64
      (D.seqHost.toNat * 2 ^ 32 + (if D.lost = true then 2 ^ 31 else 0) + (16 - D.fifo.length) * 2 ^ 16 + (4096 - held))
    let query : Ask := { kind := .hostQuery v }
    let answers (k : Nat) : Prop :=
      let t := s.modDie d fun x => { x with asks := [], lqResult := BitVec.ofNat 64 (2 ^ 63 + k) }
      s.serveQueries d = if D.lqResult.toNat < 2 ^ 63 then t.signalVector (8 * d + 2) else t
    exec (.launch die v) s = .next (s.arriving (.writeReg (port 0) 8 v)
      (if s.service = true ∧ s.stopped = false ∧ D.fifo.length < 16 then
        s.modDie d fun x => { x with seqHost := x.seqHost + 1, fifo := x.fifo ++ [⟨v, handle 0 D.seqHost.toNat, none⟩] }
      else (s.modDie d fun x => { x with lost := true }).modDieMsix d fun x => x.pushEntry [BitVec.ofNat 64 (d * 2 ^ 32 + 2 ^ 8 + 0x11), v])) ∧
    exec (.lstat die) s = .next (s.arriving (.readReg (port 8) 8) { s.modDie d fun x => { x with lost := false } with reply := .word status }) ∧
    exec (.lquery die v) s = .next (s.arriving (.writeReg (port 0x20) 8 v) (s.modDie d fun x =>
      { x with lqResult := x.lqResult &&& 0x7FFFFFFFFFFFFFFF, asks := x.asks ++ [query] })) ∧
    (D.asks = [query] →
      (named = none → answers 15) ∧
      ∀ n ∈ named, (kept n.handle → answers (code n)) ∧ (¬ kept n.handle → answers 15))

/-- R69, R75, R76, R80 to R82, R86, R444, R447: LCANCEL goes to the serai, whose next cycle cancels a node that is not yet placed, frees what it
holds, and cancels every WAITING or READY node that can be reached through successors; a node that runs, is done or is gone already stays, and
LCRESULT tells which, with a message where DONE was clear. Of the cancels of a cycle the host's is served first, and one whose node another
reaches has the code 3 (log entry 62). The save frames of a node that returns from PREEMPTED go with it (log entry 78).
Completion is stated of: lcancel. -/
def Claims.CancelsSpread : Prop :=
  ∀ (s : State) (die : BitVec 3) (v : Word),
    let d := die.toNat
    let bits (lo n : Nat) : Nat := v.toNat / 2 ^ lo % 2 ^ n
    let kept (h : Word) : Prop := ∃ g ∈ s.graph? h, ∀ t ∈ g.finalAt, s.now ≤ t + 100000
    let named := if bits 50 14 ≠ 0 ∨ bits 44 4 ≠ 0 ∨ bits 48 2 = 3 then none
      else s.nodes.find? fun n => n.handle == BitVec.ofNat 64 (bits 48 2 * 2 ^ 35 + d * 2 ^ 32 + bits 0 32) && n.idx == bits 32 12
    let request : Ask := { kind := .hostCancel v }
    let served (l : List Ask) : State := s.serveCancels d l
    let told (t : State) : State := if (s.die d).lcResult.toNat < 2 ^ 63 then t.signalVector (8 * d + 2) else t
    let refuses (code : Nat) : Prop :=
      served [request] = told (s.modDie d fun x => { x with lcResult := BitVec.ofNat 64 (2 ^ 63 + code) })
    exec (.lcancel die v) s = .next (s.arriving (.writeReg (0x8010 + 0x100 * d) 8 v) (s.modDie d fun x =>
      { x with lcResult := x.lcResult &&& 0x7FFFFFFFFFFFFFFF, asks := x.asks ++ [request] })) ∧
    (named = none → refuses 15) ∧
    ∀ n ∈ named,
      (¬ kept n.handle → refuses 15) ∧
      (kept n.handle →
        (n.state ∈ [.running, .preempted, .retiring] → refuses 1) ∧
        (n.state = .done → refuses 2) ∧
        (n.state ∈ [.cancelled, .killed, .rejected] → refuses 3) ∧
        (n.state ∈ [.waiting, .ready, .reserving] → s.Numbered → ∃ (t : State) (L : List Nat),
          served [request] = t ∧ s.Spreads [n.id] L ∧
          t.nodes = (s.nodes.map fun m =>
            if m.id = n.id then { m with state := .cancelled, saved := [], stopping := false }
            else if m.id ∈ L then { m with state := .cancelled } else m) ∧
          t.graphs = s.graphsWith t.nodes [n.handle] ∧
          (∀ j < 8,
            (t.die j).busy = (s.die j).busy.filter (fun p => p.2 != n.id + 1) ∧
            (t.die j).resv = (s.die j).resv.filter (fun r => r.node != n.id) ∧
            (t.die j).lcResult = if j = d then BitVec.ofNat 64 (2 ^ 63) else (s.die j).lcResult) ∧
          (∀ f, f ∈ (t.die n.die).frames ↔ f ∈ (s.die n.die).frames ∧ ∀ v ∈ n.saved, ¬ (v.frame ≤ f ∧ f < v.frame + v.nframes)) ∧
          t.msix = (told s).msix ∧ t.cores = s.cores ∧ t.clusters = s.clusters ∧ t.hbm = s.hbm) ∧
        ∀ (a : Ask) (h : Word) (idx : Nat) (m : Node) (L : List Nat), a.kind = .cancel h idx → s.taskNode a.own h idx = some m → s.Numbered →
          m.id ≠ n.id → m.state ∈ [.waiting, .ready] → n.state ∈ [.waiting, .ready] →
          (s.Spreads [n.id] L → m.id ∈ L → ∃ u : State, served [a, request] = u.answer a 3) ∧
          (s.Spreads [m.id] L → n.id ∈ L → ∃ (u : State) (k : Word), served [a, request] = u.answer a k ∧
            (u.die d).lcResult = BitVec.ofNat 64 (2 ^ 63 + 3)))

/-- R52 to R56, R61 to R63, R72 to R75, R420: the graph at the head of the launch FIFO, with a valid header and room for its nodes, is admitted: its
records are checked in order; a node is REJECTED and logged with the number of its first failed check, or READY or WAITING by NPRED, and what
a rejected node reaches, by the entries that can be read, is CANCELLED (log entry 33); an entry that cannot be read gives 11 whatever the others hold (log entry
64). While no graph is accepted none is admitted (log entry 65). A header that is not valid rejects the graph, which waits while there is no room.
Completion is stated of: graphAdmission. -/
def Claims.GraphsAreAdmitted : Prop :=
  ∀ (s : State) (die : BitVec 3) (w : Launch) (rest : List Launch) (H : Option Nat) (R : Nat → Option Nat) (E : Nat → Option Nat),
    (s.die die.toNat).fifo = w :: rest → s.Numbered →
    let waits : Prop := (s.service = true ∧ s.stopped = false → s.calendar.hold = true ∨ ∃ p ∈ w.after, s.releasedUpTo p.1 p.2 = false)
    let d := die.toNat
    let asn : BitVec 12 := w.word.extractLsb' 52 12
    let va := w.word.toNat / 64 % 2 ^ 46 * 64
    let at_ (r off n : Nat) : Nat := r / 2 ^ (8 * off) % 2 ^ (8 * n)
    let nn (h : Nat) := at_ h 0 4
    let readable (h : Nat) : Prop := at_ h 4 4 ≤ 65536 ∧ 1 ≤ nn h ∧ nn h ≤ 4096 ∧ at_ h 8 8 % 256 = 0 ∧ at_ h 16 8 % 4 = 0 ∧ at_ h 24 40 = 0
    let valid (h : Nat) : Prop := w.word.toNat % 64 = 0 ∧ readable h
    let free := 4096 - (s.nodes.filter fun n => n.die == d && !([.done, .cancelled, .killed, .rejected].contains n.state)).length
    let logs (u : State) (check i : Nat) : State := u.modDieMsix d fun x =>
      x.pushEntry [BitVec.ofNat 64 (i * 2 ^ 24 + check * 2 ^ 16 + 2 * 2 ^ 8 + 0x10), w.handle, BitVec.ofNat 64 va]
    let taken := s.modDie d fun x => { x with fifo := rest }
    let entries (h r : Nat) : List (Option Nat) := if at_ r 0xF0 4 + at_ r 0xF4 2 ≤ at_ h 4 4
      then (List.range (at_ r 0xF4 2)).map fun j => E (at_ r 0xF0 4 + j) else []
    let read (h r : Nat) : List Nat := (entries h r).filterMap id
    let tiles (r : Nat) : Nat := ((List.range (at_ r 0x1A 1)).map fun k => (at_ r (0x20 + 8 * k) 4 + at_ r (0x24 + 8 * k) 4 - 1) / at_ r (0x24 + 8 * k) 4).prod
    let failed (h r : Nat) : List Nat :=
      let nd := at_ r 0x1A 1
      let perm (k : Nat) := at_ r 0x1B 1 / 4 ^ k % 4
      let used := at_ r 0x88 1
      let kind (j : Nat) := at_ r (0x9C + 16 * j) 1
      let reserved := at_ r 0x0D 1 / 4 + at_ r 0x0E 1 / 8 + at_ r 0x0F 1 / 4 + at_ r 0x1C 4 + at_ r 0x89 7 + at_ r 0xF8 8 +
        ((List.range used).map fun j => at_ r (0x90 + 16 * j) 8 / 2 ^ 52 + kind j / 64 + at_ r (0x9D + 16 * j) 3).sum
      (if at_ r 0 8 % 32 = 0 ∧ at_ r 0 8 < 2 ^ 52 then [] else [1]) ++
      (if 1 ≤ at_ r 0x14 4 ∧ at_ r 0x14 4 ≤ 65536 then [] else [2]) ++
      (if at_ r 0x18 1 ≤ 9 ∨ at_ r 0x18 1 = 15 then [] else [3]) ++
      (if 1 ≤ at_ r 0x19 1 ∧ at_ r 0x19 1 ≤ 8 ∧ (at_ r 0x0F 1 / 2 % 2 = 1 ∨ at_ r 0x19 1 = 1) then [] else [4]) ++
      (if 1 ≤ nd ∧ nd ≤ 4 then [] else [5]) ++
      (if ((List.range nd).all fun k => ((List.range nd).filter fun j => perm j == k).length == 1) && (List.range 4).all fun j => decide (j < nd) || perm j == 0 then [] else [6]) ++
      (if (∀ k < 4, if k < nd then at_ r (0x20 + 8 * k) 4 ≠ 0 ∧ at_ r (0x24 + 8 * k) 4 ≠ 0 else at_ r (0x20 + 8 * k) 8 = 2 ^ 32 + 1) ∧
        tiles r ≤ 2 ^ 40 then [] else [7]) ++
      (if used ≤ 6 ∧ ∀ j < 6, if j < used then at_ r (0x90 + 16 * j) 8 % 128 = 0 ∧ kind j % 16 ∈ [1, 2, 3, 4, 5, 6, 7, 8, 9, 10, 11, 12, 13, 14] ∧
          kind j / 16 % 4 ≠ 0 else at_ r (0x90 + 16 * j) 16 = 0 then [] else [8]) ++
      (if at_ r 0xF0 4 + at_ r 0xF4 2 ≤ at_ h 4 4 then [] else [9]) ++
      (if none ∈ entries h r then [11] else (if ∀ e ∈ read h r, e % 4096 < nn h then [] else [9]) ++
        if reserved = 0 ∧ ∀ e ∈ read h r, e < 4096 then [] else [10])
    let check (h i : Nat) : Option Nat := match R i with | none => some 11 | some r => (failed h r).head?
    let record (h r : Nat) : NodeRec :=
      { entry := BitVec.ofNat 64 (at_ r 0 8), nodeId := BitVec.ofNat 32 (at_ r 8 4), stage := BitVec.ofNat 8 (at_ r 0x0C 1)
        prio := BitVec.ofNat 2 (at_ r 0x0D 1), pclass := BitVec.ofNat 3 (at_ r 0x0E 1), spread := at_ r 0x0F 1 / 2 % 2 == 1
        post := at_ r 0x0F 1 % 2 == 1, inst := BitVec.ofNat 32 (at_ r 0x10 4), vwidth := at_ r 0x14 4, gang := at_ r 0x18 1
        dies := at_ r 0x19 1, tiles := tiles r, seed := BitVec.ofNat 64 (at_ r 0x40 8)
        args := (List.range 8).map fun k => BitVec.ofNat 64 (at_ r (0x48 + 8 * k) 8)
        bases := (List.range (at_ r 0x88 1)).map fun j => BitVec.ofNat 64 (at_ r (0x90 + 16 * j) 8)
        nsucc := at_ r 0xF4 2, npred := at_ r 0xF6 2
        succs := ((read h r).map (· % 4096)).filter (· < nn h) }
    let node (h i : Nat) : Node :=
      let rec_ : NodeRec := match R i with | none => {} | some r => record h r
      { id := s.nextNode + i, die := d, idx := i, handle := w.handle, record := rec_, preds := rec_.npred, readyTick := s.now
        state := if (check h i).isSome then .rejected else if rec_.npred = 0 then .ready else .waiting }
    (waits → exec (.graphAdmission die) s = .next s) ∧
    (¬ waits → s.seraiRead d asn va 64 = (s, H) → (∀ u : State, u.hbm = s.hbm → u.badLines = s.badLines → u.ptBase = s.ptBase → u.domMod = s.domMod → u.domSize = s.domSize → u.part = s.part →
      ∀ h ∈ H, (∀ i < nn h, u.seraiRead d asn (at_ h 8 8 + 256 * i) 256 = (u, R i)) ∧
        ∀ j < at_ h 4 4, u.seraiRead d asn (at_ h 16 8 + 4 * j) 4 = (u, E j)) →
    ((∀ h ∈ H, ¬ valid h) → exec (.graphAdmission die) s = .next (logs taken 0 0)) ∧
    ∀ h ∈ H, valid h →
      (free < nn h → exec (.graphAdmission die) s = .next s) ∧
      (nn h ≤ free → ∃ (t : State) (L : List Nat),
        let u := { s with nodes := s.nodes ++ (List.range (nn h)).map (node h) }
        exec (.graphAdmission die) s = .next t ∧
        u.Spreads ((u.nodes.filter fun n => n.handle == w.handle && n.state == .rejected).map (·.id)) L ∧
        t.nodes = (u.nodes.map fun m => if m.id ∈ L ∧ (m.state = .waiting ∨ m.state = .ready) then { m with state := .cancelled } else m) ∧
        t.graphs = State.graphsWith { s with graphs := s.graphs ++ [⟨w.handle, d, asn, BitVec.ofNat 64 va, nn h, none⟩] } t.nodes [w.handle] ∧
        t.dies = ((List.range (nn h)).foldl (fun v i => match check h i with | some k => logs v k i | none => v) taken).dies ∧
        t.nextNode = s.nextNode + nn h ∧ t.cores = s.cores ∧ t.hbm = s.hbm))

/-- R75: a graph whose nodes have all been final for more than 100,000 ticks is forgotten with its nodes; no other is.
Completion is stated of: nodeStateExpiry. -/
def Claims.FinalGraphsAreForgotten : Prop :=
  ∀ (s : State) (i : Nat) (g : Graph), s.graphs[i]? = some g →
    (∀ t ∈ g.finalAt, t + 100000 < s.now →
      exec (.nodeStateExpiry i) s = .next { s with graphs := s.graphs.eraseIdx i, nodes := s.nodes.filter fun n => n.handle != g.handle }) ∧
    ((∀ t ∈ g.finalAt, s.now ≤ t + 100000) → exec (.nodeStateExpiry i) s = .next s)

/-- Launches, queries and cancels of the host; admission of graphs. -/
def Obligations.LaunchesAndAdmission : Prop :=
  Claims.LaunchesAndQueries ∧ Claims.CancelsSpread ∧ Claims.GraphsAreAdmitted ∧ Claims.FinalGraphsAreForgotten

/-- R66, R79, R82, R87, R465: a serai has one cycle in a tick, in which a commit that is due, the kills and pre-emptions, the cancels, the launches
of cores, placement and the queries follow one another (log entry 62); the cycles of a tick go by ascending die. Of the launches, and of the cancels, the host's
come first and those of cores by ascending core.
Completion is stated of: seraiCycle. -/
def Claims.SeraiCyclesGoInOrder : Prop :=
  ∀ (s : State) (die : BitVec 3),
    let d := die.toNat
    let before := (List.range d).foldl State.cycle s
    let begun : State := { before with lastHold := some (s.now, d) }.modDie d fun x => { x with cycle := some s.now }
    let u := begun.commit d
    let l := (u.die d).asks
    let from_ (a : Ask) : Nat := match a.kind with | .cancel _ _ | .query _ _ | .launch _ _ => a.core + 1 | _ => 0
    let kept (p : Ask → Bool) (m : List Ask) : Prop := m.Perm (l.filter p) ∧ (m.map from_).Pairwise (· ≤ ·) ∧ ∀ k,
      m.filter (fun a => from_ a == k) = l.filter fun a => p a && from_ a == k
    ((before.die d).cycle = some s.now → exec (.seraiCycle die) s = .next before) ∧
    ((before.die d).cycle ≠ some s.now → ∃ cancels launches : List Ask,
      kept (fun a => match a.kind with | .cancel _ _ | .hostCancel _ => true | _ => false) cancels ∧
      kept (fun a => match a.kind with | .launch _ _ => true | _ => false) launches ∧
      let queries := u.modDie d fun x => { x with asks := l.filter fun a => match a.kind with | .query _ _ | .hostQuery _ => true | _ => false }
      let killed := l.foldl (fun (t : State) a => match a.kind with | .kill v => t.killRequest d v | .preempt v => t.preemptRequested d v | _ => t) queries
      let roots := cancels.filterMap fun a => (killed.askedNode d a).map (·.id)
      let cancelled := cancels.foldl (killed.serveCancel roots d) killed
      exec (.seraiCycle die) s = .next (((launches.foldl (State.serveSpawn d) cancelled).placeNext d).serveQueries d)) ∧
    before.now = s.now

/-- R57, R76 to R79, R83 to R89, R419: a serai offers its look-ahead window to placement: the node of the window that has a base is reserved, one
whose stage's range is free first and by rank otherwise; its home range is held, or the node collides, and the next node is offered in the next
cycle (log entry 66). A node at level 3 that has waited 400,000 ticks holds the window alone, until it is reserved or leaves (log entry 34). -/
def Claims.SeraiCyclesReserve : Prop :=
  ∀ (s : State) (d : Nat), d < 8 → s.Numbered →
    let level (n : Node) := Min.min 3 ((if n.ranOnce then n.level else n.record.prio.toNat) + (s.now - n.readyTick) / 100000)
    let ranked := s.nodes.filter fun n => n.die == d && (n.state == .ready || n.state == .preempted) && n.backoff.all fun t => decide (t ≤ s.now)
    let key (n : Node) := [3 - level n, n.readyTick, n.handle.toNat / 2 ^ 35, n.handle.toNat % 2 ^ 32, n.idx]
    let before (a b : Node) : Bool := decide (key a < key b)
    let first := ranked.find? fun n => ranked.all fun m => m.id == n.id || before n m
    let kept := ((s.die d).alone.bind s.node?).filter fun n => n.state == .ready || n.state == .preempted || n.state == .reserving
    let alone := (kept.or (first.filter fun n => level n == 3 && decide (n.readyTick + 400000 ≤ s.now))).map (·.id)
    let window := ranked.filter fun n => match alone with
      | some id => n.id == id
      | none => decide ((ranked.filter (before · n)).length < 8)
    let near (n : Node) : Bool := (s.preferred d (s.wantedSize n) n).isSome
    let u := s.modDie d fun x => { x with alone := alone }
    let idle : Prop := (∃ k, s.calendar.now = some (k, .major)) ∨ (s.die d).resv ≠ none
    (idle → s.placeNext d = s) ∧
    (¬ idle → (∀ a ∈ ranked, ∀ b ∈ ranked, key a = key b → a = b) →
      (∀ n ∈ window, ∀ b ∈ s.baseOn d (s.wantedSize n) n,
        (∀ m ∈ window, m ≠ n → s.baseOn d (s.wantedSize m) m ≠ none → near n = true ∧ near m = false ∨ near n = near m ∧ before n m = true) →
        let g := s.wantedSize n
        let r : Reservation := { node := n.id, g := g, gangs := [(d, b)], holds := [], tried := 0, powers := [], granted := [], since := s.now, asked := s.now }
        let v : State := { u with nodes := u.nodes.map fun m => if m.id = n.id then { m with state := .reserving } else m }
        s.placeNext d =
          (if s.canHold d b g = true then ((v.holding d b g n).reserves d r).goesOn d r n else v.collided n)) ∧
      ((∀ n ∈ window, s.baseOn d (s.wantedSize n) n = none) → alone = none ∨ window = [] → s.placeNext d = u))

/-- R85 to R88, R419, R421, R453: a die answers a hold, and the reservation goes on with or without it; the holds of a tick go by ascending home die,
after the cycles of the lower dies and before the home die's own. A die answers for the power of its gang, and a gang refused is dropped, or, of a node that returns, collides.
What is not answered in 32 ticks has failed, an answer that comes later too; no answer comes in a major slot, where the time goes on (log entries
32 and 67). A back-off that is over ends.
Completion is stated of: holdAnswer, holdTimeout, powerAnswer, backoffEnd. -/
def Claims.ReservationsAreAnswered : Prop :=
  ∀ (s : State) (die other : BitVec 3) (id : Nat) (r : Reservation) (n : Node),
    (s.die die.toNat).resv = some r → s.node? r.node = some n →
    let d := die.toNat
    let o := other.toNat
    let major : Prop := ∃ k, s.calendar.now = some (k, .major)
    let late := r.asked + 32 < s.now
    let outOfTurn : Prop := ∃ e, s.lastHold = some (s.now, e) ∧ d < e
    let failed (t : State) : State := let m := { r with holds := [], since := s.now }; (t.reserves d m).goesOn d m n
    let given : Reservation := { r with holds := [], since := s.now, gangs := r.gangs ++ [(o, (r.holds.lookup o).getD 0)] }
    let j := r.gangs.findIdx fun p => p.1 == o
    let left : Reservation := { r with powers := r.powers.filter (· != o), since := s.now }
    let v := s.reserves d left
    let fits := v.classesHeld o + n.classSum j r.g ≤ (s.die o).grant.budget
    let refused : State := if n.saved ≠ [] then v.collided n
      else (v.modDie o fun x => { x with busy := x.busy.filter fun p => p.2 != n.id + 1 }).reserves d
        { left with gangs := r.gangs.filter fun p => p.1 != o }
    (major → exec (.holdAnswer die other) s = .next s ∧ exec (.powerAnswer die other) s = .next s) ∧
    (r.holds.lookup o = none ∨ outOfTurn ∨ (s.die d).cycle = some s.now → exec (.holdAnswer die other) s = .next s) ∧
    (∀ b ∈ r.holds.lookup o, ¬ major → ¬ outOfTurn → (s.die d).cycle ≠ some s.now → (∀ e < d, (s.die e).cycle = some s.now) →
      let u : State := { s with lastHold := some (s.now, d) }
      exec (.holdAnswer die other) s = .next (if ¬ late ∧ s.canHold o b r.g = true
        then (((u.reserves d { r with holds := [], since := s.now }).holding o b r.g n).reserves d given).goesOn d given n
        else failed u)) ∧
    (¬ late → exec (.holdTimeout die other) s = .next s) ∧
    (late → (r.holds.lookup o).isSome = true → exec (.holdTimeout die other) s = .next (failed s)) ∧
    (late → r.holds.lookup o = none → o ∉ r.powers → exec (.holdTimeout die other) s = .next s) ∧
    (late → r.holds.lookup o = none → o ∈ r.powers → exec (.holdTimeout die other) s = .next refused) ∧
    (¬ major → o ∉ r.powers → exec (.powerAnswer die other) s = .next s) ∧
    (¬ major → o ∈ r.powers → exec (.powerAnswer die other) s = .next
      (if ¬ late ∧ fits then s.reserves d { left with granted := r.granted ++ [o] } else refused)) ∧
    exec (.backoffEnd id) s = .next { s with nodes := s.nodes.map fun m =>
      if m.id = id then { m with backoff := m.backoff.filter fun t => decide (s.now < t) } else m }

/-- R19, R57, R59, R60, R76, R84 to R86, R88, R89, R91, R92, R95, R143, R153: once every answer is in, a later cycle commits: the node is RUNNING, its holds and conflicts
are gone, and every core of every gang, its clusters' read caches empty, begins its first slice with the node's class, or waits for the
context that was saved for it. Each die's affinity table notes the range. A gang on a strip that has lost its routers since it was held is dropped;
the home gang, or any of a returning node, makes the node collide (log entry 41).
Completion is stated of: reservationCommit. -/
def Claims.ReservationsCommit : Prop :=
  ∀ (s : State) (die : BitVec 3) (r : Reservation) (n : Node) (o e : Nat),
    (s.die die.toNat).resv = some r → s.node? r.node = some n → s.Numbered → (r.gangs.map (·.1)).Nodup → (∀ p ∈ r.gangs, p.1 < 8 ∧ p.2 + r.g ≤ 512) →
    let d := die.toNat
    let waits := (∃ k, s.calendar.now = some (k, .major)) ∨ r.holds ≠ [] ∨ r.powers ≠ [] ∨ d ∉ r.granted ∨ s.now ≤ r.since
    let R := n.record
    let level := Min.min 3 ((if n.ranOnce then n.level else R.prio.toNat) + (s.now - n.readyTick) / 100000)
    let dead (p : Nat × Nat) : Bool := (List.range r.g).any fun i =>
      let q := 2 * s.stripOf (512 * p.1 + p.2 + i)
      (s.wear.routerBits p.1).getLsbD q && (s.wear.routerBits p.1).getLsbD (q + 1)
    let collides : Prop := (∃ p ∈ r.gangs, dead p = true ∧ p.1 = d) ∨ n.saved ≠ [] ∧ ∃ p ∈ r.gangs, dead p = true
    let gangs := r.gangs.filter fun p => !dead p
    let D := gangs.length
    let j := gangs.findIdx fun p => p.1 == e
    let base := (gangs.getD j (0, 0)).2
    let k := o - base
    let slice := r.g * j + k
    let first (v : Nat) : Nat := v * (R.tiles / R.vwidth) + Min.min v (R.tiles % R.vwidth)
    let asn : BitVec 12 := ((s.graphs.find? fun g => g.handle == n.handle).map (·.asn)).getD 0
    let old := s.core (512 * e + o)
    let cap := if (s.die e).grant.fsafe then 2 else 7
    let regs : Regs := { ({} : Regs) with
      s := Vector.ofFn fun i => if 1 ≤ i.val ∧ i.val ≤ 8 then R.args.getD (i.val - 1) 0 else 0
      a := Vector.ofFn fun i => if i.val < 6 then R.bases.getD i.val 0 else 0 }
    let fresh : Core := { old with
      regs := regs
      ctl := Ctl.requestOp
        { old.ctl with lockN := 0, lockP := 0, handler := false, priv := false, rndCount := 0, rngSeed := R.seed, xcoll := 0, winIdx := 0
                       asid := asn, cls := R.pclass } cap 5
      flow := { pc := BitVec.ofNat 59 (R.entry.toNat / 32), bun := old.flow.bun, nextId := old.flow.nextId, causes := old.flow.causes }
      mem := { epoch := old.mem.epoch + 1, tlb := old.mem.tlb }
      run := some
        { node := n.id, gang := j, core := k, slice := slice, ord := 0, begin := first slice, end_ := first (slice + 1), nodeId := R.nodeId
          stage := BitVec.ofNat 64 (R.inst.toNat * 2 ^ 32 + R.stage.toNat), vwidth := R.vwidth, g := r.g, d := D, entry := R.entry
          last := decide (R.vwidth ≤ slice + D * r.g) } }
    let again (v : SavedCore) : Core := { old with
      ctl := Ctl.requestOp { old.ctl with cls := v.ctx.ctl.cls } cap 5
      run := v.ctx.run.map fun q => { q with gang := j, core := k, restore := true } }
    let placed := e < 8 ∧ o < 512 ∧ j < D ∧ base ≤ o ∧ o < base + r.g
    (waits → exec (.reservationCommit die) s = .next s) ∧
    (¬ waits → collides → exec (.reservationCommit die) s = .next (s.collided n)) ∧
    (¬ waits → ¬ collides → ∃ t : State, exec (.reservationCommit die) s = .next t ∧
      (e < 8 → o < 512 → t.core (512 * e + o) =
        if placed then (match n.saved.find? fun v => v.gang == j && v.core == k with | none => fresh | some v => again v) else old) ∧
      t.nodes = (s.nodes.map fun m => if m.id = n.id then
        { m with state := .running, ranOnce := true, level := level, conflicts := 0, backoff := none, commitTick := s.now, g := r.g, gangs := gangs }
        else m) ∧
      (e < 8 → (t.die e).busy = (s.die e).busy.filter (fun p => p.2 != n.id + 1) ∧
        (t.die e).resv = (s.die e).resv.filter (fun q => q.node != n.id) ∧
        (t.die e).affinity = if j < D then mapSet R.stage.toNat ⟨base, r.g⟩ (s.die e).affinity else (s.die e).affinity) ∧
      (placed → (t.cluster ((512 * e + o) / 8)).cache = [] ∧ (t.cluster ((512 * e + o) / 8)).fills = []) ∧ t.hbm = s.hbm)

/-- The serai cycle, two-phase reservation and commit. -/
def Obligations.PlacementOfNodes : Prop :=
  Claims.SeraiCyclesGoInOrder ∧ Claims.SeraiCyclesReserve ∧ Claims.ReservationsAreAnswered ∧ Claims.ReservationsCommit

/-- R60, R76, R91, R92, R95, R168: the slice of a core that has halted ends once its results have landed, its scratchpad stores are seen by others
and everything it issued is performed, array commands too (log entry 22): its streams, loops, drains and signal go, and its next slice starts,
the scratchpad as it was; when every slice of the node has ended the node is RETIRING.
Completion is stated of: sliceEnd. -/
def Claims.SlicesEnd : Prop :=
  ∀ (s : State) (c : Nat) (r : Run) (n : Node), (s.core c).run = some r → s.node? r.node = some n → s.Numbered →
    let x := s.core c
    let quiet := r.halted = true ∧ r.ended = false ∧ x.mem.memq = [] ∧ x.mem.bulk = [] ∧ x.mem.outs = [] ∧ x.mat.cmds = [] ∧ x.mem.cn = [] ∧
      x.mem.unseen = [] ∧ x.flow.pending = [] ∧ ∀ p ∈ s.reaping, p.2 ≠ c
    let R := n.record
    let stride := n.gangs.length * n.g
    let slice := (r.ord + 1) * stride + r.gang * n.g + r.core
    let first (v : Nat) : Nat := v * (R.tiles / R.vwidth) + Min.min v (R.tiles % R.vwidth)
    let asn : BitVec 12 := ((s.graphs.find? fun g => g.handle == n.handle).map (·.asn)).getD 0
    let whole := n.haltedSlices + 1 = R.vwidth
    let gone : Core :=
      { x with
        flow := { x.flow with loops := Vector.replicate 4 {}, signal := false, carry := {} }, mem := { x.mem with streams := [] }
        mat := { x.mat with drains := [], lease := .idle }, run := some { r with ended := true } }
    let next : Core :=
      { gone with
        regs := { ({} : Regs) with
          s := Vector.ofFn fun i => if 1 ≤ i.val ∧ i.val ≤ 8 then R.args.getD (i.val - 1) 0 else 0
          a := Vector.ofFn fun i => if i.val < 6 then R.bases.getD i.val 0 else 0 }
        ctl :=
          { x.ctl with lockN := 0, lockP := 0, handler := false, priv := false, rndCount := 0, rngSeed := R.seed, xcoll := 0, winIdx := 0
                       asid := asn }
        flow := { pc := BitVec.ofNat 59 (R.entry.toNat / 32), bun := x.flow.bun, nextId := x.flow.nextId, causes := x.flow.causes }
        mem := { epoch := x.mem.epoch, spad := x.mem.spad, written := x.mem.written, tlb := x.mem.tlb }
        run := some
          { node := n.id, gang := r.gang, core := r.core, slice := slice, ord := r.ord + 1, begin := first slice, end_ := first (slice + 1)
            nodeId := R.nodeId, stage := BitVec.ofNat 64 (R.inst.toNat * 2 ^ 32 + R.stage.toNat), vwidth := R.vwidth, g := n.g
            d := n.gangs.length, entry := R.entry, last := decide (R.vwidth ≤ slice + stride) } }
    let ended (m : Node) : Node := if m.id = n.id then { m with haltedSlices := n.haltedSlices + 1 } else m
    (¬ quiet → exec (.sliceEnd c) s = .next s) ∧
    (quiet → ∃ t : State, exec (.sliceEnd c) s = .next t ∧
      t.core c = (if r.last then gone else next) ∧ t.hbm = s.hbm ∧ (∀ o, o ≠ c → t.core o = s.core o) ∧
      (¬ (r.last = true ∧ whole) → t.nodes = s.nodes.map ended ∧ t.dies = s.dies ∧ t.clusters = s.clusters) ∧
      (r.last = true → whole →
        t.nodes = (s.nodes.map fun m => if m.id = n.id then { ended m with state := .retiring, saved := [], stopping := false } else m) ∧
        (∀ f, f ∈ (t.die n.die).frames ↔ f ∈ (s.die n.die).frames ∧ ∀ v ∈ n.saved, ¬ (v.frame ≤ f ∧ f < v.frame + v.nframes)) ∧
        t.clusters = s.clusters.map fun p => (p.1, if p.2.claim = some n.id then { p.2 with claim := none, lastHolder := none } else p.2)))

/-- R76, R77, R302, R435 to R438: retirement returns a node's cores, with bank, companion, CLIP and class clear and the scratchpad as it was, ends its claims and replicas, and
the node is DONE, at once or, when it posts, with its post, which waits for room; a post of a killed node enters as it stands. A retirement whose
post would find no room for words that a core has pushed in the same tick comes with the next.
Completion is stated of: retirement, completionPost. -/
def Claims.NodesRetire : Prop :=
  ∀ (s : State) (die : BitVec 3) (n : Node), s.node? n.id = some n → s.Numbered →
    let left : State :=
      { s with
        cores := s.cores.map fun p => (p.1, if s.runs p.1 n.id then p.2.returned else p.2)
        clusters := s.clusters.map fun p => (p.1, if p.2.claim = some n.id then { p.2 with claim := none, lastHolder := none } else p.2)
        replicas := s.replicas.filter fun r => r.node != n.id }
    let queued := State.modDie { left with nodes := left.nodes.map fun m => if m.id = n.id then { m with postWaits := true } else m } n.die fun x =>
      { x with posts := x.posts ++ [⟨n.id, []⟩] }
    let mail := s.die n.die
    let crossed : Prop := 253 < mail.d2h.length ∧ mail.d2h.length - (if mail.pushAt = some s.now then mail.pushes else 0) + 3 ≤ 256
    (n.state ≠ .retiring ∨ n.postWaits = true ∨ n.record.post = true ∧ crossed → exec (.retirement n.id) s = .next s) ∧
    (n.state = .retiring → n.postWaits = false → ¬ (n.record.post = true ∧ crossed) → s.KeysSorted →
      exec (.retirement n.id) s = .next (if n.record.post then queued.posted n.die else left.finished n)) ∧
    exec (.completionPost die) s = .next (s.posted die.toNat)

/-- R420, R447: unmasking a vector sends the message that it held, if its condition still holds; a request's result holds while its DONE is set. The
request waits where the bridge holds it.
Completion is stated of: msixUnmask. -/
def Claims.UnmaskedVectorsSend : Prop :=
  ∀ (s : State) (vec : BitVec 6),
    let v := vec.toNat
    let D := s.die (v / 8)
    let holds := v % 8 = 0 ∧ D.d2h ≠ [] ∨ v % 8 = 1 ∧ D.qerr ≠ [] ∨ v % 8 = 2 ∧ (D.lcResult.getLsbD 63 = true ∨ D.lqResult.getLsbD 63 = true) ∨
      v % 8 = 3 ∧ (D.kResult.getLsbD 63 = true ∨ D.pResult.getLsbD 63 = true)
    let cleared (w : BitVec 64) : BitVec 64 := w &&& ~~~(1#64 <<< v)
    exec (.msixUnmask vec) s = .next (s.arriving (.unmask v) { s with msix :=
      { s.msix with
        mask := cleared s.msix.mask, pending := cleared s.msix.pending
        sent := s.msix.sent ++ if s.msix.pending.getLsbD v = true ∧ holds then [v] else [] } })

/-- Slices end, nodes retire and post; messages held back are sent. -/
def Obligations.SlicesAndRetirement : Prop :=
  Claims.SlicesEnd ∧ Claims.NodesRetire ∧ Claims.UnmaskedVectorsSend

/-- R69, R75, R76, R81, R287, R410, R411, R438, R439: KILL goes to the serai, whose next cycle stops a node that is RUNNING, PREEMPTED or RETIRING: its
cores are vacated, bank, companion, CLIP and registers kept (log entry 37), its claims, replicas, holds, signals and frames go, what it reaches is
CANCELLED, and its post waits for room; a node in another state stays, and KRESULT tells which, with a message where DONE was clear.
Completion is stated of: kill. -/
def Claims.KillsStopNodes : Prop :=
  ∀ (s : State) (die : BitVec 3) (v : Word) (o : Nat), s.Numbered → s.KeysSorted →
    let d := die.toNat
    let bits (lo n : Nat) : Nat := v.toNat / 2 ^ lo % 2 ^ n
    let named := if bits 50 14 ≠ 0 ∨ bits 44 4 ≠ 0 ∨ bits 48 2 = 3 then none
      else s.nodes.find? fun n => n.handle == BitVec.ofNat 64 (bits 48 2 * 2 ^ 35 + d * 2 ^ 32 + bits 0 32) && n.idx == bits 32 12
    let answers (u : State) (code : Nat) : Prop :=
      let t := u.modDie d fun x => { x with kResult := BitVec.ofNat 64 (2 ^ 63 + code) }
      s.killRequest d v = if (u.die d).kResult.toNat < 2 ^ 63 then t.signalVector (8 * d + 3) else t
    let kept (h : Word) : Prop := ∃ g ∈ s.graph? h, ∀ t ∈ g.finalAt, s.now ≤ t + 100000
    let stays (a b : Core) : Prop := { a.mat with cmds := [], drains := [], lease := .idle } = { b.mat with cmds := [], drains := [], lease := .idle }
    exec (.kill die v) s = .next (s.arriving (.writeReg (0x20000 + 0x2000 * d) 8 v) (s.modDie d fun x =>
      { x with kResult := x.kResult &&& 0x7FFFFFFFFFFFFFFF, asks := x.asks ++ [{ kind := .kill v }] })) ∧
    (named = none → answers s 15) ∧
    ∀ n ∈ named,
      (¬ kept n.handle → answers s 15) ∧
      (kept n.handle →
        (n.state ∈ [.waiting, .ready, .reserving] → answers s 1) ∧
        (n.state = .done → answers s 2) ∧
        (n.state ∈ [.cancelled, .killed, .rejected] → answers s 3) ∧
        (n.state ∈ [.running, .preempted, .retiring] → ∃ (u : State) (L : List Nat), s.Spreads [n.id] L ∧
          answers (if n.record.post then
              (u.modDie n.die fun x => { x with posts := x.posts ++ [⟨n.id, n.postOf 8 s.now⟩] }).posted n.die else u) 0 ∧
          u.nodes = (s.nodes.map fun m =>
            if m.id = n.id then { m with state := .killed, saved := [], stopping := false, postWaits := false, gangs := [] }
            else if m.id ∈ L then { m with state := .cancelled } else m) ∧
          u.graphs = s.graphsWith u.nodes [n.handle] ∧
          (s.runs o n.id = true → (u.core o).regs = (s.core o).regs ∧ (u.core o).ctl.clip = (s.core o).ctl.clip ∧ stays (u.core o) (s.core o) ∧
            ∃ x : Core, u.core o = x.vacated) ∧
          (s.runs o n.id = false → (u.core o).regs = (s.core o).regs ∧ (u.core o).run = (s.core o).run ∧ stays (u.core o) (s.core o)) ∧
          (∀ p ∈ u.clusters, p.2.claim ≠ some n.id) ∧ (∀ r ∈ u.replicas, r.node ≠ n.id) ∧ (∀ m ∈ u.signals, m.node ≠ n.id) ∧
          (∀ j < 8, (∀ p ∈ (u.die j).busy, p.2 ≠ n.id + 1) ∧ (∀ r ∈ (u.die j).resv, r.node ≠ n.id) ∧ (u.die j).preempting ≠ some n.id) ∧
          (∀ f ∈ (u.die n.die).frames, f ∈ (s.die n.die).frames ∧ ∀ w ∈ n.saved, ¬ (w.frame ≤ f ∧ f < w.frame + w.nframes)) ∧
          (∀ p ∈ (u.die n.die).posts, p ∈ (s.die n.die).posts ∧ p.node ≠ n.id)))

/-- R409, R410, R413 to R415: PREEMPT goes to the serai, whose next cycle takes, of a RUNNING node, frames of its home die's pool, core by core, the lowest run that is left,
and makes cause 0x30 pending on its cores; without frames nothing is pre-empted; a die serves one request at a time, and one for a node whose
contexts are coming back waits (log entry 35). PRESULT has a message where DONE was clear.
Completion is stated of: preempt. -/
def Claims.PreemptionsBegin : Prop :=
  ∀ (s : State) (die : BitVec 3) (v : Word) (o : Nat), s.Numbered → s.KeysSorted →
    let d := die.toNat
    let bits (lo n : Nat) : Nat := v.toNat / 2 ^ lo % 2 ^ n
    let named := if bits 50 14 ≠ 0 ∨ bits 44 4 ≠ 0 ∨ bits 48 2 = 3 then none
      else s.nodes.find? fun n => n.handle == BitVec.ofNat 64 (bits 48 2 * 2 ^ 35 + d * 2 ^ 32 + bits 0 32) && n.idx == bits 32 12
    let answers (u : State) (code : Nat) : Prop :=
      let t := u.modDie d fun x => { x with pResult := BitVec.ofNat 64 (2 ^ 63 + code) }
      s.preemptRequested d v = if (s.die d).pResult.toNat < 2 ^ 63 then t.signalVector (8 * d + 3) else t
    let kept (h : Word) : Prop := ∃ g ∈ s.graph? h, ∀ t ∈ g.finalAt, s.now ≤ t + 100000
    exec (.preempt die v) s = .next (s.arriving (.writeReg (0x20010 + 0x2000 * d) 8 v) (s.modDie d fun x =>
      { x with pResult := x.pResult &&& 0x7FFFFFFFFFFFFFFF, asks := x.asks ++ [{ kind := .preempt v }] })) ∧
    (named = none → answers s 15) ∧
    ∀ n ∈ named,
      (¬ kept n.handle → answers s 15) ∧
      (kept n.handle →
        let places := (List.range n.gangs.length).flatMap fun g => (List.range n.g).map fun k => (g, k)
        let need (p : Nat × Nat) : Nat := if 8 ≤ n.g ∧ p.2 % 8 = 0 then 4 else 1
        let pool := (s.die n.die).saveArea.toNat % 2 ^ 12
        let used := (s.die n.die).frames
        (n.state ≠ .running → answers s 1) ∧
        (n.state = .running → n.stopping = true → answers s 0) ∧
        (n.state = .running → n.stopping = false → ((s.die d).preempting.isSome = true ∨ n.saved ≠ []) →
          s.preemptRequested d v = (s.modDie d fun x => { x with preemptWaits := x.preemptWaits ++ [v] })) ∧
        (n.state = .running → n.stopping = false → (s.die d).preempting = none → n.saved = [] →
          ((∀ fs, ¬ FramesFor pool used (places.map need) fs) → answers s 4) ∧
          ∀ fs, FramesFor pool used (places.map need) fs → ∃ u : State, answers u 0 ∧
            let saved := (places.zip fs).map fun p => (⟨p.1.1, p.1.2, p.2, need p.1, {}, [], 0, [], false⟩ : SavedCore)
            u.nodes = (s.nodes.map fun m => if m.id = n.id then { m with saved := saved, stopping := true } else m) ∧
            (u.die n.die).frames = used ++ (saved.flatMap fun w => (List.range w.nframes).map (w.frame + ·)) ∧
            (u.die d).preempting = some n.id ∧ (u.die n.die).preempting = some n.id ∧ u.hbm = s.hbm ∧
            u.core o = if s.runs o n.id = true ∧ ∀ e ∈ (s.core o).flow.causes, e.code ≠ 0x30 then
              (s.core o).modFlow fun f => { f with causes := f.causes ++ [⟨0x30, 0⟩] } else s.core o))

/-- R228, R308, R400, R404, R409, R414, R416, R418: a core of a stopping node takes cause 0x30 at its next boundary: its waits are withdrawn, due
results land, and rows of write streams are written. When all that it issued is performed, and every other core of the node has stopped too, its
context goes to the node and to its frame, the items where R416 places them and no other byte, rows in read buffers are dropped, and the core is
vacated (log entries 17 for the cause's number, 35 for the order, 36 for the frame, 37 for what stays).
Completion is stated of: preemptRequest. -/
def Claims.PreemptedCoresSave : Prop :=
  ∀ (s : State) (c : Nat) (r : Run) (n : Node) (v : SavedCore) (i a : Nat), s.Numbered → s.MemCanonical →
    (s.core c).run = some r → s.node? r.node = some n → n.saved.find? (fun v => v.gang == r.gang && v.core == r.core && v.ctx.run.isNone) = some v →
    (v.nframes = 1 ∨ v.nframes = 4) →
    let x := s.core c
    let stops := r.ended = true ∨ x.flow.issue.isOpen = false ∧ ¬ (x.flow.restarted = true ∧ x.flow.frozen = none) ∧ r.halted = false ∧ ∃ t ∈ s.boundaryCause c, t.code = 0x30
    let p := s.stopCore c
    let z := p.core c
    let done (x : Core) : Prop := x.mem.memq = [] ∧ x.mem.bulk = [] ∧ x.mem.outs = [] ∧ x.mat.cmds = [] ∧
      ∀ p ∈ x.flow.pending, p.ready = true ∧ p.need = 0
    let quiet := done z ∧ s.calendar.hold = false ∧ ∀ q ∈ p.cores, q.1 ≠ c → (∃ g ∈ q.2.run, g.node = n.id) →
      p.stopsHere q.1 = true ∧ done (p.core q.1)
    let pa := s.domMod.toNat * 2 ^ 48 + (s.die n.die).saveArea.toNat / 2 ^ 20 % 2 ^ 28 * 2 ^ 20 + 786432 * v.frame
    (x.flow.pending = [] → (∀ u ∈ x.flow.save, u.pending = []) →
      p = s.modCore c fun _ => { x.unwaiting with flow := { x.unwaiting.flow with frozen := x.flow.frozen } }) ∧
    (n.stopping = false ∨ ¬ stops → exec (.preemptRequest c) s = .next s) ∧
    (n.stopping = true → stops → ¬ quiet → exec (.preemptRequest c) s = .next p) ∧
    (n.stopping = true → stops → quiet → ∃ (t : State) (ctx : Core), exec (.preemptRequest c) s = .next t ∧
      t.core c = z.vacated ∧
      t.nodes = (p.nodes.map fun m => if m.id = n.id then
        { m with saved := m.saved.map fun w => if w.gang = v.gang ∧ w.core = v.core then { w with ctx := ctx } else w } else m) ∧
      ctx.regs = z.regs ∧ ctx.run = z.run ∧ ctx.mat = { z.mat with lease := .idle } ∧ ctx.flow.pc = z.flow.pc ∧
      ctx.mem = { z.mem with streams := z.mem.streams.map fun e => (e.1, if e.2.write then e.2 else { e.2 with done := e.2.pos }) } ∧
      ctx.flow.loops = z.flow.loops ∧ ctx.flow.count = z.flow.count ∧ (∀ t ∈ ctx.flow.causes, t.code ≠ 0x30) ∧
      (r.ended = false → ctx.ctl = { z.ctl with
        trapCause := 0x930, trapPc := if z.flow.redo = 0 then z.flow.pc.setWidth 47 else z.ctl.trapPc
        replay := (if z.flow.redo = 0 then 0 else z.ctl.replay) ||| if z.flow.synced then 1 else 0 }) ∧
      (let word (off : Nat) : Nat := memRead t.hbm (pa + off) 8
       let row (off : Nat) : Nat := memRead t.hbm (pa + off) 512
       (i < 2 ^ 18 → memGet t.hbm (pa + i) = p.spadByte c i) ∧
       (∀ k : Fin 32, memRead t.hbm (pa + 0x40000 + 4096 * k.val) 4096 = (z.mat.bank.get k).toNat ∧
         memRead t.hbm (pa + 0x60000 + 4096 * k.val) 4096 = (z.mat.comp.get k).toNat ∧ word (0x9A000 + 8 * k.val) = (z.regs.s.get k).toNat) ∧
       (∀ k : Fin 128, row (0x80000 + 512 * k.val) = (z.regs.t.get k).toNat) ∧
       (∀ k : Fin 8, row (0x98000 + 512 * k.val) = (z.regs.o.get k).bits.toNat) ∧
       row 0x99000 = z.regs.lv0.bits.toNat ∧ row 0x99200 = z.regs.lv1.bits.toNat ∧ row 0x99400 = z.regs.lc0.bits.toNat ∧
       row 0x99600 = z.regs.lc1.bits.toNat ∧ row 0x99800 = z.regs.lm.bits.toNat ∧
       (∀ k : Fin 16, word (0x9A100 + 8 * k.val) = (z.regs.a.get k).toNat) ∧ (∀ k : Fin 64, word (0x9A180 + 8 * k.val) = (z.regs.k.get k).toNat) ∧
       (∀ k : Fin 4, word (0x9A380 + 8 * k.val) = (z.regs.lc.get k).toNat) ∧
       (∀ k : Fin 3, memRead t.hbm (pa + 0x9A400 + 128 * k.val) 128 = (z.regs.p.get k.succ).toNat) ∧
       word 0x9A3A0 = z.regs.ls.toNat ∧ word 0x9A3A8 = z.flow.count.toNat ∧ word 0x9A3B0 = z.ctl.rndCount.toNat ∧ word 0x9A3B8 = z.ctl.cls.toNat ∧
       word 0x9A3D0 = ctx.ctl.trapPc.toNat ∧ word 0x9A3D8 = ctx.ctl.trapCause.toNat ∧ word 0x9A3E0 = ctx.ctl.trapAddr.toNat ∧
       word 0x9A3E8 = ctx.ctl.replay.toNat ∧ word 0x9A3F0 = z.ctl.xcoll.toNat ∧ word 0x9A3F8 = z.ctl.winIdx.toNat ∧ word 0x9A580 = z.ctl.clip.toNat ∧
       (v.nframes = 4 → i < 2 ^ 21 → memGet t.hbm (pa + 0xC0000 + i) = p.sramByte (c / 8) i) ∧
       (a < pa ∨ pa + 0x9A590 ≤ a ∧ (v.nframes = 1 ∨ a < pa + 0xC0000) ∨ pa + 0xC0000 + 2 ^ 21 ≤ a → memGet t.hbm a = memGet p.hbm a)))

/-- R76, R78, R302, R308, R414: once every core of a stopping node has saved its context the node is PREEMPTED at this tick, its claims end, the keys of
its planes are kept with the lowest core of each cluster, its die counts it, and a waiting PREEMPT is served.
Completion is stated of: preemptionComplete. -/
def Claims.PreemptionsComplete : Prop :=
  ∀ (s : State) (n : Node), s.node? n.id = some n → s.Numbered → (s.die n.die).preemptWaits = [] →
    let due := n.state = .running ∧ n.stopping = true ∧ ∀ v ∈ n.saved, v.ctx.run ≠ none
    let own (p : Planes) : Bool := match p.key with | some q => q.node == n.id | none => false
    let at_ (v : SavedCore) : Nat := match n.gangs[v.gang]? with | some (d, b) => 512 * d + b + v.core | none => 0
    let keys (v : SavedCore) : List (Nat × Macro) := (List.range 8).filterMap fun m =>
      let x := (s.cluster (at_ v / 8)).macros.get (Fin.ofNat 8 m)
      if own x.active || own x.shadow then some (m, x) else none
    (¬ due → exec (.preemptionComplete n.id) s = .next s) ∧
    (due → ∃ t : State, exec (.preemptionComplete n.id) s = .next t ∧
      t.nodes = (s.nodes.map fun m => if m.id = n.id then
        { m with
          state := .preempted, stopping := false, readyTick := s.now
          saved := m.saved.map fun v => if v.core = 0 ∨ at_ v % 8 = 0 then { v with keys := keys v } else v }
        else m) ∧
      (∀ j < 8, (t.die j).preempting = if (s.die j).preempting = some n.id then none else (s.die j).preempting) ∧
      mapGet 0 0x152 (t.die n.die).counters = mapGet 0 0x152 (s.die n.die).counters + 1 ∧
      t.clusters = (s.clusters.map fun p => (p.1, if p.2.claim = some n.id then { p.2 with claim := none, lastHolder := none } else p.2)) ∧
      t.cores = s.cores ∧ t.hbm = s.hbm)

/-- R85, R302, R308, R355, R416 to R418: the lowest core of each cluster of a returning node claims the array, once no other node does, reads the
plane images one line part at a time, reloads the planes, watched where the images still hold those bytes, and brings back the SRAM; once every
cluster has them, each core takes its frame back and resumes at the saved PC under the saved CTL.REPLAY; then the frames are free (log entry 38).
Completion is stated of: contextRestore. -/
def Claims.ContextsAreRestored : Prop :=
  ∀ (s : State) (c : Nat) (r : Run) (n : Node) (v : SavedCore) (i : Nat), s.Numbered → s.MemCanonical → s.KeysSorted → s.badLines = [] → s.lostModules = [] →
    (s.core c).run = some r → s.node? r.node = some n → n.saved.find? (fun v => v.gang == r.gang && v.core == r.core) = some v →
    let x := s.core c
    let k := c / 8
    let waits := r.restore = false ∨ s.calendar.hold = true
    let at_ (g j : Nat) : Nat := match n.gangs[g]? with | some (d, b) => 512 * d + b + j | none => 0
    let low (g j : Nat) : Prop := j = 0 ∨ at_ g j % 8 = 0
    let loads := low r.gang r.core ∧ v.loaded = false
    let own (m : Nat) (act : Bool) (p : Planes) : List (Nat × Bool × Planes × PlaneKey) := match p.key with
      | some q => if q.node = n.id then [(m, act, p, q)] else []
      | none => []
    let plan := v.keys.flatMap fun e => own e.1 true e.2.active ++ own e.1 false e.2.shadow
    let claim := (s.cluster k).claim
    let noted (f : SavedCore → SavedCore) : List Node := s.nodes.map fun m => if m.id = n.id then
      { m with saved := m.saved.map fun w => if w.gang = v.gang ∧ w.core = v.core then f w else w } else m
    let loaded := ∀ w ∈ n.saved, w.loaded = true ∨ ¬ low w.gang w.core
    let pa := s.domMod.toNat * 2 ^ 48 + (s.die n.die).saveArea.toNat / 2 ^ 20 % 2 ^ 28 * 2 ^ 20 + 786432 * v.frame
    let num (off len : Nat) : Nat := memRead s.hbm (pa + off) len
    let word (off : Nat) : Word := BitVec.ofNat 64 (num off 8)
    let tag (q : Nat) : Nat := num (0x9A3C0 + q / 2) 1 / 16 ^ (q % 2) % 16
    let hasRow (q off : Nat) (w : TRow) : Prop := w.bits.toNat = num off 512 ∧ (tag q < 15 → decTag (tag q) = some w.tag)
    let others := s.cores.any fun p => p.1 != c && p.2.run.any fun q => q.node == n.id && q.restore
    (waits → exec (.contextRestore c) s = .next s) ∧
    (¬ waits → loads → plan[v.reloaded]? = none → ∃ t : State, exec (.contextRestore c) s = .next t ∧ t.hbm = s.hbm ∧ t.cores = s.cores ∧
      (v.nframes = 4 → i < 2 ^ 21 → t.sramByte k i = memGet s.hbm (pa + 0xC0000 + i)) ∧
      (v.nframes ≠ 4 → (t.cluster k).sram = (s.cluster k).sram) ∧ (t.cluster k).macros = (s.cluster k).macros ∧
      (t.cluster k).claim = claim ∧ t.nodes = noted fun w => { w with loaded := true }) ∧
    (¬ waits → loads → ∀ e ∈ plan[v.reloaded]?,
      let q := e.2.2.2
      let got := v.got.length
      let size := (q.pages.map (·.2)).sum
      (claim = none → exec (.contextRestore c) s = .next (s.modCluster k fun y => { y with claim := some n.id })) ∧
      (∀ o ∈ claim, o ≠ n.id → exec (.contextRestore c) s = .next s) ∧
      (claim = some n.id → got < size → ∃ len, ∃ t : State, 0 < len ∧ got + len ≤ size ∧
        let at_ := imageAddr q.pages got
        (∀ j < len, imageAddr q.pages (got + j) = at_ + j) ∧ (at_ + len - 1) / 128 = at_ / 128 ∧
        ((at_ + len) % 128 = 0 ∨ ∃ j, got + len = ((q.pages.take j).map (·.2)).sum) ∧
        exec (.contextRestore c) s = .next t ∧ t.hbm = s.hbm ∧ t.cores = s.cores ∧ t.clusters = s.clusters ∧
        t.nodes = noted fun w => { w with got := w.got ++ natBytes len (s.physRead (some c) at_ len).2 }) ∧
      (claim = some n.id → size ≤ got → ∃ t : State, exec (.contextRestore c) s = .next t ∧ t.hbm = s.hbm ∧ t.cores = s.cores ∧
        let same := decide ((q.pages.flatMap fun r => natBytes r.2 (memRead s.hbm r.1 r.2)) = v.got)
        let new : Planes := { (planesOf q.wfmt v.got).1 with key := some { q with watch := same }, inval := e.2.2.1.inval }
        (∀ j : Fin 8, let old := (s.cluster k).macros.get j
          (t.cluster k).macros.get j = if j.val = e.1 % 8 then (if e.2.1 then { old with active := new } else { old with shadow := new }) else old) ∧
        t.nodes = noted fun w => { w with reloaded := w.reloaded + 1, got := [] })) ∧
    (¬ waits → ¬ loads → ¬ loaded → exec (.contextRestore c) s = .next s) ∧
    (¬ waits → ¬ loads → loaded → ∃ t : State, exec (.contextRestore c) s = .next t ∧ t.hbm = s.hbm ∧ t.clusters = s.clusters ∧
      (let y := t.core c
       (∀ j : Fin 32, y.regs.s.get j = word (0x9A000 + 8 * j.val) ∧ (y.mat.bank.get j).toNat = num (0x40000 + 4096 * j.val) 4096 ∧
         (y.mat.comp.get j).toNat = num (0x60000 + 4096 * j.val) 4096) ∧
       (∀ j : Fin 16, y.regs.a.get j = word (0x9A100 + 8 * j.val)) ∧ (∀ j : Fin 64, y.regs.k.get j = word (0x9A180 + 8 * j.val)) ∧
       (∀ j : Fin 4, y.regs.lc.get j = word (0x9A380 + 8 * j.val)) ∧
       (∀ j : Fin 128, (y.regs.t.get j).toNat = num (0x80000 + 512 * j.val) 512) ∧
       (∀ j : Fin 16, tag j.val < 15 → decTag (tag j.val) = some (y.regs.tTag.get j)) ∧
       (∀ j : Fin 8, hasRow (16 + j.val) (0x98000 + 512 * j.val) (y.regs.o.get j)) ∧
       hasRow 24 0x99000 y.regs.lv0 ∧ hasRow 25 0x99200 y.regs.lv1 ∧ hasRow 26 0x99400 y.regs.lc0 ∧ hasRow 27 0x99600 y.regs.lc1 ∧
       hasRow 28 0x99800 y.regs.lm ∧ y.regs.ls = word 0x9A3A0 ∧
       (∀ j : Fin 3, (y.regs.p.get j.succ).toNat = num (0x9A400 + 128 * j.val) 128) ∧
       y.flow.count = word 0x9A3A8 ∧ y.ctl.rndCount = word 0x9A3B0 ∧ y.ctl.cls = BitVec.ofNat 3 (num 0x9A3B8 8) ∧
       y.ctl.trapPc = BitVec.ofNat 47 (num 0x9A3D0 8) ∧ y.ctl.trapCause = word 0x9A3D8 &&& 0xFFF ∧ y.ctl.trapAddr = word 0x9A3E0 ∧
       y.ctl.replay = BitVec.ofNat 16 (num 0x9A3E8 2) ∧ y.ctl.xcoll = word 0x9A3F0 &&& 3 ∧ y.ctl.winIdx = BitVec.ofNat 24 (num 0x9A3F8 8) ∧
       y.ctl.clip = word 0x9A580 ∧ y.ctl.opCur = x.ctl.opCur ∧ y.ctl.opTgt = x.ctl.opTgt ∧ y.ctl.bal = x.ctl.bal ∧ y.ctl.trapVec = x.ctl.trapVec ∧
       y.flow.loops = v.ctx.flow.loops ∧ y.flow.pending = v.ctx.flow.pending ∧ y.mem.streams = v.ctx.mem.streams ∧ y.mem.tags = v.ctx.mem.tags ∧
       y.mat.kinds = v.ctx.mat.kinds ∧ y.mat.drains = v.ctx.mat.drains ∧ y.run = some { r with restore := false } ∧
       (r.ended = false → y.flow.pc = (BitVec.ofNat 47 (num 0x9A3D0 8)).setWidth 59 ∧ y.flow.redo = BitVec.ofNat 16 (num 0x9A3E8 2) ∧
         y.flow.synced = (BitVec.ofNat 16 (num 0x9A3E8 2)).getLsbD 0) ∧
       (i < 2 ^ 18 → t.spadByte c i = memGet s.hbm (pa + i))) ∧
      (others = true → t.nodes = s.nodes) ∧
      (others = false → t.nodes = s.nodes.map fun m => if m.id = n.id then { m with saved := [], stopping := false } else m))

/-- Kills; pre-emption begins, saves, completes and restores. -/
def Obligations.KillsAndPreemption : Prop :=
  Claims.KillsStopNodes ∧ Claims.PreemptionsBegin ∧ Claims.PreemptedCoresSave ∧ Claims.PreemptionsComplete ∧ Claims.ContextsAreRestored

/-- R24, R70, R245, R410, R412, R420, R441, R444 to R448, R457, R460, R463: the host's timers, translation requests, mailboxes and attestation: a timer entry of a core that
is present is set, or removed by 0, and a deadline that has passed acts at once; TINV drops the entries that it names when it arrives (log entry
42) and waits until what was on its way is performed, when TDONE counts it; a mailbox word enters, or is lost when the queue is full, and
leaves from the head, while what cores and posts have put in in the same tick is not there yet (log entry 1); a report begins with what it
holds at that moment, its bytes by log entry 54, and is there when it ends. Eight aligned bytes of a register are read as they stand; any other
access of the control window is unsupported. A request at the bridge goes on when no slot and no lock holds it and those before it let it pass
(log entry 46).
Completion is stated of: timer, tinv, mbpush, mbpop, mbstat, ago, attestationReport, tinvCompletion. -/
def Claims.HostRegistersAreServed : Prop :=
  ∀ (s : State) (die : BitVec 3) (core : BitVec 9) (v : Word) (i k off len : Nat) (e : BridgeReq),
    let d := die.toNat
    let c := 512 * d + core.toNat
    let D := s.die d
    let asks (ev : Instr) (r : HostReq) (t : State) : Prop := exec ev s = .next (s.arriving r t)
    let bits (lo n : Nat) : Nat := v.toNat / 2 ^ lo % 2 ^ n
    let dropped (l : Leaf) : Bool :=
      if bits 0 2 = 0 then l.asid.toNat == bits 52 12 && decide (l.vpn ≤ bits 16 36) && decide (bits 16 36 < l.vpn + l.pages)
      else if bits 0 2 = 1 then l.asid.toNat == bits 52 12 else true
    let busy (x : Core) : Bool :=
      !(x.mem.memq.isEmpty && x.mem.bulk.isEmpty && x.mem.outs.isEmpty && x.mat.cmds.isEmpty && x.mem.cn.isEmpty)
    let done (m : Nat × Nat) : Prop := let x := s.core m.1
      (∀ e ∈ x.mem.memq, m.2 < e.bun) ∧ (∀ b ∈ x.mem.bulk, m.2 < b.bun) ∧ (∀ o ∈ x.mem.outs, m.2 < o.bun) ∧ (∀ q ∈ x.mat.cmds, m.2 < q.bun) ∧
      (x.mem.cn = [] ∨ m.2 < x.flow.bun)
    let held := if D.pushAt = some s.now then D.pushes + D.posted else 0
    let reads (off : Nat) (w : Word) : Prop := s.hostServe (.readReg off 8) = ({ s with reply := .word w }, none)
    let goes : Prop := s.calendar.hold = false ∧ s.hostLocked e.req = false ∧
      ∀ q ∈ s.hostQ.take i, q.slow = true ∧ ¬ (q.tc = e.tc ∧ q.req.posted = true)
    let set := s.modDie d fun x => { x with timers := if v = 0 then mapDel core.toNat x.timers else mapSet core.toNat v x.timers }
    asks (.timer die core v) (.writeReg (0x20000 + 0x2000 * d + 0x1000 + 8 * core.toNat) 8 v)
      (let passes (u : State) (b : Bool) : State := u.modCore c fun x => x.modCtl fun t => { t with timerPassed := b }
       let u := if (s.core c).ctl.timerPassed = true then passes set false else set
       if s.part.coreCount d ≤ core.toNat then s
       else if v = 0 ∨ s.now < v.toNat then u
       else if (s.core c).run.isSome then passes u true
       else passes (u.modDie d fun x => { x with timers := mapDel core.toNat x.timers }) false) ∧
    asks (.tinv v) (.writeReg 0xA000 8 v)
      (if bits 2 14 ≠ 0 ∨ bits 0 2 = 3 then s.logError 0 0x22 [v]
      else { s with
        tinvs := s.tinvs ++ [⟨(s.cores.filter fun p => busy p.2).map fun p => (p.1, p.2.flow.bun)⟩]
        cores := s.cores.map fun p => (p.1, p.2.modMem fun m => { m with tlb := m.tlb.filter fun l => !dropped l })
        clusters := s.clusters.map fun p => (p.1, { p.2 with tlb := p.2.tlb.filter fun l => !dropped l }) }) ∧
    (s.tinvs = [] → exec .tinvCompletion s = .next s) ∧
    (∀ r ∈ s.tinvs.head?, ((∀ m ∈ r.marks, done m) → exec .tinvCompletion s = .next { s with tinvs := s.tinvs.drop 1, tdone := s.tdone + 1 }) ∧
      (¬ (∀ m ∈ r.marks, done m) → exec .tinvCompletion s = .next s)) ∧
    asks (.mbpush die v) (.writeReg (0xC000 + 0x40 * d) 8 v)
      (s.modDie d fun x => if D.h2d.length < 256 then { x with h2d := x.h2d ++ [v] } else { x with mbLost := true }) ∧
    asks (.mbpop die) (.readReg (0xC008 + 0x40 * d) 8)
      (match D.d2h with
        | [] => { s with reply := .word 0 }
        | w :: rest => if rest.length < held then { s with reply := .word 0 } else ({ s with reply := .word w } : State).modDie d fun x => { x with d2h := rest }) ∧
    asks (.mbstat die) (.readReg (0xC010 + 0x40 * d) 8)
      (let w := (if D.mbLost then 2 ^ 63 else 0) + (256 - D.h2d.length) * 2 ^ 32 + D.d2h.length
       ({ s with reply := .word (BitVec.ofNat 64 w) } : State).modDie d fun x => { x with mbLost := false }) ∧
    asks (.ago v) (.writeReg 0x40020 8 v)
      (if s.attest.busy then s
      else
        let body := natBytes 32 s.attest.nonce.toNat ++ (natBytes 32 s.fwDigest.toNat).reverse ++ (natBytes 32 (sha256 s.capabilities)).reverse ++
          natBytes 8 s.wear.generation.toNat ++ natBytes 48 Config.identityKey.toNat
        { s with attest :=
            { s.attest with busy := true, done := false, inProgress := body ++ natBytes 16224 (Config.identitySign body).toNat } }) ∧
    exec .attestationReport s = .next (if s.attest.busy then
      { s with attest := { s.attest with busy := false, done := true, report := s.attest.inProgress, inProgress := [] } } else s) ∧
    (¬ (len = 8 ∧ off % 8 = 0 ∧ off < 2 ^ 24) → s.hostServe (.readReg off len) = ({ s with reply := .unsupported }, none) ∧
      s.hostServe (.writeReg off len v) = ({ s with reply := .unsupported }, none)) ∧
    reads (0x8018 + 0x100 * d) D.lcResult ∧ reads (0x8028 + 0x100 * d) D.lqResult ∧ reads (0x20008 + 0x2000 * d) D.kResult ∧
    reads (0x20018 + 0x2000 * d) D.pResult ∧ reads (0x21000 + 0x2000 * d + 8 * core.toNat) (mapGet 0 core.toNat D.timers) ∧
    reads 0xA008 (s.tdone.setWidth 64) ∧ reads 0xB000 s.mwbase ∧ reads 0xB008 (BitVec.ofNat 64 (s.domSize.toNat * 2 ^ 32 + s.domMod.toNat)) ∧
    (k < 128 → reads (0xE000 + 8 * k) (mapGet 0 k s.zones)) ∧
    (k < 38 → reads (0x10000 + 8 * k) (BitVec.ofNat 64 (bytesNat ((s.capabilities.drop (8 * k)).take 8)))) ∧
    reads 0x40028 (BitVec.ofNat 64 ((if s.bootOk then 2 ^ 63 else 0) + (if s.attest.busy then 2 ^ 62 else 0) + if s.attest.done then 2 ^ 61 else 0)) ∧
    (k < 2304 → reads (0x41000 + 8 * k) (if s.attest.done then BitVec.ofNat 64 (bytesNat ((s.attest.report.drop (8 * k)).take 8)) else 0)) ∧
    (s.hostQ[i]? = some e → ¬ goes → s.hostServeAt i = s) ∧
    (s.hostQ[i]? = some e → goes → ∃ t left, ({ s with hostQ := s.hostQ.eraseIdx i } : State).hostServe e.req = (t, left) ∧
      s.hostServeAt i = match left with
        | none => t
        | some r => { t with hostQ := t.hostQ.take i ++ { e with req := r } :: t.hostQ.drop i })

/-- R69, R223, R235, R237, R371, R410, R420, R441 to R444, R447, R463: the host's memory window reads and writes the local address space from MWBASE, line part by line part, each of them a
step at its home, by what lies there; an atomic of 32 or 64 bits on HBM is one step at home and adds 1 to the line's sequence number, and one of 128 bits
or elsewhere is aborted, a misaligned one too (log entry 45); the control window takes aligned eight-byte writes, and drops those of read-only
and unassigned registers (log entry 46). A request that the bridge holds waits there, with the base that stands when it arrives; a write of
MWBASE holds for the requests that arrive after it.
Completion is stated of: hostMemoryRead, hostMemoryWrite, fetchadd, swap, cas, controlRegisterWrite. -/
def Claims.HostMemoryIsServed : Prop :=
  ∀ (s : State) (off len : Nat) (data : List Byte) (wide : Bool) (bits : CasWidth) (cmp v : Word) (b : Nat),
    s.MemCanonical → s.badLines = [] →
    let pa := s.mwbase.toNat + off
    let home := s.domMod.toNat * 2 ^ 48 + pa
    let n := if wide then 8 else 4
    let m : Nat := match bits with | .c32 => 4 | .c64 => 8 | .c128 => 16
    let byte (u : State) (a : Nat) : Byte := match u.region a with
      | .hbm => memGet u.hbm (u.domMod.toNat * 2 ^ 48 + a)
      | .spad c o => u.spadByte c o
      | .sram k o => u.sramByte k o
      | _ => 0
    let shown (a : Nat) : Byte := match s.region a with | .spad c o => s.remoteByte c o | _ => byte s a
    let first (len : Nat) : Nat := Min.min len (128 - pa % 128)
    let behind (u : State) (r : HostReq) : State := { u with hostQ := s.hostQ ++ [⟨s.hostTc, s.hostSlow.getLsbD s.hostTc.toNat, r⟩] }
    let takes (ev : Instr) (len : Nat) (op : AtomicOp) (x c : Nat) (new : Nat → Nat) : Prop := ∃ t : State,
      exec ev s = .next (s.arriving (.atomic pa len op x c) t) ∧
      (len = 16 ∨ 768 * 2 ^ 30 < pa + len ∨ pa % len ≠ 0 → t = { s with reply := .abort }) ∧
      (¬ (len = 16 ∨ 768 * 2 ^ 30 < pa + len ∨ pa % len ≠ 0) →
        t.reply = .word (BitVec.ofNat 64 (memRead s.hbm home len)) ∧ t.hbm = memWrite s.hbm home len (new (memRead s.hbm home len)) ∧
        t.lineSeq = mapSet (home / 128) (mapGet 0 (home / 128) s.lineSeq + 1) s.lineSeq ∧ t.nodes = s.nodes)
    let writes (off : Nat) (t : State) : Prop := exec (.controlRegisterWrite off v) s = .next (s.arriving (.writeReg off 8 v) t)
    (s.lockedAt home (first len) = true → exec (.hostMemoryRead off len) s = .next (behind s (.read pa len []))) ∧
    (s.lockedAt home (first len) = false →
      let got := (List.range (first len)).map fun i => shown (pa + i)
      exec (.hostMemoryRead off len) s = .next (s.arriving (.read pa len [])
        (if len ≤ first len then { s with reply := .bytes got } else behind s (.read (pa + first len) (len - first len) got)))) ∧
    (s.lockedAt home (first data.length) = true → exec (.hostMemoryWrite off data) s = .next (behind s (.write pa data))) ∧
    (s.lockedAt home (first data.length) = false → ∃ t : State, t.nodes = s.nodes ∧ t.hostQ = s.hostQ ∧
      let n := first data.length
      exec (.hostMemoryWrite off data) s = .next (s.arriving (.write pa data)
        (if data.length ≤ n then t else behind t (.write (pa + n) (data.drop n)))) ∧
      byte t b = if pa ≤ b ∧ b < pa + n ∧ (match s.region b with | .control _ | .reserved => false | _ => true) = true then data.getD (b - pa) 0
        else byte s b) ∧
    takes (.fetchadd off wide v) n .add (v.toNat % 2 ^ (8 * n)) 0 (fun old => (old + v.toNat) % 2 ^ (8 * n)) ∧
    takes (.swap off wide v) n .xchg (v.toNat % 2 ^ (8 * n)) 0 (fun _ => v.toNat % 2 ^ (8 * n)) ∧
    takes (.cas off bits cmp v) m .cas (v.toNat % 2 ^ (8 * Min.min 8 m)) (cmp.toNat % 2 ^ (8 * Min.min 8 m))
      (fun old => if old = cmp.toNat % 2 ^ (8 * m) then v.toNat % 2 ^ (8 * m) else old) ∧
    (off % 8 ≠ 0 ∨ 2 ^ 24 ≤ off → writes off { s with reply := .unsupported }) ∧
    (let t : State := { s with mwbase := v &&& 0x0000FFFFC0000000 }
     exec (.controlRegisterWrite 0xB000 v) s = .next (t.arriving (.writeReg 0xB000 8 v) t)) ∧
    (∀ k < 4, writes (0x40000 + 8 * k) { s with attest :=
      { s.attest with done := false, nonce :=
          (s.attest.nonce &&& ~~~(0xFFFFFFFFFFFFFFFF#256 <<< (64 * k))) ||| (v.setWidth 256 <<< (64 * k)) } }) ∧
    (off % 8 = 0 → 0x10000 ≤ off ∧ off < 0x10130 ∨ 0x40028 ≤ off ∧ off < 2 ^ 24 ∨ off = 0xB008 ∨ off = 0xA008 ∨ 0xE000 ≤ off ∧ off < 0xE400 →
      writes off s) ∧
    ∀ d : BitVec 3, exec (.controlRegisterWrite (0x8000 + 0x100 * d.toNat) v) s = exec (.launch d v) s ∧
      exec (.controlRegisterWrite (0xC000 + 0x40 * d.toNat) v) s = exec (.mbpush d v) s

/-- What the host reads and writes: its registers, mailboxes, translation requests, attestation, memory and atomics. -/
def Obligations.TheHostIsServed : Prop :=
  Claims.HostRegistersAreServed ∧ Claims.HostMemoryIsServed

/-- R19, R20, R245, R426, R427, R449: an uncorrectable error is logged with its die, structure, address and the node that it kills, counted, and acted on by where it lies and who consumes it (log
entries 39, 44): a clean copy is dropped, a line at home stays bad until it is replaced whole and leaves no copy, and the node that reads or partly writes it is killed; an error in what all nodes
share kills them all and stops launches. Whoever reads a bad line, a walk or a frame included, meets the error in a step of its own. A core whose access goes to a module that has become
unreachable loses its node, and every such access of the node's cores is dropped and logged, a transfer with one entry by the first row that it still has there, whose other rows go on (log entry 53).
Completion is stated of: uncorrectableError, remoteUnreachable. -/
def Claims.UncorrectableErrorsAreActedOn : Prop :=
  ∀ (s : State) (die : BitVec 3) (place : ErrorPlace) (pa c id len : Nat) (user : ErrorUser) (who : Option Nat),
    let d := die.toNat
    let code : Nat := match place with
      | .hbm => 0 | .msCache => 1 | .l2Data => 2 | .l2Tags => 3 | .directory => 4 | .coreState => 5 | .planes => 6 | .serai => 7 | .windowPartials => 8
    let line := pa / 128
    let entry (u : State) (d code : Nat) (seq : BitVec 32) : State := (u.modDieMsix d fun x => x.pushEntry
      [0x360, BitVec.ofNat 64 (d % 8 * 2 ^ 16 + code * 2 ^ 8), BitVec.ofNat 64 pa, BitVec.ofNat 64 seq.toNat]).countDie d 0x141
    let logged (u : State) (seq : BitVec 32) : State := entry u d code seq
    let seqOf (id : Nat) : BitVec 32 := match s.node? id with | some n => n.handle.setWidth 32 | none => 0
    let bad : State := if line ∈ s.badLines then s else
      { s with badLines := s.badLines ++ [line], badPlaces := if code = 0 then mapDel line s.badPlaces else mapSet line code s.badPlaces }
    let all := place ∈ [.l2Tags, .directory, .serai, .windowPartials]
    (all ∨ user = .shared → ∃ t : State, exec (.uncorrectableError die place pa user) s = .next t ∧ t = (logged s 0).killAll ∧ t.stopped = true ∧
      ∀ n ∈ t.nodes, n.state ∈ [.done, .cancelled, .killed, .rejected]) ∧
    (¬ all →
      exec (.uncorrectableError die place pa .cleanCopy) s = .next
        (let u := logged s 0
         let other (l : Leaf) : Bool := !(decide (l.base ≤ pa) && decide (pa < l.base + l.pages * 65536))
         { u with
           clusters := u.clusters.map fun p => (p.1, { p.2.dropLine line with tlb := p.2.tlb.filter other })
           cores := u.cores.map fun p => (p.1, p.2.modMem fun m => { m with tlb := m.tlb.filter other })
           replicas := u.replicas.filter fun r => r.line != line }) ∧
      exec (.uncorrectableError die place pa .hostRead) s = .next { logged bad 0 with reply := .abort } ∧
      exec (.uncorrectableError die place pa .fullWrite) s = .next { logged s 0 with badLines := s.badLines.filter (· != line) } ∧
      (∀ r ∈ (s.core c).run,
        exec (.uncorrectableError die place pa (.reader c)) s = .next ((logged bad (seqOf r.node)).killNode r.node) ∧
        exec (.uncorrectableError die place pa (.partialWrite c)) s = .next ((logged bad (seqOf r.node)).killNode r.node)) ∧
      exec (.uncorrectableError die place pa (.nodeState id)) s = .next ((logged s (seqOf id)).killNode id)) ∧
    (pa / 2 ^ 48 = s.domMod.toNat → exec (.remoteUnreachable c pa) s = .next s) ∧
    (s.lostModules = [] →
      let home := (s.homeOf pa).1
      let held := mapGet 0 line s.badPlaces
      s.lineError none pa = entry s home held 0 ∧ (∀ r ∈ (s.core c).run, s.lineError (some c) pa = (entry s home held (seqOf r.node)).killNode r.node) ∧
      (s.hbmRead who pa len).1 = { s with
        agenda := ((linesOf pa len).filter (s.badLines.contains ·)).reverse.map (fun l => .lineError who (l * 128)) ++ s.agenda } ∧
      (s.hbmRead who pa len).2 = memRead s.hbm pa len) ∧
    (pa / 2 ^ 48 ≠ s.domMod.toNat → ∀ r ∈ (s.core c).run,
      let u : State := { s with lostModules := if pa / 2 ^ 48 ∈ s.lostModules then s.lostModules else s.lostModules ++ [pa / 2 ^ 48] }
      (u.losing c = true → exec (.remoteUnreachable c pa) s = .next (u.killNode r.node)) ∧
      (u.losing c = false → exec (.remoteUnreachable c pa) s = .next ((u.modDieMsix (c / 512) fun x => x.pushEntry [0x170, BitVec.ofNat 64 pa]).killNode r.node))) ∧
    (let lost (a : Nat) : Bool := s.lostModules.contains (a / 2 ^ 48)
     let m := (s.core c).mem
     let op (e : MemOp) : Bool := (match e.kind with
       | .fence _ _ _ | .remote _ _ | .localLoad _ _ _ | .localStore _ _ | .look _ _ => false
       | _ => true) && lost e.pa
     let rest (b : Bulk) : List Nat :=
       (List.range (b.rows - (if ¬ b.isOut ∧ b.parts ≤ b.part then b.next + 1 else b.next))).map fun i =>
         b.rowPa ((if ¬ b.isOut ∧ b.parts ≤ b.part then b.next + 1 else b.next) + i)
     let bulk (b : Bulk) : Option Nat := (rest b).find? lost
     let out (o : OutWrite) : Option Nat := match o.dest with | .line a _ => if lost a then some a else none | .spad _ => none
     let gone := (m.memq.filter op).map (·.pa) ++ m.bulk.filterMap bulk ++ m.outs.filterMap out
     (s.losing c = true ↔ gone ≠ []) ∧
     (gone ≠ [] → s.dropLost c = gone.foldl (fun (u : State) a => u.modDieMsix (c / 512) fun x => x.pushEntry [0x170, BitVec.ofNat 64 a])
       (s.modCore c fun x => x.modMem fun m =>
         { m with memq := m.memq.filter (!op ·), outs := m.outs.filter fun o => (out o).isNone }))) ∧
    (line ∈ s.badLines → ∀ rh, let r := s.fillRead c pa len rh
      r.1.clusters = s.clusters ∧ r.1.replicas = s.replicas ∧ r.2 = memRead s.hbm pa len)

/-- R17, R20, R21, R25, R448, R459 to R461: a reset takes marked clusters, slices and strips away, below the floor too (log entry 69), marks those whose
bond fails its test now for the next reset (log entry 68), and leaves the module out of service with every core, node and queue as at reset, under the
number and size that the fabric assigns, with the bytes of its HBM as they were and an even generation (log entry 44). An image whose SLH-DSA signature by
its key is good (log entry 77), whose key has the digest that is fused and whose table can be applied, copies its extents into HBM and writes its settings,
in table order, as SETC would (log entry 43 gives the dies), and the module is in service; any other keeps it out of service until the next reset. Below
the floor no image is taken (log entry 70).
Completion is stated of: moduleReset, firmwareVerification. -/
def Claims.ResetAndBoot : Prop :=
  ∀ (s : State) (sig : List (BitVec 8)) (image : BootImage) (d : Fin 8),
    let strips (b : BitVec 24) (i : Nat) : Bool := b.getLsbD (3 * (i / 8) + i / 4 % 2)
    let slices (b : BitVec 24) (i : Nat) : Bool := b.getLsbD (3 * (i / 8) + 2)
    let defined (b : BootSetting) : Prop := 0x400 ≤ b.creg.toNat ∧ b.creg.toNat ≤ 0x4FF ∧ cregDefined b.creg.toNat = true ∧
      cregFixed b.creg.toNat = false ∧ (b.target = 0xFF ∨ b.target.toNat < 8)
    let closed := s.bootOk = true ∨ s.bootFailed = true ∨ s.wear.below = true
    let good := slhVerify image.key image.bytes sig = true ∧ sha256 image.key = s.part.keyDigest.toNat ∧
      (∀ e ∈ image.extents, e.1 + e.2.1 ≤ 768 * 2 ^ 30 ∧ e.2.2 + e.2.1 ≤ image.bytes.length) ∧ ∀ b ∈ image.settings, defined b
    let data (e : Nat × Nat × Nat) : List Byte := (image.bytes.drop e.2.2).take e.2.1
    let base := s.domMod.toNat * 2 ^ 48
    let measured : State := { s with fwDigest := BitVec.ofNat 256 (sha256 image.bytes) }
    let copied : State := image.extents.foldl (fun u e => u.hbmStore none (base + e.1) (data e)) measured
    let setting (u : State) (b : BootSetting) : State :=
      let n := b.creg.toNat
      let dies := if b.target = 0xFF then List.range 8 else [b.target.toNat]
      if isModuleReg n then u.moduleWrite (if b.target = 0xFF then 0 else b.target.toNat) n b.value
      else if n = 0x405 then dies.foldl (fun u e => u.coreWrite (512 * e) n b.value) u
      else dies.foldl (fun u e => (List.range (s.part.coreCount e)).foldl (fun u k => u.coreWrite (512 * e + k) n b.value) u) u
    (∃ t : State, exec .moduleReset s = .next t ∧ t.cores = [] ∧ t.clusters = [] ∧ t.nodes = [] ∧ t.graphs = [] ∧ t.service = false ∧ t.bootOk = false ∧
      t.bootFailed = false ∧ t.stopped = false ∧ t.now = 0 ∧ t.calendar = {} ∧ t.windows = Vector.replicate 16 {} ∧ t.ptBase = 0 ∧ t.lostModules = [] ∧
      t.domSize = s.fabric.1 ∧ t.domMod = s.fabric.2 ∧ (s.fabric.2 = s.domMod → t.hbm = s.hbm) ∧
      (s.MemCanonical → ∀ a < 2 ^ 48, memGet t.hbm (t.domMod.toNat * 2 ^ 48 + a) = memGet s.hbm (base + a)) ∧
      t.wear.slices = s.wear.slices ∧ t.wear.strips = s.wear.strips ∧ t.wear.routers = s.wear.routers ∧
      t.wear.generation = (if s.wear.generation % 2 = 0 then s.wear.generation else s.wear.generation + 1) ∧ t.wear.step = [] ∧ t.wear.found = none ∧
      (∀ i < 64, ((t.wear.clusters.get d).getLsbD i = true ↔
        (s.wear.clusters.get d).getLsbD i = true ∨ (d.val, i) ∈ (Config.findings s.fresh).bonds)) ∧
      (∀ i < 64,
        (t.part.clusters.get d).getLsbD i = ((s.part.clusters.get d).getLsbD i && !(s.wear.clusters.get d).getLsbD i && !strips (s.wear.strips.get d) i) ∧
        (t.part.slices.get d).getLsbD i = ((s.part.slices.get d).getLsbD i && !(s.wear.slices.get d).getLsbD i && !slices (s.wear.strips.get d) i)) ∧
      (t.wear.below = false ↔ ∀ e < 8, 56 ≤ t.part.clusterCount e ∧ 48 ≤ (bitsOf 64 (t.part.sliceBits e)).length)) ∧
    (slhVerify image.key image.bytes sig = true → image.key.length = 32 ∧ sig.length = 7856) ∧
    (closed → exec (.firmwareVerification sig image) s = .next s) ∧
    (¬ closed → ∃ t : State, exec (.firmwareVerification sig image) s = .next t ∧ (¬ good → t = { measured with bootFailed := true }) ∧
      (good → t = { image.settings.foldl setting copied with bootOk := true, service := true })) ∧
    (s.badLines = [] → copied.hbm = image.extents.foldl (fun m e => memSetAll m ((data e).zipIdx.map fun p => (base + e.1 + p.2, p.1))) s.hbm)

/-- Uncorrectable errors and what they take away; reset, deconfiguration and the boot image. -/
def Obligations.ErrorsResetAndBoot : Prop :=
  Claims.UncorrectableErrorsAreActedOn ∧ Claims.ResetAndBoot

/-- R96, R97, R121, R131, R132: when the bundle at the PC of the core whose turn it is holds one word that is not zero, in its slot, and that word decodes to an
instruction, the step is exec of that instruction, at the state in which the core has the turn and late writes have taken effect; the words of a bundle whose requests the directory has are kept (R344). An event that is next on the
agenda is performed by exec, too, where it may still fall in this tick (R66, R465), late writes being done before it unless it is one. -/
def Claims.StepRunsTheDecodedInstruction : Prop :=
  ∀ (s u : State) (c k : Nat) (ws : List Nat) (rest : List Act) (i : Instr),
    (s.Turn c ws u → (k, i.slot?) ∈ [(1, some Slot.S), (2, some .V), (4, some .M), (5, some .C), (7, some .A)] →
      ws.getD k 0 ≠ 0 → (∀ j < 8, j ≠ k → ws.getD j 0 = 0) → decodeSlot ((i.slot?).getD .S) (ws.getD k 0) = .ok i →
      ∃ t : State, exec i u = .next t ∧ step s = .next (if t.me.mem.cn = [] then t else t.modMe fun x => x.modFlow ({ · with words := ws }))) ∧
    (s.agenda = .event i :: rest → i.slot? = none → s.cyclesBegun = false ∨ (Act.event i).inCycle = true →
      s.queuedNow = false ∨ launches i = false →
      step s = exec i (if (Act.event i).isLate = true then { s with agenda := rest } else ({ s with agenda := rest } : State).applyLate))

/-- R96, R121, R404: no instruction and no event ever stops the machine: whatever the state and the operands, exec answers a next state, in which the
instruction has had its effect, has trapped, or has been refused or held as its rules say. -/
def Claims.NoInstructionStops : Prop :=
  ∀ (i : Instr) (s : State), ∃ t : State, exec i s = .next t

/-- Every run from every state goes on for ever: no state that a run reaches stops. -/
def Claims.RunsGoOn : Prop :=
  ∀ s : State, SafeFrom s

/-- A step runs the instruction that the bundle at the PC holds, or the event that is next on the agenda; nothing ever stops the machine. -/
def Obligations.StepRunsTheDecodedInstruction : Prop :=
  Claims.StepRunsTheDecodedInstruction ∧ Claims.NoInstructionStops ∧ Claims.RunsGoOn

/-- R98: in every slot the all-zero word is the slot's no-operation, and an all-zero header is NORMAL with profile 0, no request and no pops; a bundle of
zeros only advances the PC and the cycle count; a word with opcode 0 and any other bit set takes the illegal-instruction trap of its word.
Completion is stated of: vnop, mnop, cnop. -/
def Obligations.AllZeroBundleDoesNothing : Prop :=
  (decodeSlot .S 0 = .ok .nop ∧ decodeSlot .V 0 = .ok .vnop ∧ decodeSlot .M 0 = .ok .mnop ∧ decodeSlot .C 0 = .ok .cnop ∧ decodeSlot .A 0 = .ok .anop ∧
    decodeSlot .H 0 = .ok (.normal 0 none 0)) ∧
  ∀ (s u : State) (c : Nat) (ws : List Nat), s.Turn c ws u → u.Ready →
    ((∀ j < 8, ws.getD j 0 = 0) → step s = .next (u.modMe Core.retired)) ∧
    (u.MayTrap → ∀ p ∈ [(1, 25), (2, 26), (3, 26), (4, 26), (5, 25), (6, 25), (7, 26)],
      0 < ws.getD p.1 0 → ws.getD p.1 0 < 2 ^ p.2 → (∀ j < 8, j ≠ p.1 → ws.getD j 0 = 0) →
      step s = .next (u.modMe (·.refused p.1 ⟨0x02, 0⟩)))

/-- R163: BR tests the register as it stands at issue: taken, it goes to its own bundle and the offset, modulo 2^59 (log entry 13), so that offset 0 is its own bundle and
-32,768 and 32,767 the ends of the range; not taken, it goes on. A word of BR with a reserved condition is no instruction.
Completion is stated of: br. -/
def Obligations.BranchesTestTheirRegister : Prop :=
  (∀ (s : State) (c : BrCond) (a : BitVec 5) (off : BitVec 16), s.Ready →
    let v := (s.sReg a).toInt
    let holds : Prop := match c with
      | .eqz => v = 0
      | .nez => v ≠ 0
      | .ltz => v < 0
      | .gez => 0 ≤ v
      | .gtz => 0 < v
      | .lez => v ≤ 0
      | .bit0 => v % 2 = 1
      | .nbit0 => v % 2 = 0
    (holds → ∃ t : Pc, exec (.br c a off) s = .next (s.modMe (·.retiredTo t)) ∧
      (t.toNat : Int) = (s.me.flow.pc.toNat + off.toInt) % 2 ^ 59 ∧ -32768 ≤ off.toInt ∧ off.toInt ≤ 32767) ∧
    (¬ holds → exec (.br c a off) s = .next (s.modMe Core.retired))) ∧
  ∀ cond < 16, ∀ a < 32, ∀ off < 65536,
    decodeSlot .S (0x30 * 2 ^ 25 + cond * 2 ^ 21 + a * 2 ^ 16 + off) =
      match [BrCond.eqz, .nez, .ltz, .gez, .gtz, .lez, .bit0, .nbit0][cond]? with
      | some c => .ok (.br c (BitVec.ofNat 5 a) (BitVec.ofNat 16 off))
      | none => .error .illegal

/-- R199: VSEL gives each element that is on the element of A where the selecting predicate's bit for it is 1, and zero bits elsewhere; the
guard then applies; p0 copies A.
Completion is stated of: vsel. -/
def Obligations.VselSelectsOrClears : Prop :=
  ∀ (s : State) (D A : RowOp) (g ps : BitVec 2), s.Ready → s.Reads A → s.Writes D →
    let t := s.me.viewTag A none
    let n := tagCount t
    t ≠ .EMPTY → t ≠ .BX4 → s.Guardable g D t t →
    ∃ v : RowBits, exec (.vsel D A ps g) s = .next (s.rowLater 2 1 D v t) ∧
      ∀ j < n, elem (tagBits t) v j =
        if (s.me.regs.pReg g).getLsbD (j * (1024 / n)) = false then elem (tagBits t) (s.destOld D) j
        else if ps = 0 ∨ (s.me.regs.pReg ps).getLsbD (j * (1024 / n)) = true then elem (tagBits t) (s.rowBits t A) j else 0

/-- R40: Rnd16 of an element is the low sixteen bits of the mixed seed, slice and counter, in arithmetic that wraps at 64 bits. -/
def Obligations.Rnd16IsComputed : Prop :=
  ∀ (seed count : Word) (v e : Nat),
    let mul (x k : Nat) : Nat := x * k % 2 ^ 64
    let x := Nat.xor (Nat.xor seed.toNat (v * 2 ^ 40 % 2 ^ 64)) ((count.toNat + e) % 2 ^ 64)
    let y := mul (Nat.xor x (x / 2 ^ 30)) 0xBF58476D1CE4E5B9
    let z := mul (Nat.xor y (y / 2 ^ 27)) 0x94D049BB133111EB
    rnd16 seed v count e = Nat.xor z (z / 2 ^ 31) % 2 ^ 16 ∧
    ∀ (s : State) (r : Run), s.me.run = some r → s.rnd e = rnd16 s.me.ctl.rngSeed r.slice s.me.ctl.rndCount e

/-- R96, R100, R101, R108, R110 to R120: words written out field by field from the formats decode to the instructions that they stand for. -/
def Obligations.DecodesSpecWords : Prop :=
  decodeSlot .H (2 * 2 ^ 29 + 1 * 2 ^ 24 + 1 * 2 ^ 23 + 3 * 2 ^ 20 + 2 * 2 ^ 12 + 5 * 2 ^ 4 + 9) = .ok (.lock 1 (some 3) 2 5 9) ∧
  decodeSlot .S (0x01 * 2 ^ 25 + 3 * 2 ^ 20 + 1 * 2 ^ 15 + 2 * 2 ^ 10 + 1) = .ok (.add .s32 3 1 2) ∧
  decodeSlot .S (0x30 * 2 ^ 25 + 4 * 2 ^ 21 + 7 * 2 ^ 16 + 65535) = .ok (.br .gtz 7 (-1)) ∧
  decodeSlot .V (0x01 * 2 ^ 26 + 0x9D * 2 ^ 18 + 0x02 * 2 ^ 10 + 0x4C * 2 ^ 2 + 1) = .ok (.vadd (.t 29) (.o 2) (.tl 3 0) 1) ∧
  decodeSlot .M (0x01 * 2 ^ 26 + 0x09 * 2 ^ 18 + 31 * 2 ^ 13 + 1 * 2 ^ 8) = .ok (.mmul (.q 1) 31 0 .acc) ∧
  decodeSlot .C (0x01 * 2 ^ 25 + 0x9D * 2 ^ 17 + 4 * 2 ^ 13 + 2 * 2 ^ 9 + 511) = .ok (.ldl (.t 29) 4 (.row .w128) (-1)) ∧
  decodeSlot .C (0x30 * 2 ^ 25 + 3 * 2 ^ 17 + 4 * 2 ^ 9 + 3 * 2 ^ 6) = .ok (.fence 3 4 .module) ∧
  decodeSlot .A (0x08 * 2 ^ 26 + 5 * 2 ^ 22 + (2 ^ 22 - 1)) = .ok (.aaddi 5 (-1)) ∧
  decodeSlot .A (0x0A * 2 ^ 26 + 2 * 2 ^ 23 + 11 * 2 ^ 19) = .ok (.sbind 2 11)

/-- R96, R100, R110 to R120: every well-formed instruction, with every operand at every value that its fields admit, is read back from its own word in its slot; and every
word of 32 bits that a slot reads as an instruction is that instruction's own word, so that no bit is ignored and no two words are one instruction. -/
def Obligations.DecodeEncodeRoundTrip : Prop :=
  (∀ (i : Instr) (k : Slot), i.wf = true → i.slot? = some k → decodeSlot k (encode i) = .ok i ∧ encode i < 2 ^ 32) ∧
  (∀ (k : Slot) (w : Nat) (i : Instr), w < 2 ^ 32 → decodeSlot k w = .ok i → i.wf = true ∧ i.slot? = some k ∧ encode i = w)

/-- Every step, whoever takes it, keeps every memory of the module in canonical form: addresses rise strictly and no listed byte is what an unlisted one
reads as, so that equal memories are equal data. (The form is the model's; R60, R229, R235 name the memories.) -/
def Claims.MemoryStaysCanonical : Prop :=
  StepKeeps State.MemCanonical

/-- Every step keeps the cores and the clusters listed by rising number, and every node numbered apart below the next number. (The numbering is the
model's; R68 and R75 name the nodes.) -/
def Claims.ListsStayOrdered : Prop :=
  StepKeeps fun s => s.KeysSorted ∧ s.Numbered

/-- Every step keeps the memories canonical, and cores, clusters and nodes apart and in order. -/
def Obligations.InvariantsAreKept : Prop :=
  Claims.MemoryStaysCanonical ∧ Claims.ListsStayOrdered

/-- R98, R133, R152, R275, R305, R403, R440, R453, R460: after reset the time is 0, no core runs and none has a handler, every core is at operating point 2 with its
first tokens, the planes have no key and their sequence numbers are 0, every counter is 0, each die grants no class, nothing is launched and the module is out of service. -/
def Obligations.ResetValues : Prop :=
  let s := State.reset
  s.now = 0 ∧ s.service = false ∧ s.bootOk = false ∧ s.nodes = [] ∧ s.graphs = [] ∧ s.ptBase = 0 ∧ s.tdone = 0 ∧
  (∀ line : Nat, mapGet 0 line s.lineSeq = 0) ∧
  (∀ c : Nat, (s.core c).run = none ∧ (s.core c).ctl.trapVec = 0 ∧ (s.core c).ctl.opCur = 2 ∧ (s.core c).ctl.opTgt = 2 ∧ (s.core c).ctl.bal = 1024 ∧
    (s.core c).ctl.handler = false ∧ (s.core c).ctl.priv = false ∧ (s.core c).perf = {} ∧ (s.core c).regs.tTag = Vector.replicate 16 Tag.EMPTY) ∧
  (∀ d : Nat, (s.die d).grant.budget = 0 ∧ (s.die d).grant.rate = 16 ∧ (s.die d).grant.cap = 1024 ∧ (s.die d).opcap = 7 ∧
    (s.die d).seqHost = 0 ∧ (s.die d).fifo = [] ∧ (s.die d).counters = []) ∧
  s.MemCanonical ∧ s.KeysSorted ∧ s.Numbered
end

