-- ==== Sys2Proof/Laws/State.lean ====
section
/-! SUPPORT. Laws/State.lean: what each named update of the state, of a core and of its registers leaves in each field: one
lemma for each field and update, all true by unfolding. -/

namespace Sys2Proof.Machine

/-! ## The updates of one part of the state -/

@[simp] theorem State.modCore_now (s : State) (c : Nat) (f : Core → Core) : (s.modCore c f).now = s.now := rfl
@[simp] theorem State.modCore_clusters (s : State) (c : Nat) (f : Core → Core) : (s.modCore c f).clusters = s.clusters := rfl
@[simp] theorem State.modCore_dies (s : State) (c : Nat) (f : Core → Core) : (s.modCore c f).dies = s.dies := rfl
@[simp] theorem State.modCore_hbm (s : State) (c : Nat) (f : Core → Core) : (s.modCore c f).hbm = s.hbm := rfl
@[simp] theorem State.modCore_lineSeq (s : State) (c : Nat) (f : Core → Core) : (s.modCore c f).lineSeq = s.lineSeq := rfl
@[simp] theorem State.modCore_stamp (s : State) (c : Nat) (f : Core → Core) : (s.modCore c f).stamp = s.stamp := rfl
@[simp] theorem State.modCore_replicas (s : State) (c : Nat) (f : Core → Core) : (s.modCore c f).replicas = s.replicas := rfl
@[simp] theorem State.modCore_part (s : State) (c : Nat) (f : Core → Core) : (s.modCore c f).part = s.part := rfl
@[simp] theorem State.modCore_wear (s : State) (c : Nat) (f : Core → Core) : (s.modCore c f).wear = s.wear := rfl
@[simp] theorem State.modCore_service (s : State) (c : Nat) (f : Core → Core) : (s.modCore c f).service = s.service := rfl
@[simp] theorem State.modCore_bootOk (s : State) (c : Nat) (f : Core → Core) : (s.modCore c f).bootOk = s.bootOk := rfl
@[simp] theorem State.modCore_bootFailed (s : State) (c : Nat) (f : Core → Core) : (s.modCore c f).bootFailed = s.bootFailed := rfl
@[simp] theorem State.modCore_fwDigest (s : State) (c : Nat) (f : Core → Core) : (s.modCore c f).fwDigest = s.fwDigest := rfl
@[simp] theorem State.modCore_stopped (s : State) (c : Nat) (f : Core → Core) : (s.modCore c f).stopped = s.stopped := rfl
@[simp] theorem State.modCore_ptBase (s : State) (c : Nat) (f : Core → Core) : (s.modCore c f).ptBase = s.ptBase := rfl
@[simp] theorem State.modCore_pool (s : State) (c : Nat) (f : Core → Core) : (s.modCore c f).pool = s.pool := rfl
@[simp] theorem State.modCore_late (s : State) (c : Nat) (f : Core → Core) : (s.modCore c f).late = s.late := rfl
@[simp] theorem State.modCore_windows (s : State) (c : Nat) (f : Core → Core) : (s.modCore c f).windows = s.windows := rfl
@[simp] theorem State.modCore_switchParts (s : State) (c : Nat) (f : Core → Core) : (s.modCore c f).switchParts = s.switchParts := rfl
@[simp] theorem State.modCore_reaping (s : State) (c : Nat) (f : Core → Core) : (s.modCore c f).reaping = s.reaping := rfl
@[simp] theorem State.modCore_tinvs (s : State) (c : Nat) (f : Core → Core) : (s.modCore c f).tinvs = s.tinvs := rfl
@[simp] theorem State.modCore_tdone (s : State) (c : Nat) (f : Core → Core) : (s.modCore c f).tdone = s.tdone := rfl
@[simp] theorem State.modCore_mwbase (s : State) (c : Nat) (f : Core → Core) : (s.modCore c f).mwbase = s.mwbase := rfl
@[simp] theorem State.modCore_domSize (s : State) (c : Nat) (f : Core → Core) : (s.modCore c f).domSize = s.domSize := rfl
@[simp] theorem State.modCore_domMod (s : State) (c : Nat) (f : Core → Core) : (s.modCore c f).domMod = s.domMod := rfl
@[simp] theorem State.modCore_fabric (s : State) (c : Nat) (f : Core → Core) : (s.modCore c f).fabric = s.fabric := rfl
@[simp] theorem State.modCore_attest (s : State) (c : Nat) (f : Core → Core) : (s.modCore c f).attest = s.attest := rfl
@[simp] theorem State.modCore_msix (s : State) (c : Nat) (f : Core → Core) : (s.modCore c f).msix = s.msix := rfl
@[simp] theorem State.modCore_zones (s : State) (c : Nat) (f : Core → Core) : (s.modCore c f).zones = s.zones := rfl
@[simp] theorem State.modCore_calendar (s : State) (c : Nat) (f : Core → Core) : (s.modCore c f).calendar = s.calendar := rfl
@[simp] theorem State.modCore_calEpoch (s : State) (c : Nat) (f : Core → Core) : (s.modCore c f).calEpoch = s.calEpoch := rfl
@[simp] theorem State.modCore_hot (s : State) (c : Nat) (f : Core → Core) : (s.modCore c f).hot = s.hot := rfl
@[simp] theorem State.modCore_hostQ (s : State) (c : Nat) (f : Core → Core) : (s.modCore c f).hostQ = s.hostQ := rfl
@[simp] theorem State.modCore_hostTc (s : State) (c : Nat) (f : Core → Core) : (s.modCore c f).hostTc = s.hostTc := rfl
@[simp] theorem State.modCore_hostSlow (s : State) (c : Nat) (f : Core → Core) : (s.modCore c f).hostSlow = s.hostSlow := rfl
@[simp] theorem State.modCore_linkQ (s : State) (c : Nat) (f : Core → Core) : (s.modCore c f).linkQ = s.linkQ := rfl
@[simp] theorem State.modCore_homeCfgs (s : State) (c : Nat) (f : Core → Core) : (s.modCore c f).homeCfgs = s.homeCfgs := rfl
@[simp] theorem State.modCore_doneAdds (s : State) (c : Nat) (f : Core → Core) : (s.modCore c f).doneAdds = s.doneAdds := rfl
@[simp] theorem State.modCore_nodes (s : State) (c : Nat) (f : Core → Core) : (s.modCore c f).nodes = s.nodes := rfl
@[simp] theorem State.modCore_graphs (s : State) (c : Nat) (f : Core → Core) : (s.modCore c f).graphs = s.graphs := rfl
@[simp] theorem State.modCore_signals (s : State) (c : Nat) (f : Core → Core) : (s.modCore c f).signals = s.signals := rfl
@[simp] theorem State.modCore_badLines (s : State) (c : Nat) (f : Core → Core) : (s.modCore c f).badLines = s.badLines := rfl
@[simp] theorem State.modCore_badPlaces (s : State) (c : Nat) (f : Core → Core) : (s.modCore c f).badPlaces = s.badPlaces := rfl
@[simp] theorem State.modCore_releases (s : State) (c : Nat) (f : Core → Core) : (s.modCore c f).releases = s.releases := rfl
@[simp] theorem State.modCore_lostModules (s : State) (c : Nat) (f : Core → Core) : (s.modCore c f).lostModules = s.lostModules := rfl
@[simp] theorem State.modCore_lastHold (s : State) (c : Nat) (f : Core → Core) : (s.modCore c f).lastHold = s.lastHold := rfl
@[simp] theorem State.modCore_cur (s : State) (c : Nat) (f : Core → Core) : (s.modCore c f).cur = s.cur := rfl
@[simp] theorem State.modCore_turnFrom (s : State) (c : Nat) (f : Core → Core) : (s.modCore c f).turnFrom = s.turnFrom := rfl
@[simp] theorem State.modCore_agenda (s : State) (c : Nat) (f : Core → Core) : (s.modCore c f).agenda = s.agenda := rfl
@[simp] theorem State.modCore_fresh (s : State) (c : Nat) (f : Core → Core) : (s.modCore c f).fresh = s.fresh := rfl
@[simp] theorem State.modCore_grants (s : State) (c : Nat) (f : Core → Core) : (s.modCore c f).grants = s.grants := rfl
@[simp] theorem State.modCore_nextNode (s : State) (c : Nat) (f : Core → Core) : (s.modCore c f).nextNode = s.nextNode := rfl
@[simp] theorem State.modCore_resets (s : State) (c : Nat) (f : Core → Core) : (s.modCore c f).resets = s.resets := rfl
@[simp] theorem State.modCore_reply (s : State) (c : Nat) (f : Core → Core) : (s.modCore c f).reply = s.reply := rfl

@[simp] theorem State.modCluster_now (s : State) (k : Nat) (f : Cluster → Cluster) : (s.modCluster k f).now = s.now := rfl
@[simp] theorem State.modCluster_cores (s : State) (k : Nat) (f : Cluster → Cluster) : (s.modCluster k f).cores = s.cores := rfl
@[simp] theorem State.modCluster_dies (s : State) (k : Nat) (f : Cluster → Cluster) : (s.modCluster k f).dies = s.dies := rfl
@[simp] theorem State.modCluster_hbm (s : State) (k : Nat) (f : Cluster → Cluster) : (s.modCluster k f).hbm = s.hbm := rfl
@[simp] theorem State.modCluster_lineSeq (s : State) (k : Nat) (f : Cluster → Cluster) : (s.modCluster k f).lineSeq = s.lineSeq := rfl
@[simp] theorem State.modCluster_stamp (s : State) (k : Nat) (f : Cluster → Cluster) : (s.modCluster k f).stamp = s.stamp := rfl
@[simp] theorem State.modCluster_replicas (s : State) (k : Nat) (f : Cluster → Cluster) : (s.modCluster k f).replicas = s.replicas := rfl
@[simp] theorem State.modCluster_part (s : State) (k : Nat) (f : Cluster → Cluster) : (s.modCluster k f).part = s.part := rfl
@[simp] theorem State.modCluster_wear (s : State) (k : Nat) (f : Cluster → Cluster) : (s.modCluster k f).wear = s.wear := rfl
@[simp] theorem State.modCluster_service (s : State) (k : Nat) (f : Cluster → Cluster) : (s.modCluster k f).service = s.service := rfl
@[simp] theorem State.modCluster_bootOk (s : State) (k : Nat) (f : Cluster → Cluster) : (s.modCluster k f).bootOk = s.bootOk := rfl
@[simp] theorem State.modCluster_bootFailed (s : State) (k : Nat) (f : Cluster → Cluster) : (s.modCluster k f).bootFailed = s.bootFailed := rfl
@[simp] theorem State.modCluster_fwDigest (s : State) (k : Nat) (f : Cluster → Cluster) : (s.modCluster k f).fwDigest = s.fwDigest := rfl
@[simp] theorem State.modCluster_stopped (s : State) (k : Nat) (f : Cluster → Cluster) : (s.modCluster k f).stopped = s.stopped := rfl
@[simp] theorem State.modCluster_ptBase (s : State) (k : Nat) (f : Cluster → Cluster) : (s.modCluster k f).ptBase = s.ptBase := rfl
@[simp] theorem State.modCluster_pool (s : State) (k : Nat) (f : Cluster → Cluster) : (s.modCluster k f).pool = s.pool := rfl
@[simp] theorem State.modCluster_late (s : State) (k : Nat) (f : Cluster → Cluster) : (s.modCluster k f).late = s.late := rfl
@[simp] theorem State.modCluster_windows (s : State) (k : Nat) (f : Cluster → Cluster) : (s.modCluster k f).windows = s.windows := rfl
@[simp] theorem State.modCluster_switchParts (s : State) (k : Nat) (f : Cluster → Cluster) : (s.modCluster k f).switchParts = s.switchParts := rfl
@[simp] theorem State.modCluster_reaping (s : State) (k : Nat) (f : Cluster → Cluster) : (s.modCluster k f).reaping = s.reaping := rfl
@[simp] theorem State.modCluster_tinvs (s : State) (k : Nat) (f : Cluster → Cluster) : (s.modCluster k f).tinvs = s.tinvs := rfl
@[simp] theorem State.modCluster_tdone (s : State) (k : Nat) (f : Cluster → Cluster) : (s.modCluster k f).tdone = s.tdone := rfl
@[simp] theorem State.modCluster_mwbase (s : State) (k : Nat) (f : Cluster → Cluster) : (s.modCluster k f).mwbase = s.mwbase := rfl
@[simp] theorem State.modCluster_domSize (s : State) (k : Nat) (f : Cluster → Cluster) : (s.modCluster k f).domSize = s.domSize := rfl
@[simp] theorem State.modCluster_domMod (s : State) (k : Nat) (f : Cluster → Cluster) : (s.modCluster k f).domMod = s.domMod := rfl
@[simp] theorem State.modCluster_fabric (s : State) (k : Nat) (f : Cluster → Cluster) : (s.modCluster k f).fabric = s.fabric := rfl
@[simp] theorem State.modCluster_attest (s : State) (k : Nat) (f : Cluster → Cluster) : (s.modCluster k f).attest = s.attest := rfl
@[simp] theorem State.modCluster_msix (s : State) (k : Nat) (f : Cluster → Cluster) : (s.modCluster k f).msix = s.msix := rfl
@[simp] theorem State.modCluster_zones (s : State) (k : Nat) (f : Cluster → Cluster) : (s.modCluster k f).zones = s.zones := rfl
@[simp] theorem State.modCluster_calendar (s : State) (k : Nat) (f : Cluster → Cluster) : (s.modCluster k f).calendar = s.calendar := rfl
@[simp] theorem State.modCluster_calEpoch (s : State) (k : Nat) (f : Cluster → Cluster) : (s.modCluster k f).calEpoch = s.calEpoch := rfl
@[simp] theorem State.modCluster_hot (s : State) (k : Nat) (f : Cluster → Cluster) : (s.modCluster k f).hot = s.hot := rfl
@[simp] theorem State.modCluster_hostQ (s : State) (k : Nat) (f : Cluster → Cluster) : (s.modCluster k f).hostQ = s.hostQ := rfl
@[simp] theorem State.modCluster_hostTc (s : State) (k : Nat) (f : Cluster → Cluster) : (s.modCluster k f).hostTc = s.hostTc := rfl
@[simp] theorem State.modCluster_hostSlow (s : State) (k : Nat) (f : Cluster → Cluster) : (s.modCluster k f).hostSlow = s.hostSlow := rfl
@[simp] theorem State.modCluster_linkQ (s : State) (k : Nat) (f : Cluster → Cluster) : (s.modCluster k f).linkQ = s.linkQ := rfl
@[simp] theorem State.modCluster_homeCfgs (s : State) (k : Nat) (f : Cluster → Cluster) : (s.modCluster k f).homeCfgs = s.homeCfgs := rfl
@[simp] theorem State.modCluster_doneAdds (s : State) (k : Nat) (f : Cluster → Cluster) : (s.modCluster k f).doneAdds = s.doneAdds := rfl
@[simp] theorem State.modCluster_nodes (s : State) (k : Nat) (f : Cluster → Cluster) : (s.modCluster k f).nodes = s.nodes := rfl
@[simp] theorem State.modCluster_graphs (s : State) (k : Nat) (f : Cluster → Cluster) : (s.modCluster k f).graphs = s.graphs := rfl
@[simp] theorem State.modCluster_signals (s : State) (k : Nat) (f : Cluster → Cluster) : (s.modCluster k f).signals = s.signals := rfl
@[simp] theorem State.modCluster_badLines (s : State) (k : Nat) (f : Cluster → Cluster) : (s.modCluster k f).badLines = s.badLines := rfl
@[simp] theorem State.modCluster_badPlaces (s : State) (k : Nat) (f : Cluster → Cluster) : (s.modCluster k f).badPlaces = s.badPlaces := rfl
@[simp] theorem State.modCluster_releases (s : State) (k : Nat) (f : Cluster → Cluster) : (s.modCluster k f).releases = s.releases := rfl
@[simp] theorem State.modCluster_lostModules (s : State) (k : Nat) (f : Cluster → Cluster) : (s.modCluster k f).lostModules = s.lostModules := rfl
@[simp] theorem State.modCluster_lastHold (s : State) (k : Nat) (f : Cluster → Cluster) : (s.modCluster k f).lastHold = s.lastHold := rfl
@[simp] theorem State.modCluster_cur (s : State) (k : Nat) (f : Cluster → Cluster) : (s.modCluster k f).cur = s.cur := rfl
@[simp] theorem State.modCluster_turnFrom (s : State) (k : Nat) (f : Cluster → Cluster) : (s.modCluster k f).turnFrom = s.turnFrom := rfl
@[simp] theorem State.modCluster_agenda (s : State) (k : Nat) (f : Cluster → Cluster) : (s.modCluster k f).agenda = s.agenda := rfl
@[simp] theorem State.modCluster_fresh (s : State) (k : Nat) (f : Cluster → Cluster) : (s.modCluster k f).fresh = s.fresh := rfl
@[simp] theorem State.modCluster_grants (s : State) (k : Nat) (f : Cluster → Cluster) : (s.modCluster k f).grants = s.grants := rfl
@[simp] theorem State.modCluster_nextNode (s : State) (k : Nat) (f : Cluster → Cluster) : (s.modCluster k f).nextNode = s.nextNode := rfl
@[simp] theorem State.modCluster_resets (s : State) (k : Nat) (f : Cluster → Cluster) : (s.modCluster k f).resets = s.resets := rfl
@[simp] theorem State.modCluster_reply (s : State) (k : Nat) (f : Cluster → Cluster) : (s.modCluster k f).reply = s.reply := rfl

@[simp] theorem State.modDie_now (s : State) (d : Nat) (f : Die → Die) : (s.modDie d f).now = s.now := rfl
@[simp] theorem State.modDie_cores (s : State) (d : Nat) (f : Die → Die) : (s.modDie d f).cores = s.cores := rfl
@[simp] theorem State.modDie_clusters (s : State) (d : Nat) (f : Die → Die) : (s.modDie d f).clusters = s.clusters := rfl
@[simp] theorem State.modDie_hbm (s : State) (d : Nat) (f : Die → Die) : (s.modDie d f).hbm = s.hbm := rfl
@[simp] theorem State.modDie_lineSeq (s : State) (d : Nat) (f : Die → Die) : (s.modDie d f).lineSeq = s.lineSeq := rfl
@[simp] theorem State.modDie_stamp (s : State) (d : Nat) (f : Die → Die) : (s.modDie d f).stamp = s.stamp := rfl
@[simp] theorem State.modDie_replicas (s : State) (d : Nat) (f : Die → Die) : (s.modDie d f).replicas = s.replicas := rfl
@[simp] theorem State.modDie_part (s : State) (d : Nat) (f : Die → Die) : (s.modDie d f).part = s.part := rfl
@[simp] theorem State.modDie_wear (s : State) (d : Nat) (f : Die → Die) : (s.modDie d f).wear = s.wear := rfl
@[simp] theorem State.modDie_service (s : State) (d : Nat) (f : Die → Die) : (s.modDie d f).service = s.service := rfl
@[simp] theorem State.modDie_bootOk (s : State) (d : Nat) (f : Die → Die) : (s.modDie d f).bootOk = s.bootOk := rfl
@[simp] theorem State.modDie_bootFailed (s : State) (d : Nat) (f : Die → Die) : (s.modDie d f).bootFailed = s.bootFailed := rfl
@[simp] theorem State.modDie_fwDigest (s : State) (d : Nat) (f : Die → Die) : (s.modDie d f).fwDigest = s.fwDigest := rfl
@[simp] theorem State.modDie_stopped (s : State) (d : Nat) (f : Die → Die) : (s.modDie d f).stopped = s.stopped := rfl
@[simp] theorem State.modDie_ptBase (s : State) (d : Nat) (f : Die → Die) : (s.modDie d f).ptBase = s.ptBase := rfl
@[simp] theorem State.modDie_pool (s : State) (d : Nat) (f : Die → Die) : (s.modDie d f).pool = s.pool := rfl
@[simp] theorem State.modDie_late (s : State) (d : Nat) (f : Die → Die) : (s.modDie d f).late = s.late := rfl
@[simp] theorem State.modDie_windows (s : State) (d : Nat) (f : Die → Die) : (s.modDie d f).windows = s.windows := rfl
@[simp] theorem State.modDie_switchParts (s : State) (d : Nat) (f : Die → Die) : (s.modDie d f).switchParts = s.switchParts := rfl
@[simp] theorem State.modDie_reaping (s : State) (d : Nat) (f : Die → Die) : (s.modDie d f).reaping = s.reaping := rfl
@[simp] theorem State.modDie_tinvs (s : State) (d : Nat) (f : Die → Die) : (s.modDie d f).tinvs = s.tinvs := rfl
@[simp] theorem State.modDie_tdone (s : State) (d : Nat) (f : Die → Die) : (s.modDie d f).tdone = s.tdone := rfl
@[simp] theorem State.modDie_mwbase (s : State) (d : Nat) (f : Die → Die) : (s.modDie d f).mwbase = s.mwbase := rfl
@[simp] theorem State.modDie_domSize (s : State) (d : Nat) (f : Die → Die) : (s.modDie d f).domSize = s.domSize := rfl
@[simp] theorem State.modDie_domMod (s : State) (d : Nat) (f : Die → Die) : (s.modDie d f).domMod = s.domMod := rfl
@[simp] theorem State.modDie_fabric (s : State) (d : Nat) (f : Die → Die) : (s.modDie d f).fabric = s.fabric := rfl
@[simp] theorem State.modDie_attest (s : State) (d : Nat) (f : Die → Die) : (s.modDie d f).attest = s.attest := rfl
@[simp] theorem State.modDie_msix (s : State) (d : Nat) (f : Die → Die) : (s.modDie d f).msix = s.msix := rfl
@[simp] theorem State.modDie_zones (s : State) (d : Nat) (f : Die → Die) : (s.modDie d f).zones = s.zones := rfl
@[simp] theorem State.modDie_calendar (s : State) (d : Nat) (f : Die → Die) : (s.modDie d f).calendar = s.calendar := rfl
@[simp] theorem State.modDie_calEpoch (s : State) (d : Nat) (f : Die → Die) : (s.modDie d f).calEpoch = s.calEpoch := rfl
@[simp] theorem State.modDie_hot (s : State) (d : Nat) (f : Die → Die) : (s.modDie d f).hot = s.hot := rfl
@[simp] theorem State.modDie_hostQ (s : State) (d : Nat) (f : Die → Die) : (s.modDie d f).hostQ = s.hostQ := rfl
@[simp] theorem State.modDie_hostTc (s : State) (d : Nat) (f : Die → Die) : (s.modDie d f).hostTc = s.hostTc := rfl
@[simp] theorem State.modDie_hostSlow (s : State) (d : Nat) (f : Die → Die) : (s.modDie d f).hostSlow = s.hostSlow := rfl
@[simp] theorem State.modDie_linkQ (s : State) (d : Nat) (f : Die → Die) : (s.modDie d f).linkQ = s.linkQ := rfl
@[simp] theorem State.modDie_homeCfgs (s : State) (d : Nat) (f : Die → Die) : (s.modDie d f).homeCfgs = s.homeCfgs := rfl
@[simp] theorem State.modDie_doneAdds (s : State) (d : Nat) (f : Die → Die) : (s.modDie d f).doneAdds = s.doneAdds := rfl
@[simp] theorem State.modDie_nodes (s : State) (d : Nat) (f : Die → Die) : (s.modDie d f).nodes = s.nodes := rfl
@[simp] theorem State.modDie_graphs (s : State) (d : Nat) (f : Die → Die) : (s.modDie d f).graphs = s.graphs := rfl
@[simp] theorem State.modDie_signals (s : State) (d : Nat) (f : Die → Die) : (s.modDie d f).signals = s.signals := rfl
@[simp] theorem State.modDie_badLines (s : State) (d : Nat) (f : Die → Die) : (s.modDie d f).badLines = s.badLines := rfl
@[simp] theorem State.modDie_badPlaces (s : State) (d : Nat) (f : Die → Die) : (s.modDie d f).badPlaces = s.badPlaces := rfl
@[simp] theorem State.modDie_releases (s : State) (d : Nat) (f : Die → Die) : (s.modDie d f).releases = s.releases := rfl
@[simp] theorem State.modDie_lostModules (s : State) (d : Nat) (f : Die → Die) : (s.modDie d f).lostModules = s.lostModules := rfl
@[simp] theorem State.modDie_lastHold (s : State) (d : Nat) (f : Die → Die) : (s.modDie d f).lastHold = s.lastHold := rfl
@[simp] theorem State.modDie_cur (s : State) (d : Nat) (f : Die → Die) : (s.modDie d f).cur = s.cur := rfl
@[simp] theorem State.modDie_turnFrom (s : State) (d : Nat) (f : Die → Die) : (s.modDie d f).turnFrom = s.turnFrom := rfl
@[simp] theorem State.modDie_agenda (s : State) (d : Nat) (f : Die → Die) : (s.modDie d f).agenda = s.agenda := rfl
@[simp] theorem State.modDie_fresh (s : State) (d : Nat) (f : Die → Die) : (s.modDie d f).fresh = s.fresh := rfl
@[simp] theorem State.modDie_grants (s : State) (d : Nat) (f : Die → Die) : (s.modDie d f).grants = s.grants := rfl
@[simp] theorem State.modDie_nextNode (s : State) (d : Nat) (f : Die → Die) : (s.modDie d f).nextNode = s.nextNode := rfl
@[simp] theorem State.modDie_resets (s : State) (d : Nat) (f : Die → Die) : (s.modDie d f).resets = s.resets := rfl
@[simp] theorem State.modDie_reply (s : State) (d : Nat) (f : Die → Die) : (s.modDie d f).reply = s.reply := rfl

@[simp] theorem State.modMe_now (s : State) (f : Core → Core) : (s.modMe f).now = s.now := rfl
@[simp] theorem State.modMe_clusters (s : State) (f : Core → Core) : (s.modMe f).clusters = s.clusters := rfl
@[simp] theorem State.modMe_dies (s : State) (f : Core → Core) : (s.modMe f).dies = s.dies := rfl
@[simp] theorem State.modMe_hbm (s : State) (f : Core → Core) : (s.modMe f).hbm = s.hbm := rfl
@[simp] theorem State.modMe_lineSeq (s : State) (f : Core → Core) : (s.modMe f).lineSeq = s.lineSeq := rfl
@[simp] theorem State.modMe_stamp (s : State) (f : Core → Core) : (s.modMe f).stamp = s.stamp := rfl
@[simp] theorem State.modMe_replicas (s : State) (f : Core → Core) : (s.modMe f).replicas = s.replicas := rfl
@[simp] theorem State.modMe_part (s : State) (f : Core → Core) : (s.modMe f).part = s.part := rfl
@[simp] theorem State.modMe_wear (s : State) (f : Core → Core) : (s.modMe f).wear = s.wear := rfl
@[simp] theorem State.modMe_service (s : State) (f : Core → Core) : (s.modMe f).service = s.service := rfl
@[simp] theorem State.modMe_bootOk (s : State) (f : Core → Core) : (s.modMe f).bootOk = s.bootOk := rfl
@[simp] theorem State.modMe_bootFailed (s : State) (f : Core → Core) : (s.modMe f).bootFailed = s.bootFailed := rfl
@[simp] theorem State.modMe_fwDigest (s : State) (f : Core → Core) : (s.modMe f).fwDigest = s.fwDigest := rfl
@[simp] theorem State.modMe_stopped (s : State) (f : Core → Core) : (s.modMe f).stopped = s.stopped := rfl
@[simp] theorem State.modMe_ptBase (s : State) (f : Core → Core) : (s.modMe f).ptBase = s.ptBase := rfl
@[simp] theorem State.modMe_pool (s : State) (f : Core → Core) : (s.modMe f).pool = s.pool := rfl
@[simp] theorem State.modMe_late (s : State) (f : Core → Core) : (s.modMe f).late = s.late := rfl
@[simp] theorem State.modMe_windows (s : State) (f : Core → Core) : (s.modMe f).windows = s.windows := rfl
@[simp] theorem State.modMe_switchParts (s : State) (f : Core → Core) : (s.modMe f).switchParts = s.switchParts := rfl
@[simp] theorem State.modMe_reaping (s : State) (f : Core → Core) : (s.modMe f).reaping = s.reaping := rfl
@[simp] theorem State.modMe_tinvs (s : State) (f : Core → Core) : (s.modMe f).tinvs = s.tinvs := rfl
@[simp] theorem State.modMe_tdone (s : State) (f : Core → Core) : (s.modMe f).tdone = s.tdone := rfl
@[simp] theorem State.modMe_mwbase (s : State) (f : Core → Core) : (s.modMe f).mwbase = s.mwbase := rfl
@[simp] theorem State.modMe_domSize (s : State) (f : Core → Core) : (s.modMe f).domSize = s.domSize := rfl
@[simp] theorem State.modMe_domMod (s : State) (f : Core → Core) : (s.modMe f).domMod = s.domMod := rfl
@[simp] theorem State.modMe_fabric (s : State) (f : Core → Core) : (s.modMe f).fabric = s.fabric := rfl
@[simp] theorem State.modMe_attest (s : State) (f : Core → Core) : (s.modMe f).attest = s.attest := rfl
@[simp] theorem State.modMe_msix (s : State) (f : Core → Core) : (s.modMe f).msix = s.msix := rfl
@[simp] theorem State.modMe_zones (s : State) (f : Core → Core) : (s.modMe f).zones = s.zones := rfl
@[simp] theorem State.modMe_calendar (s : State) (f : Core → Core) : (s.modMe f).calendar = s.calendar := rfl
@[simp] theorem State.modMe_calEpoch (s : State) (f : Core → Core) : (s.modMe f).calEpoch = s.calEpoch := rfl
@[simp] theorem State.modMe_hot (s : State) (f : Core → Core) : (s.modMe f).hot = s.hot := rfl
@[simp] theorem State.modMe_hostQ (s : State) (f : Core → Core) : (s.modMe f).hostQ = s.hostQ := rfl
@[simp] theorem State.modMe_hostTc (s : State) (f : Core → Core) : (s.modMe f).hostTc = s.hostTc := rfl
@[simp] theorem State.modMe_hostSlow (s : State) (f : Core → Core) : (s.modMe f).hostSlow = s.hostSlow := rfl
@[simp] theorem State.modMe_linkQ (s : State) (f : Core → Core) : (s.modMe f).linkQ = s.linkQ := rfl
@[simp] theorem State.modMe_homeCfgs (s : State) (f : Core → Core) : (s.modMe f).homeCfgs = s.homeCfgs := rfl
@[simp] theorem State.modMe_doneAdds (s : State) (f : Core → Core) : (s.modMe f).doneAdds = s.doneAdds := rfl
@[simp] theorem State.modMe_nodes (s : State) (f : Core → Core) : (s.modMe f).nodes = s.nodes := rfl
@[simp] theorem State.modMe_graphs (s : State) (f : Core → Core) : (s.modMe f).graphs = s.graphs := rfl
@[simp] theorem State.modMe_signals (s : State) (f : Core → Core) : (s.modMe f).signals = s.signals := rfl
@[simp] theorem State.modMe_badLines (s : State) (f : Core → Core) : (s.modMe f).badLines = s.badLines := rfl
@[simp] theorem State.modMe_badPlaces (s : State) (f : Core → Core) : (s.modMe f).badPlaces = s.badPlaces := rfl
@[simp] theorem State.modMe_releases (s : State) (f : Core → Core) : (s.modMe f).releases = s.releases := rfl
@[simp] theorem State.modMe_lostModules (s : State) (f : Core → Core) : (s.modMe f).lostModules = s.lostModules := rfl
@[simp] theorem State.modMe_lastHold (s : State) (f : Core → Core) : (s.modMe f).lastHold = s.lastHold := rfl
@[simp] theorem State.modMe_cur (s : State) (f : Core → Core) : (s.modMe f).cur = s.cur := rfl
@[simp] theorem State.modMe_turnFrom (s : State) (f : Core → Core) : (s.modMe f).turnFrom = s.turnFrom := rfl
@[simp] theorem State.modMe_agenda (s : State) (f : Core → Core) : (s.modMe f).agenda = s.agenda := rfl
@[simp] theorem State.modMe_fresh (s : State) (f : Core → Core) : (s.modMe f).fresh = s.fresh := rfl
@[simp] theorem State.modMe_grants (s : State) (f : Core → Core) : (s.modMe f).grants = s.grants := rfl
@[simp] theorem State.modMe_nextNode (s : State) (f : Core → Core) : (s.modMe f).nextNode = s.nextNode := rfl
@[simp] theorem State.modMe_resets (s : State) (f : Core → Core) : (s.modMe f).resets = s.resets := rfl
@[simp] theorem State.modMe_reply (s : State) (f : Core → Core) : (s.modMe f).reply = s.reply := rfl

/-! ## The updates of one part of a core -/

@[simp] theorem Core.modRegs_regs (x : Core) (f : Regs → Regs) : (x.modRegs f).regs = f x.regs := rfl
@[simp] theorem Core.modRegs_ctl (x : Core) (f : Regs → Regs) : (x.modRegs f).ctl = x.ctl := rfl
@[simp] theorem Core.modRegs_flow (x : Core) (f : Regs → Regs) : (x.modRegs f).flow = x.flow := rfl
@[simp] theorem Core.modRegs_mem (x : Core) (f : Regs → Regs) : (x.modRegs f).mem = x.mem := rfl
@[simp] theorem Core.modRegs_mat (x : Core) (f : Regs → Regs) : (x.modRegs f).mat = x.mat := rfl
@[simp] theorem Core.modRegs_perf (x : Core) (f : Regs → Regs) : (x.modRegs f).perf = x.perf := rfl
@[simp] theorem Core.modRegs_run (x : Core) (f : Regs → Regs) : (x.modRegs f).run = x.run := rfl

@[simp] theorem Core.modCtl_regs (x : Core) (f : Ctl → Ctl) : (x.modCtl f).regs = x.regs := rfl
@[simp] theorem Core.modCtl_ctl (x : Core) (f : Ctl → Ctl) : (x.modCtl f).ctl = f x.ctl := rfl
@[simp] theorem Core.modCtl_flow (x : Core) (f : Ctl → Ctl) : (x.modCtl f).flow = x.flow := rfl
@[simp] theorem Core.modCtl_mem (x : Core) (f : Ctl → Ctl) : (x.modCtl f).mem = x.mem := rfl
@[simp] theorem Core.modCtl_mat (x : Core) (f : Ctl → Ctl) : (x.modCtl f).mat = x.mat := rfl
@[simp] theorem Core.modCtl_perf (x : Core) (f : Ctl → Ctl) : (x.modCtl f).perf = x.perf := rfl
@[simp] theorem Core.modCtl_run (x : Core) (f : Ctl → Ctl) : (x.modCtl f).run = x.run := rfl

@[simp] theorem Core.modFlow_regs (x : Core) (f : Flow → Flow) : (x.modFlow f).regs = x.regs := rfl
@[simp] theorem Core.modFlow_ctl (x : Core) (f : Flow → Flow) : (x.modFlow f).ctl = x.ctl := rfl
@[simp] theorem Core.modFlow_flow (x : Core) (f : Flow → Flow) : (x.modFlow f).flow = f x.flow := rfl
@[simp] theorem Core.modFlow_mem (x : Core) (f : Flow → Flow) : (x.modFlow f).mem = x.mem := rfl
@[simp] theorem Core.modFlow_mat (x : Core) (f : Flow → Flow) : (x.modFlow f).mat = x.mat := rfl
@[simp] theorem Core.modFlow_perf (x : Core) (f : Flow → Flow) : (x.modFlow f).perf = x.perf := rfl
@[simp] theorem Core.modFlow_run (x : Core) (f : Flow → Flow) : (x.modFlow f).run = x.run := rfl

@[simp] theorem Core.modMem_regs (x : Core) (f : Local → Local) : (x.modMem f).regs = x.regs := rfl
@[simp] theorem Core.modMem_ctl (x : Core) (f : Local → Local) : (x.modMem f).ctl = x.ctl := rfl
@[simp] theorem Core.modMem_flow (x : Core) (f : Local → Local) : (x.modMem f).flow = x.flow := rfl
@[simp] theorem Core.modMem_mem (x : Core) (f : Local → Local) : (x.modMem f).mem = f x.mem := rfl
@[simp] theorem Core.modMem_mat (x : Core) (f : Local → Local) : (x.modMem f).mat = x.mat := rfl
@[simp] theorem Core.modMem_perf (x : Core) (f : Local → Local) : (x.modMem f).perf = x.perf := rfl
@[simp] theorem Core.modMem_run (x : Core) (f : Local → Local) : (x.modMem f).run = x.run := rfl

@[simp] theorem Core.modMat_regs (x : Core) (f : Matrix → Matrix) : (x.modMat f).regs = x.regs := rfl
@[simp] theorem Core.modMat_ctl (x : Core) (f : Matrix → Matrix) : (x.modMat f).ctl = x.ctl := rfl
@[simp] theorem Core.modMat_flow (x : Core) (f : Matrix → Matrix) : (x.modMat f).flow = x.flow := rfl
@[simp] theorem Core.modMat_mem (x : Core) (f : Matrix → Matrix) : (x.modMat f).mem = x.mem := rfl
@[simp] theorem Core.modMat_mat (x : Core) (f : Matrix → Matrix) : (x.modMat f).mat = f x.mat := rfl
@[simp] theorem Core.modMat_perf (x : Core) (f : Matrix → Matrix) : (x.modMat f).perf = x.perf := rfl
@[simp] theorem Core.modMat_run (x : Core) (f : Matrix → Matrix) : (x.modMat f).run = x.run := rfl

@[simp] theorem Core.modIssue_regs (x : Core) (f : Issue → Issue) : (x.modIssue f).regs = x.regs := rfl
@[simp] theorem Core.modIssue_ctl (x : Core) (f : Issue → Issue) : (x.modIssue f).ctl = x.ctl := rfl
@[simp] theorem Core.modIssue_mem (x : Core) (f : Issue → Issue) : (x.modIssue f).mem = x.mem := rfl
@[simp] theorem Core.modIssue_mat (x : Core) (f : Issue → Issue) : (x.modIssue f).mat = x.mat := rfl
@[simp] theorem Core.modIssue_perf (x : Core) (f : Issue → Issue) : (x.modIssue f).perf = x.perf := rfl
@[simp] theorem Core.modIssue_run (x : Core) (f : Issue → Issue) : (x.modIssue f).run = x.run := rfl
@[simp] theorem Core.modIssue_flow_pc (x : Core) (f : Issue → Issue) : (x.modIssue f).flow.pc = x.flow.pc := rfl
@[simp] theorem Core.modIssue_flow_count (x : Core) (f : Issue → Issue) : (x.modIssue f).flow.count = x.flow.count := rfl
@[simp] theorem Core.modIssue_flow_loops (x : Core) (f : Issue → Issue) : (x.modIssue f).flow.loops = x.flow.loops := rfl
@[simp] theorem Core.modIssue_flow_pending (x : Core) (f : Issue → Issue) : (x.modIssue f).flow.pending = x.flow.pending := rfl
@[simp] theorem Core.modIssue_flow_carry (x : Core) (f : Issue → Issue) : (x.modIssue f).flow.carry = x.flow.carry := rfl
@[simp] theorem Core.modIssue_flow_save (x : Core) (f : Issue → Issue) : (x.modIssue f).flow.save = x.flow.save := rfl
@[simp] theorem Core.modIssue_flow_issue (x : Core) (f : Issue → Issue) : (x.modIssue f).flow.issue = f x.flow.issue := rfl
@[simp] theorem Core.modIssue_flow_frozen (x : Core) (f : Issue → Issue) : (x.modIssue f).flow.frozen = x.flow.frozen := rfl
@[simp] theorem Core.modIssue_flow_causes (x : Core) (f : Issue → Issue) : (x.modIssue f).flow.causes = x.flow.causes := rfl
@[simp] theorem Core.modIssue_flow_signal (x : Core) (f : Issue → Issue) : (x.modIssue f).flow.signal = x.flow.signal := rfl
@[simp] theorem Core.modIssue_flow_monitor (x : Core) (f : Issue → Issue) : (x.modIssue f).flow.monitor = x.flow.monitor := rfl
@[simp] theorem Core.modIssue_flow_sleepWoken (x : Core) (f : Issue → Issue) : (x.modIssue f).flow.sleepWoken = x.flow.sleepWoken := rfl
@[simp] theorem Core.modIssue_flow_sleepArmed (x : Core) (f : Issue → Issue) : (x.modIssue f).flow.sleepArmed = x.flow.sleepArmed := rfl
@[simp] theorem Core.modIssue_flow_sleepFault (x : Core) (f : Issue → Issue) : (x.modIssue f).flow.sleepFault = x.flow.sleepFault := rfl
@[simp] theorem Core.modIssue_flow_synced (x : Core) (f : Issue → Issue) : (x.modIssue f).flow.synced = x.flow.synced := rfl
@[simp] theorem Core.modIssue_flow_restarted (x : Core) (f : Issue → Issue) : (x.modIssue f).flow.restarted = x.flow.restarted := rfl
@[simp] theorem Core.modIssue_flow_arrived (x : Core) (f : Issue → Issue) : (x.modIssue f).flow.arrived = x.flow.arrived := rfl
@[simp] theorem Core.modIssue_flow_power (x : Core) (f : Issue → Issue) : (x.modIssue f).flow.power = x.flow.power := rfl
@[simp] theorem Core.modIssue_flow_leased (x : Core) (f : Issue → Issue) : (x.modIssue f).flow.leased = x.flow.leased := rfl
@[simp] theorem Core.modIssue_flow_bun (x : Core) (f : Issue → Issue) : (x.modIssue f).flow.bun = x.flow.bun := rfl
@[simp] theorem Core.modIssue_flow_nextId (x : Core) (f : Issue → Issue) : (x.modIssue f).flow.nextId = x.flow.nextId := rfl
@[simp] theorem Core.modIssue_flow_fetched (x : Core) (f : Issue → Issue) : (x.modIssue f).flow.fetched = x.flow.fetched := rfl
@[simp] theorem Core.modIssue_flow_words (x : Core) (f : Issue → Issue) : (x.modIssue f).flow.words = x.flow.words := rfl
@[simp] theorem Core.modIssue_flow_redo (x : Core) (f : Issue → Issue) : (x.modIssue f).flow.redo = x.flow.redo := rfl

end Sys2Proof.Machine
end

