-- ==== Sys2Proof/Laws/Parts.lean ====
section
/-! SUPPORT. Laws/Parts.lean: the parts of the state by number: what is read after a write of the same part, of another part, and
two writes of one part. -/

namespace Sys2Proof.Machine

/-! ## Sparse maps -/

section
variable {α : Type} (d v w : α) (j k : Nat) (m : SMap α)

theorem mapGet_mapSet_self : mapGet d k (mapSet k v m) = v := by
  induction m with
  | nil => simp [mapSet, mapGet]
  | cons p t ih =>
    obtain ⟨i, u⟩ := p
    rcases Nat.lt_trichotomy k i with h | rfl | h
    · simp [mapSet, mapGet, h]
    · simp [mapSet, mapGet]
    · simp [mapSet, mapGet, ih, Nat.lt_asymm h, Nat.ne_of_gt h]

theorem mapGet_mapSet_ne (h : j ≠ k) : mapGet d j (mapSet k v m) = mapGet d j m := by
  induction m with
  | nil => simp [mapSet, mapGet, h]
  | cons p t ih =>
    obtain ⟨i, u⟩ := p
    rcases Nat.lt_trichotomy k i with g | rfl | g
    · simp [mapSet, mapGet, g, h]
    · simp [mapSet, mapGet, h]
    · simp [mapSet, mapGet, ih, Nat.lt_asymm g, Nat.ne_of_gt g]

theorem mapSet_mapSet : mapSet k w (mapSet k v m) = mapSet k w m := by
  induction m with
  | nil => simp [mapSet]
  | cons p t ih =>
    obtain ⟨i, u⟩ := p
    rcases Nat.lt_trichotomy k i with g | rfl | g
    · simp [mapSet, g]
    · simp [mapSet]
    · simp [mapSet, ih, Nat.lt_asymm g, Nat.ne_of_gt g]

/-- A number listed in a map after a write is the written one or was listed before. -/
theorem mem_mapSet {p : Nat × α} (h : p ∈ mapSet k v m) : p = (k, v) ∨ p ∈ m := by
  induction m with
  | nil => simpa [mapSet] using h
  | cons q t ih =>
    obtain ⟨i, u⟩ := q
    simp only [mapSet] at h
    split at h
    · simpa using h
    · split at h <;> grind

/-- What a map holds at a number is listed in it or the default. -/
theorem mapGet_mem : mapGet d k m = d ∨ (k, mapGet d k m) ∈ m := by
  induction m with
  | nil => simp [mapGet]
  | cons q t ih => grind [mapGet]
end

/-! ## Cores -/

section
variable (s : State) (c e : Nat) (f g : Core → Core)

@[simp] theorem State.core_modCore_self : (s.modCore c f).core c = f (s.core c) := mapGet_mapSet_self ..

theorem State.core_modCore_ne (h : e ≠ c) : (s.modCore c f).core e = s.core e := mapGet_mapSet_ne _ _ _ _ _ h

@[simp] theorem State.modCore_modCore : (s.modCore c f).modCore c g = s.modCore c fun x => g (f x) := by
  simp [State.modCore, State.core, mapGet_mapSet_self, mapSet_mapSet]

@[simp] theorem State.me_modMe : (s.modMe f).me = f s.me := mapGet_mapSet_self ..

@[simp] theorem State.modMe_modMe : (s.modMe f).modMe g = s.modMe fun x => g (f x) := State.modCore_modCore ..

@[simp] theorem State.core_modMe : (s.modMe f).core s.cur = f (s.core s.cur) := State.core_modCore_self ..

theorem State.core_modMe_ne (h : e ≠ s.cur) : (s.modMe f).core e = s.core e := State.core_modCore_ne _ _ _ _ h

@[simp] theorem State.modMe_modCore : (s.modMe f).modCore s.cur g = s.modMe fun x => g (f x) := State.modCore_modCore ..

@[simp] theorem State.core_cur : s.core s.cur = s.me := rfl

theorem State.modCore_at_cur : s.modCore s.cur f = s.modMe f := rfl

@[simp] theorem State.core_modCluster (k : Nat) (f : Cluster → Cluster) : (s.modCluster k f).core c = s.core c := rfl
@[simp] theorem State.core_modDie (d : Nat) (f : Die → Die) : (s.modDie d f).core c = s.core c := rfl
@[simp] theorem State.me_modCluster (k : Nat) (f : Cluster → Cluster) : (s.modCluster k f).me = s.me := rfl
@[simp] theorem State.me_modDie (d : Nat) (f : Die → Die) : (s.modDie d f).me = s.me := rfl

/-- Two updates of one core that agree on what it holds give one state. -/
theorem State.modMe_congr (h : f s.me = g s.me) : s.modMe f = s.modMe g := by
  simp only [State.modMe, State.modCore]
  rw [show s.core s.cur = s.me from rfl, h]
end

/-! ## Clusters and dies -/

section
variable (s : State)

@[simp] theorem State.cluster_modCluster_self (k : Nat) (f : Cluster → Cluster) : (s.modCluster k f).cluster k = f (s.cluster k) :=
  mapGet_mapSet_self ..

theorem State.cluster_modCluster_ne (k j : Nat) (f : Cluster → Cluster) (h : j ≠ k) :
    (s.modCluster k f).cluster j = s.cluster j := mapGet_mapSet_ne _ _ _ _ _ h

@[simp] theorem State.cluster_modCore (c k : Nat) (f : Core → Core) : (s.modCore c f).cluster k = s.cluster k := rfl
@[simp] theorem State.cluster_modMe (k : Nat) (f : Core → Core) : (s.modMe f).cluster k = s.cluster k := rfl
@[simp] theorem State.cluster_modDie (d k : Nat) (f : Die → Die) : (s.modDie d f).cluster k = s.cluster k := rfl

@[simp] theorem State.die_modCore (c d : Nat) (f : Core → Core) : (s.modCore c f).die d = s.die d := rfl
@[simp] theorem State.die_modMe (d : Nat) (f : Core → Core) : (s.modMe f).die d = s.die d := rfl
@[simp] theorem State.die_modCluster (k d : Nat) (f : Cluster → Cluster) : (s.modCluster k f).die d = s.die d := rfl

theorem State.die_eq (d : Nat) : s.die d = s.dies[d % 8] := rfl

theorem State.dies_modDie (d : Nat) (f : Die → Die) :
    (s.modDie d f).dies = s.dies.set (d % 8) (f (s.die d)) (Nat.mod_lt d (by decide)) := rfl

@[simp] theorem State.die_modDie_self (d : Nat) (f : Die → Die) : (s.modDie d f).die d = f (s.die d) := by
  simp [State.die_eq, State.dies_modDie]

theorem State.die_modDie_ne (d e : Nat) (f : Die → Die) (h : e % 8 ≠ d % 8) : (s.modDie d f).die e = s.die e := by
  simp [State.die_eq, State.dies_modDie, Ne.symm h]

@[simp] theorem State.modDie_modDie (d : Nat) (f g : Die → Die) : (s.modDie d f).modDie d g = s.modDie d fun x => g (f x) := by
  show ({ s.modDie d f with dies := _ } : State) = _
  simp [State.modDie, State.die_eq]

/-- Updates of different parts of the state, in either order. -/
theorem State.modDie_modCore (c d : Nat) (f : Core → Core) (g : Die → Die) :
    (s.modDie d g).modCore c f = (s.modCore c f).modDie d g := rfl

theorem State.modCluster_modCore (c k : Nat) (f : Core → Core) (g : Cluster → Cluster) :
    (s.modCluster k g).modCore c f = (s.modCore c f).modCluster k g := rfl

theorem State.modCluster_modDie (d k : Nat) (f : Die → Die) (g : Cluster → Cluster) :
    (s.modCluster k g).modDie d f = (s.modDie d f).modCluster k g := rfl
end

end Sys2Proof.Machine
end

