-- ==== Sys2Proof/Laws/Memory.lean ====
section
/-! SUPPORT. Laws/Memory.lean: bytes of a memory: a write is read back, leaves other addresses alone, and keeps the canonical
form; and the same for several bytes at once. -/

namespace Sys2Proof.Machine

/-! ## Canonical form -/

theorem memOk_weaken {lo hi : Nat} {m : Memory} (h : memOk hi m = true) (l : lo ≤ hi) : memOk lo m = true := by
  cases m with
  | nil => rfl
  | cons p t =>
    obtain ⟨j, v⟩ := p
    simp only [memOk, Bool.and_eq_true, decide_eq_true_eq] at h ⊢
    exact ⟨⟨by omega, h.1.2⟩, h.2⟩

/-- Below its lower bound a canonical memory reads as zero. -/
theorem memGet_below {lo a : Nat} {m : Memory} (h : memOk lo m = true) (l : a < lo) : memGet m a = 0 := by
  cases m with
  | nil => rfl
  | cons p t =>
    obtain ⟨j, v⟩ := p
    simp only [memOk, Bool.and_eq_true, decide_eq_true_eq] at h
    simp [memGet, show a < j by omega]

/-- A byte written keeps the canonical form. -/
theorem memOk_memSet {lo a : Nat} {m : Memory} (b : Byte) (h : memOk lo m = true) (l : lo ≤ a) :
    memOk lo (memSet m a b) = true := by
  induction m generalizing lo with
  | nil =>
    by_cases z : b = 0#8
    · simp [memSet, z, memOk]
    · simp [memSet, z, memOk, l]
  | cons p t ih =>
    obtain ⟨j, v⟩ := p
    simp only [memOk, Bool.and_eq_true, decide_eq_true_eq] at h
    obtain ⟨⟨h1, h2⟩, h3⟩ := h
    rcases Nat.lt_trichotomy a j with g | rfl | g
    · by_cases z : b = 0#8
      · simp [memSet, g, z, memOk, h1, h3]; simpa using h2
      · have e : memSet ((j, v) :: t) a b = (a, b) :: (j, v) :: t := by simp [memSet, g, z]
        simp only [e, memOk, Bool.and_eq_true, decide_eq_true_eq]
        exact ⟨⟨l, by simpa using z⟩, ⟨by omega, h2⟩, h3⟩
    · by_cases z : b = 0#8
      · simpa [memSet, z] using memOk_weaken h3 (by omega)
      · have e : memSet ((a, v) :: t) a b = (a, b) :: t := by simp [memSet, z]
        simp only [e, memOk, Bool.and_eq_true, decide_eq_true_eq]
        exact ⟨⟨l, by simpa using z⟩, h3⟩
    · simp only [memSet, Nat.lt_asymm g, Nat.ne_of_gt g, if_false, memOk, Bool.and_eq_true, decide_eq_true_eq]
      exact ⟨⟨h1, h2⟩, ih h3 g⟩

theorem wf_memSet {m : Memory} (a : Nat) (b : Byte) (h : Memory.wf m = true) : Memory.wf (memSet m a b) = true :=
  memOk_memSet b h (Nat.zero_le a)

theorem wf_memSetAll (cells : List (Nat × Byte)) {m : Memory} (h : Memory.wf m = true) :
    Memory.wf (memSetAll m cells) = true := by
  induction cells generalizing m with
  | nil => exact h
  | cons p t ih => exact ih (wf_memSet p.1 p.2 h)

/-! ## Reads after writes -/

theorem memGet_memSet_self {m : Memory} (a : Nat) (b : Byte) {lo : Nat} (h : memOk lo m = true) :
    memGet (memSet m a b) a = b := by
  induction m generalizing lo with
  | nil =>
    by_cases z : b = 0#8
    · simp [memSet, z, memGet]
    · simp [memSet, z, memGet]
  | cons p t ih =>
    obtain ⟨j, v⟩ := p
    simp only [memOk, Bool.and_eq_true, decide_eq_true_eq] at h
    rcases Nat.lt_trichotomy a j with g | rfl | g
    · by_cases z : b = 0#8
      · simp [memSet, g, z, memGet]
      · simp [memSet, g, z, memGet]
    · by_cases z : b = 0#8
      · simp [memSet, z, memGet_below h.2]
      · simp [memSet, z, memGet]
    · simp [memSet, Nat.lt_asymm g, Nat.ne_of_gt g, memGet, ih h.2]

theorem memGet_memSet_ne {m : Memory} (a c : Nat) (b : Byte) {lo : Nat} (h : memOk lo m = true) (ne : c ≠ a) :
    memGet (memSet m a b) c = memGet m c := by
  induction m generalizing lo with
  | nil =>
    by_cases z : b = 0#8
    · simp [memSet, z]
    · simp [memSet, z, memGet, ne]
  | cons p t ih =>
    obtain ⟨j, v⟩ := p
    simp only [memOk, Bool.and_eq_true, decide_eq_true_eq] at h
    rcases Nat.lt_trichotomy a j with g | rfl | g
    · by_cases z : b = 0#8
      · simp [memSet, g, z]
      · rcases Nat.lt_trichotomy c a with k | rfl | k
        · simp [memSet, g, z, memGet, k, show c < j by omega]
        · exact absurd rfl ne
        · simp [memSet, g, z, memGet, Nat.lt_asymm k, ne]
    · have skip : memGet ((a, v) :: t) c = if c < a then 0 else memGet t c := by simp [memGet, ne]
      by_cases z : b = 0#8
      · rw [skip]
        by_cases k : c < a
        · simp [memSet, z, k, memGet_below h.2 (show c < a + 1 by omega)]
        · simp [memSet, z, k]
      · simp [memSet, z, memGet, ne]
    · simp [memSet, Nat.lt_asymm g, Nat.ne_of_gt g, memGet, ih h.2]

/-- Bytes written at other addresses leave an address alone. -/
theorem memGet_memSetAll_out (cells : List (Nat × Byte)) {m : Memory} (h : Memory.wf m = true) (c : Nat)
    (out : ∀ p ∈ cells, p.1 ≠ c) : memGet (memSetAll m cells) c = memGet m c := by
  induction cells generalizing m with
  | nil => rfl
  | cons p t ih =>
    have step := ih (wf_memSet p.1 p.2 h) (fun q hq => out q (by simp [hq]))
    have head := memGet_memSet_ne p.1 c p.2 h (Ne.symm (out p (by simp)))
    show memGet (memSetAll (memSet m p.1 p.2) t) c = _
    rw [step, head]

/-- Bytes written at distinct addresses are read back. -/
theorem memGet_memSetAll_mem (cells : List (Nat × Byte)) {m : Memory} (h : Memory.wf m = true) (p : Nat × Byte)
    (distinct : (cells.map (·.1)).Nodup) (hp : p ∈ cells) : memGet (memSetAll m cells) p.1 = p.2 := by
  induction cells generalizing m with
  | nil => simp at hp
  | cons q t ih =>
    simp only [List.map_cons, List.nodup_cons] at distinct
    show memGet (memSetAll (memSet m q.1 q.2) t) p.1 = _
    rcases List.mem_cons.1 hp with rfl | hp
    · rw [memGet_memSetAll_out t (wf_memSet _ _ h) _
        (fun r hr e => distinct.1 (List.mem_map.2 ⟨r, hr, e⟩))]
      exact memGet_memSet_self _ _ h
    · exact ih (wf_memSet _ _ h) distinct.2 hp

/-! ## Blocks -/

theorem memOk_filter_below (a : Nat) {lo : Nat} {m : Memory} (h : memOk lo m = true) :
    memOk lo (m.filter fun p => decide (p.1 < a)) = true := by
  induction m generalizing lo with
  | nil => rfl
  | cons p t ih =>
    obtain ⟨j, v⟩ := p
    simp only [memOk, Bool.and_eq_true, decide_eq_true_eq] at h
    by_cases g : j < a
    · simp only [List.filter, g, decide_true, memOk, Bool.and_eq_true, decide_eq_true_eq]
      exact ⟨h.1, ih h.2⟩
    · simp only [List.filter, g, decide_false]
      exact memOk_weaken (ih h.2) (by omega)

theorem memOk_filter_above (a : Nat) {lo : Nat} {m : Memory} (h : memOk lo m = true) :
    memOk (max lo a) (m.filter fun p => decide (a ≤ p.1)) = true := by
  induction m generalizing lo with
  | nil => rfl
  | cons p t ih =>
    obtain ⟨j, v⟩ := p
    simp only [memOk, Bool.and_eq_true, decide_eq_true_eq] at h
    by_cases g : a ≤ j
    · simp only [List.filter, g, decide_true, memOk, Bool.and_eq_true, decide_eq_true_eq]
      exact ⟨⟨by omega, h.1.2⟩, memOk_weaken (ih h.2) (by omega)⟩
    · simp only [List.filter, g, decide_false]
      exact memOk_weaken (ih h.2) (by omega)

/-- Two canonical memories one above the other. -/
theorem memOk_append {lo mid : Nat} {m n : Memory} (h : memOk lo m = true) (below : ∀ p ∈ m, p.1 < mid)
    (g : memOk (max lo mid) n = true) : memOk lo (m ++ n) = true := by
  induction m generalizing lo with
  | nil => exact memOk_weaken g (by omega)
  | cons p t ih =>
    obtain ⟨j, v⟩ := p
    simp only [memOk, Bool.and_eq_true, decide_eq_true_eq] at h
    have hj := below (j, v) (by simp)
    simp only [List.cons_append, memOk, Bool.and_eq_true, decide_eq_true_eq]
    refine ⟨h.1, ih h.2 (fun p hp => below p (by simp [hp])) ?_⟩
    exact memOk_weaken g (by simp only at hj; omega)

theorem memOk_bytes (a k : Nat) (l : List Byte) :
    memOk (a + k) (((l.zipIdx k).map fun p => (a + p.2, p.1)).filter fun p => p.2 != 0) = true := by
  induction l generalizing k with
  | nil => rfl
  | cons b t ih =>
    have next := ih (k + 1)
    by_cases z : b = 0#8
    · simp only [List.zipIdx_cons, List.map_cons, List.filter, z]
      exact memOk_weaken next (by omega)
    · have nz : (b != 0) = true := by simpa using z
      simp only [List.zipIdx_cons, List.map_cons, List.filter, nz, memOk, Nat.le_refl, decide_true, Bool.true_and]
      simpa [Nat.add_assoc] using next

/-- A block written keeps the canonical form. -/
theorem wf_memBlock {m : Memory} (a : Nat) (l : List Byte) (h : Memory.wf m = true) : Memory.wf (memBlock m a l) = true := by
  unfold Memory.wf memBlock
  rw [List.append_assoc]
  refine memOk_append (mid := a) (memOk_filter_below a h) (by simp) ?_
  refine memOk_append (mid := a + l.length) ?_ ?_ ?_
  · simpa using memOk_bytes a 0 l
  · intro p hp
    simp only [List.mem_filter, List.mem_map] at hp
    obtain ⟨⟨⟨b, i⟩, hi, rfl⟩, -⟩ := hp
    have := (List.mem_zipIdx hi)
    simp at this ⊢
    omega
  · simpa [Nat.max_comm, Nat.le_add_right] using memOk_filter_above (a + l.length) h

end Sys2Proof.Machine
end

