-- ==== Sys2Proof/Laws/Canonical.lean ====
section
/-! SUPPORT. Laws/Canonical.lean: every operation that writes a memory keeps the canonical form of all the module's memories. -/

namespace Sys2Proof.Machine

theorem wf_memWrite {m : Memory} (a n v : Nat) (h : Memory.wf m = true) : Memory.wf (memWrite m a n v) = true :=
  wf_memSetAll _ h

theorem reset_memCanonical : State.reset.MemCanonical := by
  refine ⟨rfl, ?_, ?_⟩ <;> intro p h <;> cases h

variable {s : State}

theorem State.MemCanonical.cluster (h : s.MemCanonical) (k : Nat) : (s.cluster k).sram.wf = true := by
  obtain ⟨-, h, -⟩ := h
  unfold State.cluster
  generalize s.clusters = m at h
  induction m with
  | nil => rfl
  | cons p t ih =>
    by_cases g : k = p.1
    · simpa [mapGet, g] using h p (by simp)
    · simpa [mapGet, g] using ih fun q hq => h q (by simp [hq])

theorem State.MemCanonical.core (h : s.MemCanonical) (c : Nat) : (s.core c).mem.spad.wf = true := by
  obtain ⟨-, -, h⟩ := h
  unfold State.core
  generalize s.cores = m at h
  induction m with
  | nil => rfl
  | cons p t ih =>
    by_cases g : c = p.1
    · simpa [mapGet, g] using h p (by simp)
    · simpa [mapGet, g] using ih fun q hq => h q (by simp [hq])

/-- A core changed in a way that keeps its scratchpad's form. -/
theorem State.MemCanonical.modCore (h : s.MemCanonical) (c : Nat) (f : Core → Core)
    (k : (s.core c).mem.spad.wf = true → (f (s.core c)).mem.spad.wf = true) : (s.modCore c f).MemCanonical := by
  refine ⟨h.1, h.2.1, fun p hp => ?_⟩
  rcases mem_mapSet (h := hp) with rfl | hp
  · exact k (h.core c)
  · exact h.2.2 p hp

/-- A cluster changed in a way that keeps its SRAM's form. -/
theorem State.MemCanonical.modCluster (h : s.MemCanonical) (j : Nat) (f : Cluster → Cluster)
    (k : (s.cluster j).sram.wf = true → (f (s.cluster j)).sram.wf = true) : (s.modCluster j f).MemCanonical := by
  refine ⟨h.1, fun p hp => ?_, h.2.2⟩
  rcases mem_mapSet (h := hp) with rfl | hp
  · exact k (h.cluster j)
  · exact h.2.1 p hp

theorem State.MemCanonical.spadStore (h : s.MemCanonical) (c : Nat) (cells : List (Nat × Byte)) : (s.spadStore c cells).MemCanonical :=
  h.modCore c _ fun w => by
    simp only [Core.modMem, Local.forget]
    split <;> exact wf_memSetAll cells w

theorem State.MemCanonical.sramStore (h : s.MemCanonical) (k : Nat) (cells : List (Nat × Byte)) : (s.sramStore k cells).MemCanonical :=
  h.modCluster k _ fun w => wf_memSetAll cells w

/-- A write to a line that a weight load reads changes no memory. -/
theorem Core.seen_mem (lo hi : Nat) (x : Core) : (x.seen lo hi).mem = x.mem := by
  unfold Core.seen
  split <;> rfl

theorem State.MemCanonical.lineWritten (h : s.MemCanonical) (who : Option Nat) (line : Nat) : (s.lineWritten who line).MemCanonical := by
  refine ⟨h.1, fun p hp => ?_, fun p hp => ?_⟩
  · obtain ⟨q, hq, rfl⟩ := List.mem_map.1 hp
    exact h.2.1 q hq
  · obtain ⟨q, hq, rfl⟩ := List.mem_map.1 hp
    split <;> simpa [Core.modFlow, Core.seen_mem] using h.2.2 q hq

theorem State.MemCanonical.dropLine (h : s.MemCanonical) (k line : Nat) : (s.dropLine k line).MemCanonical := h.modCluster k _ id

/-- A step of a kind that keeps the form, done for each element of a list. -/
theorem State.MemCanonical.foldl {α : Type} {f : State → α → State}
    (k : ∀ (t : State) (a : α), t.MemCanonical → (f t a).MemCanonical) (l : List α) (h : s.MemCanonical) :
    (l.foldl f s).MemCanonical := by
  induction l generalizing s with
  | nil => exact h
  | cons a t ih => exact ih (k s a h)

/-- Bytes written to HBM at home keep the form of every memory. -/
theorem State.MemCanonical.hbmWrite (h : s.MemCanonical) (who : Option Nat) (pa : Nat) (bytes : List Byte) :
    (s.hbmWrite who pa bytes).MemCanonical := by
  have base (cells : List (Nat × Byte)) (bad : List Nat) :
      ({ s with hbm := memSetAll s.hbm cells, badLines := bad } : State).MemCanonical := ⟨wf_memSetAll cells h.1, h.2.1, h.2.2⟩
  have errs {t : State} (l : List Nat) (k : t.MemCanonical) :
      (l.foldl (fun s l => s.firstAct (.lineError who (l * 128))) t).MemCanonical :=
    .foldl (f := fun s l => s.firstAct (.lineError who (l * 128))) (fun _ _ k => k) l k
  have seen {t : State} (l : List Nat) (k : t.MemCanonical) :
      (l.foldl (fun s l => s.lineWritten who l) t).MemCanonical := .foldl (fun _ l k => k.lineWritten who l) l k
  unfold State.hbmWrite
  split
  · exact h
  · unfold State.hbmStore
    cases who with
    | none => exact seen _ (errs _ (base _ _))
    | some c => exact .foldl (fun _ l k => k.dropLine (clusterOf c) l) _ (seen _ (errs _ (base _ _)))

end Sys2Proof.Machine
end

