-- ==== Sys2Proof/Laws/Issue.lean ====
section
/-! SUPPORT. Laws/Issue.lean: the issue of a bundle by a core that is ready: its checks pass, no freeze holds it, and it completes;
what is then left of each shared operation. -/

namespace Sys2Proof.Machine

/-! ## The header word of zeros -/

/-- The state in which the checks and freezes of word `k` are asked. -/
def State.opening (s : State) (k : Nat) : State :=
  s.modMe fun x => x.modFlow fun f => { f with frozen := none, issue := { tags := x.mem.tags, slot := k } }

/-- The state in which word `k` of an open bundle with no other word is performed. -/
def State.opened (s : State) (k : Nat) : State :=
  s.modMe fun x => x.modFlow fun f => 
    { f with frozen := none, issue := { tags := x.mem.tags, isOpen := true, slot := k, perf := aloneMask k } }

theorem bitsOf_zero (n : Nat) : bitsOf n 0#n = [] := by simp [bitsOf]

theorem Core.popOk_zero (x : Core) : x.popOk 0#8 = true := by simp [Core.popOk, bitsOf_zero]

@[simp] theorem Head.sem_head (h : Head) : h.sem.head = some h := rfl
@[simp] theorem Head.sem_check (h : Head) : h.sem.check = h.check := rfl
@[simp] theorem Head.sem_reach (h : Head) : h.sem.reach = h.reach := rfl
@[simp] theorem Head.sem_wait (h : Head) : h.sem.wait = h.wait := rfl
@[simp] theorem Head.sem_request (h : Head) : h.sem.request = fun s => (s, none) := rfl
@[simp] theorem Head.sem_entries (h : Head) : h.sem.entries = fun _ => 0 := rfl
@[simp] theorem Head.sem_tokens (h : Head) : h.sem.tokens = fun _ => 0 := rfl
@[simp] theorem Head.sem_pushes (h : Head) : h.sem.pushes = [] := rfl
@[simp] theorem Head.sem_act (h : Head) : h.sem.act = h.act := rfl

theorem State.lockstep_modMe (s : State) (f : Core → Core) (c : Nat) : (s.modMe f).lockstep c = s.lockstep c := rfl

theorem Head.check_plain (s : State) (h : s.lockstep s.cur = none) : ({} : Head).check s = none := by
  simp [Head.check, Core.popOk_zero, h]

/-! ## Reaching issue -/

/-- What must hold of the semantics of word `k` for it to issue alone at once. -/
structure SlotSem.Clear (sem : SlotSem) (k : Nat) (s : State) : Prop where
  check : sem.check (s.opening k) = none
  reach : sem.reach (s.opening k) = s.opening k
  wait : sem.wait (s.opening k) = none
  request : sem.request (s.opening k) = (s.opening k, none)
  entries : sem.entries (s.opening k) = 0 ∨ s.me.buffered + sem.entries (s.opening k) ≤ 64
  pushes : fullStream s.me sem.pushes = none
  tokens : min (sem.tokens (s.opening k)) (s.die (dieOf s.cur)).grant.cap ≤ s.me.ctl.bal

theorem State.atSlot_opening (s : State) (j k : Nat) : (s.opening j).atSlot k = s.opening k := by
  simp [State.opening, State.atSlot, Core.modIssue, Core.modFlow]

theorem State.opening_ready {s : State} (h : s.Ready) (k : Nat) :
    (s.opening k).me.flow.carry = {} ∧ (s.opening k).me.mem = s.me.mem ∧ (s.opening k).me.ctl = s.me.ctl ∧
      (s.opening k).me.buffered = s.me.buffered ∧ (s.opening k).cur = s.cur ∧ (s.opening k).lockstep s.cur = none := by
  refine ⟨?_, ?_, ?_, ?_, rfl, h.lockstep⟩ <;> simp [State.opening, h.carry, Core.buffered, Core.modFlow]

theorem bundleCheck_ready {s : State} (h : s.Ready) {sem : SlotSem} {k : Nat} (c : sem.Clear k s) (j : Nat) :
    bundleCheck [(0, ({} : Head).sem), (k, sem)] (s.opening j) = none := by
  have r := State.opening_ready h 0
  have hc : ({} : Head).check (s.opening 0) = none := Head.check_plain _ r.2.2.2.2.2
  have hb := (State.opening_ready h j).2.2.2.1
  unfold bundleCheck
  simp only [List.findSome?, State.atSlot_opening, Head.sem_check, Head.sem_entries, hc, c.check, Option.map_none, List.map, List.sum_cons,
    List.sum_nil, hb]
  rcases c.entries with e | e
  · simp [e]
  · rw [if_neg]
    simp; omega

theorem fullStream_congr {x y : Core} (h : x.mem = y.mem) (l : List (BitVec 3)) : fullStream x l = fullStream y l := by
  simp [fullStream, Core.stream?, h]

theorem bundleWait_ready {s : State} (h : s.Ready) {sem : SlotSem} {k : Nat} (c : sem.Clear k s) (j : Nat) :
    bundleWait [(0, ({} : Head).sem), (k, sem)] (s.opening j) = none := by
  obtain ⟨h1, h2, h3, -, h5, -⟩ := State.opening_ready h j
  have hd : (s.opening j).die (dieOf (s.opening j).cur) = s.die (dieOf s.cur) := rfl
  have hcost : bundleCost [(0, ({} : Head).sem), (k, sem)] (s.opening j) = sem.tokens (s.opening k) := by
    simp [bundleCost, State.atSlot_opening, h1]
  have hw : ({} : Head).wait (s.opening 0) = none := rfl
  have hp : fullStream (s.opening j).me sem.pushes = none := (fullStream_congr h2 _).trans c.pushes
  simp only [bundleWait, List.findSome?, State.atSlot_opening, Head.sem_wait, Head.sem_pushes, hw, c.wait, List.flatMap_cons, List.flatMap_nil,
    List.nil_append, List.append_nil, hp]
  rw [hcost, hd, h3]
  have := c.tokens
  rw [if_neg (by omega)]

theorem sendRequests_ready {s : State} (h : s.Ready) {sem : SlotSem} {k : Nat} (c : sem.Clear k s) (j : Nat) :
    sendRequests [(0, ({} : Head).sem), (k, sem)] (s.opening j) = s.opening k := by
  have cn (i : Nat) : (s.opening i).me.mem.cn = [] := by rw [(State.opening_ready h i).2.1, h.verdicts]
  simp [sendRequests, State.atSlot_opening, c.request, cn]

/-- A core that is ready issues a bundle whose only word is clear to go. -/
theorem State.issueAlone_ready {s : State} (h : s.Ready) {sem : SlotSem} {k : Nat} (hk : k ≠ 0) (c : sem.Clear k s) : s.issueAlone k sem = ((s.opened k).performSlot k sem).closeBundle := by
  have e0 : (s.modMe fun x => x.modFlow fun f => { f with frozen := none, issue := { head := {}, tags := x.mem.tags } }) = s.opening 0 := rfl
  have hcn : (s.opening k).me.mem.cn = [] := by rw [(State.opening_ready h k).2.1, h.verdicts]
  have fin : ((s.opening k).modMe fun x => x.modIssue fun i => { i with isOpen := true, perf := aloneMask k }) = s.opened k := by
    simp [State.opening, State.opened, Core.modIssue, Core.modFlow]
  unfold State.issueAlone State.reachIssue
  simp only [hk, if_false, List.findSome?, Head.sem_head, Option.getD_some]
  rw [e0, bundleCheck_ready h c]
  simp only [List.foldl, State.atSlot_opening]
  rw [show ({} : Head).sem.reach (s.opening 0) = s.opening 0 from rfl, State.atSlot_opening, c.reach, bundleWait_ready h c]
  simp only [sendRequests_ready h c, hcn, List.any_nil, Bool.false_eq_true, if_false, fin]

theorem runSlot_ready {s : State} (h : s.Ready) {sem : SlotSem} {k : Nat} (hk : k ≠ 0) (c : sem.Clear k s) : runSlot k sem s = ((s.opened k).performSlot k sem).closeBundle := by
  simp only [runSlot, h.closed, Bool.false_eq_true, if_false]
  exact State.issueAlone_ready h hk c

/-! ## Performing a slot -/

/-- What is kept of a core at the end of a bundle that asks for nothing more: its results are under way, and it goes on. -/
def Core.finish (x : Core) : Core := (x.modFlow fun f => { f with pending := agePending f.pending }).retired

theorem nextBundle_plain (p : Pc) (loops : Vector Loop 4) (lc : Vector Word 4) (h : ∀ i : Fin 4, (loops.get i).act = false) :
    nextBundle p {} loops lc = (p + 1, ⟨none, loops, lc⟩, false) := by
  have e : ∀ i : Fin 4, loopLevel p ⟨none, loops, lc⟩ i = ⟨none, loops, lc⟩ := fun i => by simp [loopLevel, h i]
  simp [nextBundle, e]

theorem Core.endFlow_plain (x : Core) (h : ∀ i : Fin 4, (x.flow.loops.get i).act = false) (cn : x.mem.cn = [])
    (hb : x.flow.issue.banks = []) (hr : x.flow.issue.rowBanks = []) (hu : x.flow.issue.sharedUse = false) :
    (x.modCtl fun t => t.endLock {}).endFlow {} = x.finish := by
  have e : x.mem = { x.mem with cn := [] } := by rw [← cn]
  simp only [Core.endFlow, Core.finish, Core.retired, Core.modCtl, Core.modFlow, Counters.issued, hb, hr, hu]
  rw [nextBundle_plain _ _ _ h]
  simp only [Bool.not_false]
  rw [← e]
  rfl

theorem Core.endStreams_plain (x : Core) : x.endStreams {} {} = x := by
  simp [Core.endStreams, bitsOf_zero]

/-- The end of a bundle whose words have left nothing for it. -/
theorem State.completeBundle_plain {s : State} (hh : s.me.flow.issue.head = {}) (hc : s.me.flow.carry = {})
    (hl : ∀ i : Fin 4, (s.me.flow.loops.get i).act = false) (hcn : s.me.mem.cn = []) (hb : s.me.flow.issue.banks = [])
    (hr : s.me.flow.issue.rowBanks = []) (hu : s.me.flow.issue.sharedUse = false) :
    s.completeBundle = (s.modMe Core.finish).landDue s.cur := by
  have e : ((s.me.endStreams {} {}).enterFences []).modCtl
      (fun t => ({ t with bal := t.bal - min 0 (s.die (dieOf s.cur)).grant.cap } : Ctl).endLock {}) =
        s.me.modCtl fun t => t.endLock {} := by
    rw [Core.endStreams_plain]
    simp only [Core.enterFences, List.foldl, Nat.zero_min, Nat.sub_zero]
  unfold State.completeBundle
  simp only [hh, hc]
  have m : (s.modMe fun x =>
      (((x.endStreams {} {}).enterFences []).modCtl fun t =>
        ({ t with bal := t.bal - min 0 (s.die (dieOf s.cur)).grant.cap } : Ctl).endLock {}).endFlow {}) = s.modMe Core.finish := by
    refine State.modMe_congr _ _ _ ?_
    rw [e, Core.endFlow_plain _ hl hcn hb hr hu]
  simp only [m]
  simp

/-- What a slot may leave for a bundle to be quiet: a state whose core has no fault, store or stream row noted and nothing for
the end of the bundle. -/
structure State.Quiet (s t : State) : Prop where
  cur : t.cur = s.cur
  phase : ∀ p ∈ (t.die (dieOf s.cur)).phase, p.ending = false
  head : t.me.flow.issue.head = {}
  faults : t.me.flow.issue.faults = []
  stores : t.me.flow.issue.stores = []
  pushes : t.me.flow.issue.pushes = []
  carry : t.me.flow.carry = {}
  loops : ∀ i : Fin 4, (t.me.flow.loops.get i).act = false
  verdicts : t.me.mem.cn = []
  banks : t.me.flow.issue.banks = []
  rows : t.me.flow.issue.rowBanks = []
  shared : t.me.flow.issue.sharedUse = false

theorem State.Quiet.opened {s : State} (h : s.Ready) (k : Nat) : s.Quiet (s.opened k) := by
  refine ⟨rfl, h.phase, ?_, ?_, ?_, ?_, ?_, ?_, ?_, ?_, ?_, ?_⟩ <;> simp [State.opened, Core.modFlow, h.carry, h.verdicts]
  exact h.loops

/-- A quiet bundle: after its only word has performed, its core goes on and what is due lands. -/
theorem runSlot_quiet {s t : State} (h : s.Ready) {sem : SlotSem} {k : Nat} (hk : k ≠ 0) (c : sem.Clear k s)
    (free : sem.tokens (s.opened k) = 0) (hact : sem.act (s.opened k) = (t, none)) (q : s.Quiet t) :
    runSlot k sem s = (t.modMe Core.finish).landDue s.cur := by
  have hs : (s.opened k).atSlot k = s.opened k := by simp [State.opened, State.atSlot, Core.modIssue, Core.modFlow]
  rw [runSlot_ready h hk c]
  have e : (s.opened k).performSlot k sem = t.modMe fun x =>
      (x.modIssue fun i => { i with perf := i.perf ||| (1#8 <<< k) }).modFlow (·.addCost 0) := by
    simp only [State.performSlot, hs, hact, free, hk, if_false]
  rw [e]
  generalize hu : (t.modMe fun x =>
      (x.modIssue fun i => { i with perf := i.perf ||| (1#8 <<< k) }).modFlow (·.addCost 0)) = u
  have me : u.me = (t.me.modIssue fun i => { i with perf := i.perf ||| (1#8 <<< k) }).modFlow (·.addCost 0) := by
    rw [← hu, State.me_modMe]
  have carry : u.me.flow.carry = {} := by rw [me]; simp [Flow.addCost, q.carry]
  have r : u.modMe (fun x => x.reserve []) = u := by
    rw [← hu, State.modMe_modMe]; rfl
  unfold State.closeBundle
  have hf : u.me.flow.issue.faults = [] := by rw [me]; simp [q.faults, Core.modFlow, Flow.addCost]
  have hst : u.me.flow.issue.stores = [] := by rw [me]; simp [q.stores, Core.modFlow, Flow.addCost]
  have hp : u.me.flow.issue.pushes = [] := by rw [me]; simp [q.pushes, Core.modFlow, Flow.addCost]
  have hh : u.me.flow.issue.head = {} := by rw [me]; simp [q.head, Core.modFlow, Flow.addCost]
  have hl : ∀ i : Fin 4, (u.me.flow.loops.get i).act = false := by rw [me]; exact q.loops
  have hcn : u.me.mem.cn = [] := by rw [me]; exact q.verdicts
  have hcur : u.cur = s.cur := by rw [← hu]; exact q.cur
  have hb : u.me.flow.issue.banks = [] := by rw [me]; simp [q.banks, Core.modFlow, Flow.addCost]
  have hr : u.me.flow.issue.rowBanks = [] := by rw [me]; simp [q.rows, Core.modFlow, Flow.addCost]
  have hsh : u.me.flow.issue.sharedUse = false := by rw [me]; simp [q.shared, Core.modFlow, Flow.addCost]
  simp only [hf, hst, hp, State.applyStores, List.foldl, r]
  rw [State.completeBundle_plain hh carry hl hcn hb hr hsh, hcur]
  congr 1
  rw [← hu, State.modMe_modMe]
  refine State.modMe_congr _ _ _ ?_
  simp [Core.finish, Core.retired, Core.modFlow, Core.modIssue, Flow.addCost]

/-! ## A bundle that leaves something for its end -/

/-- What the end of a bundle makes of its core when `c` was left for it, but for fences, a return, a halt and a trap. -/
def Core.conclude (x : Core) (c : Carry) (cap : Nat) : Core :=
  ((x.endStreams {} c).modCtl fun t => ({ t with bal := t.bal - min c.cost cap } : Ctl).endLock {}).endFlow c

theorem Core.endStreams_keep (x : Core) (c : Carry) (ht : c.take = none) (hb : c.binds = []) : x.endStreams {} c = x := by
  simp [Core.endStreams, bitsOf_zero, ht, hb]

/-- The core that `conclude` makes when no stream changes. -/
theorem Core.conclude_keep (x : Core) (c : Carry) (cap : Nat) (ht : c.take = none) (hb : c.binds = []) :
    x.conclude c cap =
      { x with
        regs := { x.regs with lc := (nextBundle x.flow.pc c x.flow.loops x.regs.lc).2.1.lc }
        ctl := ({ x.ctl with bal := x.ctl.bal - min c.cost cap } : Ctl).endLock {}
        flow :=
          { x.flow with pc := (nextBundle x.flow.pc c x.flow.loops x.regs.lc).1
                        loops := (nextBundle x.flow.pc c x.flow.loops x.regs.lc).2.1.loops
                        count := x.flow.count + 1, pending := agePending x.flow.pending, carry := {}, issue := {}, frozen := none
                        synced := false, redo := 0, bun := x.flow.bun + 1
                        fetched := !(nextBundle x.flow.pc c x.flow.loops x.regs.lc).2.2
                        sleepWoken := none, sleepArmed := false, sleepFault := none, monitor := none, arrived := none
                        power := none, leased := false, restarted := false, words := [] }
        mem := { x.mem with cn := [] }
        perf := x.perf.issued x.flow.issue } := by
  rw [Core.conclude, Core.endStreams_keep x c ht hb]
  rfl

theorem State.completeBundle_carry {s : State} {c : Carry} (hh : s.me.flow.issue.head = {}) (hc : s.me.flow.carry = c)
    (hf : c.fences = []) (he : c.eret = false) (hl : c.halt = false) (ha : c.after = none) :
    s.completeBundle = (s.modMe (·.conclude c (s.die (dieOf s.cur)).grant.cap)).landDue s.cur := by
  unfold State.completeBundle
  simp only [hh, hc, hf, he, hl, ha, Core.enterFences, List.foldl, List.isEmpty_nil, if_true, Bool.false_eq_true, if_false]
  rfl

/-- A bundle ends: after its only word has performed without a fault, its local stores and stream rows follow. -/
theorem runSlot_close {s t : State} (h : s.Ready) {sem : SlotSem} {k : Nat} (hk : k ≠ 0) (c : sem.Clear k s)
    (hact : sem.act (s.opened k) = (t, none)) (hf : t.me.flow.issue.faults = []) :
    runSlot k sem s =
      (((t.modMe fun x => (x.modIssue fun i => { i with perf := i.perf ||| (1#8 <<< k) }).modFlow
        (·.addCost (sem.tokens (s.opened k)))).applyStores t.me.flow.issue.stores).modMe
          fun x => x.reserve t.me.flow.issue.pushes).completeBundle := by
  have hs : (s.opened k).atSlot k = s.opened k := by simp [State.opened, State.atSlot, Core.modIssue, Core.modFlow]
  rw [runSlot_ready h hk c]
  have e : (s.opened k).performSlot k sem = t.modMe fun x =>
      (x.modIssue fun i => { i with perf := i.perf ||| (1#8 <<< k) }).modFlow (·.addCost (sem.tokens (s.opened k))) := by
    simp only [State.performSlot, hs, hact, hk, if_false]
  rw [e]
  simp only [State.closeBundle, State.me_modMe, Core.modIssue, Core.modFlow, Flow.addCost, hf]

/-- A bundle whose only word asks for something at its end, changes no stream and writes no local memory. -/
theorem runSlot_carry {s t : State} (h : s.Ready) {sem : SlotSem} {k : Nat} (hk : k ≠ 0) (cl : sem.Clear k s) {c : Carry}
    (hact : sem.act (s.opened k) = (t, none)) (hcur : t.cur = s.cur) (hi : t.me.flow.issue = (s.opened k).me.flow.issue)
    (hc : { t.me.flow.carry with cost := t.me.flow.carry.cost + sem.tokens (s.opened k) } = c)
    (ht : c.take = none) (hb : c.binds = []) (hf : c.fences = []) (he : c.eret = false) (hl : c.halt = false)
    (ha : c.after = none) :
    runSlot k sem s = (t.modMe (·.conclude c (t.die (dieOf s.cur)).grant.cap)).landDue s.cur := by
  have i' : t.me.flow.issue = { tags := s.me.mem.tags, isOpen := true, slot := k, perf := aloneMask k } := by
    rw [hi]; simp [State.opened]
  have st : t.me.flow.issue.stores = [] := by rw [i']
  have pu : t.me.flow.issue.pushes = [] := by rw [i']
  rw [runSlot_close h hk cl hact (by rw [i'])]
  simp only [st, pu, State.applyStores, List.foldl, State.modMe_modMe, Core.reserve]
  rw [State.completeBundle_carry (c := c) (by simp [i', Core.modFlow, Flow.addCost]) (by simpa [Core.modFlow, Flow.addCost] using hc)
    hf he hl ha]
  simp only [State.modMe_modMe, State.modMe_cur, hcur, State.die_modMe]
  congr 1
  refine State.modMe_congr _ _ _ ?_
  rw [Core.conclude_keep _ _ _ ht hb, Core.conclude_keep _ _ _ ht hb]
  rfl

/-- A word faults: the core takes the trap, with no word of the bundle counted as performed but the empty ones (R401, R404). -/
theorem runSlot_fault {s t : State} (h : s.Ready) {sem : SlotSem} {k : Nat} (hk : k ≠ 0) (c : sem.Clear k s) {e : Trap}
    (hact : sem.act (s.opened k) = (t, some e)) (hi : t.me.flow.issue = (s.opened k).me.flow.issue) :
    runSlot k sem s =
      ((t.modMe fun x => x.modIssue fun i => { i with faults := i.faults ++ [(k, e)] }).modMe fun x => x.reserve []).enterTrap
        t.cur k e t.me.flow.trapPc
        (((aloneMask k).setWidth 16 &&& 0xFE) ||| faultedBits [(k, e)] ||| (if t.me.flow.synced then 1 else 0)) := by
  have hs : (s.opened k).atSlot k = s.opened k := by simp [State.opened, State.atSlot, Core.modIssue, Core.modFlow]
  rw [runSlot_ready h hk c]
  have e' : (s.opened k).performSlot k sem = t.modMe fun x => x.modIssue fun i => { i with faults := i.faults ++ [(k, e)] } := by
    simp only [State.performSlot, hs, hact]
  have i' : t.me.flow.issue = { tags := s.me.mem.tags, isOpen := true, slot := k, perf := aloneMask k } := by
    rw [hi]; simp [State.opened]
  rw [e']
  simp only [State.closeBundle, State.me_modMe, Core.modIssue, Core.modFlow, i', State.applyStores, List.foldl, List.nil_append,
    hk, if_false, Flow.trapPc]
  rfl

end Sys2Proof.Machine
end

