-- ==== Sys2Proof/Laws/Results.lean ====
section
/-! SUPPORT. Laws/Results.lean: a bundle whose only word leaves results or changes its core: what the state then is. -/

namespace Sys2Proof.Machine

/-! ## The opened state reads as the state itself -/

section
variable (s : State) (k : Nat)

@[simp] theorem State.opened_regs : (s.opened k).me.regs = s.me.regs := by simp [State.opened]
@[simp] theorem State.opened_ctl : (s.opened k).me.ctl = s.me.ctl := by simp [State.opened]
@[simp] theorem State.opened_mem : (s.opened k).me.mem = s.me.mem := by simp [State.opened]
@[simp] theorem State.opened_mat : (s.opened k).me.mat = s.me.mat := by simp [State.opened]
@[simp] theorem State.opened_run : (s.opened k).me.run = s.me.run := by simp [State.opened]
@[simp] theorem State.opened_perf : (s.opened k).me.perf = s.me.perf := by simp [State.opened]
@[simp] theorem State.opened_pc : (s.opened k).me.flow.pc = s.me.flow.pc := by simp [State.opened]
@[simp] theorem State.opened_count : (s.opened k).me.flow.count = s.me.flow.count := by simp [State.opened]
@[simp] theorem State.opened_bun : (s.opened k).me.flow.bun = s.me.flow.bun := by simp [State.opened]
@[simp] theorem State.opened_slot : (s.opened k).me.flow.issue.slot = k := by simp [State.opened]
@[simp] theorem State.opened_cur : (s.opened k).cur = s.cur := rfl
@[simp] theorem State.opened_now : (s.opened k).now = s.now := rfl
@[simp] theorem State.opened_calendar : (s.opened k).calendar = s.calendar := rfl
@[simp] theorem State.opened_domMod : (s.opened k).domMod = s.domMod := rfl
@[simp] theorem State.opened_die (d : Nat) : (s.opened k).die d = s.die d := rfl
@[simp] theorem State.opened_cluster (c : Nat) : (s.opened k).cluster c = s.cluster c := rfl
@[simp] theorem State.opened_sReg (n : BitVec 5) : (s.opened k).sReg n = s.sReg n := by simp [State.sReg]
@[simp] theorem State.opened_aReg (n : BitVec 4) : (s.opened k).aReg n = s.aReg n := by simp [State.aReg]

@[simp] theorem State.opening_regs : (s.opening k).me.regs = s.me.regs := by simp [State.opening]
@[simp] theorem State.opening_ctl : (s.opening k).me.ctl = s.me.ctl := by simp [State.opening]
@[simp] theorem State.opening_mem : (s.opening k).me.mem = s.me.mem := by simp [State.opening]
@[simp] theorem State.opening_mat : (s.opening k).me.mat = s.me.mat := by simp [State.opening]
@[simp] theorem State.opening_run : (s.opening k).me.run = s.me.run := by simp [State.opening]
@[simp] theorem State.opening_slot : (s.opening k).me.flow.issue.slot = k := by simp [State.opening]
@[simp] theorem State.opening_pending : (s.opening k).me.flow.pending = s.me.flow.pending := by simp [State.opening]
@[simp] theorem State.opening_cur : (s.opening k).cur = s.cur := rfl
@[simp] theorem State.opening_now : (s.opening k).now = s.now := rfl
@[simp] theorem State.opening_calendar : (s.opening k).calendar = s.calendar := rfl
@[simp] theorem State.opening_die (d : Nat) : (s.opening k).die d = s.die d := rfl
@[simp] theorem State.opening_cluster (c : Nat) : (s.opening k).cluster c = s.cluster c := rfl
@[simp] theorem State.opening_sReg (n : BitVec 5) : (s.opening k).sReg n = s.sReg n := by simp [State.sReg]
@[simp] theorem State.opening_aReg (n : BitVec 4) : (s.opening k).aReg n = s.aReg n := by simp [State.aReg]
end

theorem fullStream_nil (x : Core) : fullStream x [] = none := rfl

/-- A slot that only leaves a result is always clear to issue. -/
theorem SlotSem.Clear.of_result (f : State → State) (k : Nat) (s : State) : (SlotSem.result f).Clear k s :=
  ⟨rfl, rfl, rfl, rfl, .inl rfl, rfl, by simp [SlotSem.result]⟩

/-! ## Results on their way -/

/-- The bundle's word changes its core by `g`, which leaves the record of the bundle alone, and leaves no more. -/
theorem runSlot_core {s : State} (h : s.Ready) {sem : SlotSem} {k : Nat} (hk : k ≠ 0) (c : sem.Clear k s)
    (free : sem.tokens (s.opened k) = 0) {g : Core → Core}
    (hact : sem.act (s.opened k) = ((s.opened k).modMe g, none)) (q : s.Quiet ((s.opened k).modMe g)) :
    runSlot k sem s = (((s.opened k).modMe g).modMe Core.finish).landDue s.cur :=
  runSlot_quiet h hk c free hact q

theorem agePending_young (p : Pending) (h : p.young = true) : agePending [p] = [{ p with young := false, left := p.left - 1 }] := by
  simp [agePending, sortBy, insertBy, h]

/-- A bundle whose only word leaves one result: it is under way, and lands if it is due. -/
theorem runSlot_pend {s : State} (h : s.Ready) {sem : SlotSem} {k : Nat} (hk : k ≠ 0) (c : sem.Clear k s)
    (free : sem.tokens (s.opened k) = 0) (left : Nat) (r : Result)
    (hact : sem.act (s.opened k) = ((s.opened k).pend left r, none)) :
    runSlot k sem s = (s.modMe fun x => x.retired.awaiting k (left - 1) r).landDue s.cur := by
  have q0 := State.Quiet.opened h k
  have q : s.Quiet ((s.opened k).pend left r) := by
    constructor <;> simp only [State.pend, State.modMe_cur, State.me_modMe, Core.modFlow, q0.head, q0.faults, q0.stores,
      q0.pushes, q0.carry, q0.verdicts, q0.banks, q0.rows, q0.shared]
    · rfl
    · exact q0.phase
    · exact q0.loops
  rw [runSlot_quiet h hk c free hact q]
  congr 1
  simp only [State.pend, State.opened, State.modMe_modMe]
  refine State.modMe_congr _ _ _ ?_
  simp only [Core.finish, Core.retired, Core.awaiting, Core.modFlow, h.pending, List.nil_append, Nat.add_sub_cancel]
  rw [agePending_young _ rfl]

/-- Whether a result goes to a write stream. -/
def Result.isPush : Result → Bool
  | .row (.stream _) _ _ _ => true
  | _ => false

/-- What lands in a core whose only pending result is due, and goes to no stream. -/
theorem State.landDue_now {s : State} {f : Core → Core} {k : Nat} {r : Result} (h : (f s.me).flow.pending = []) (hr : r.isPush = false) :
    (s.modMe fun x => (f x).awaiting k 0 r).landDue s.cur = (s.modMe f).landResult s.cur r := by
  generalize hp : ({ left := 0, res := r, young := false, slot := k, bun := (f s.me).flow.bun - 1 } : Pending) = p
  have e : ((s.modMe fun x => (f x).awaiting k 0 r).core s.cur).flow.pending = [p] := by
    rw [State.core_modMe, ← hp]; simp [Core.awaiting, Core.modFlow, h]
  have st : p.stream? = none := by
    rw [← hp]; unfold Pending.stream?; simp only; split <;> simp_all [Result.isPush]
  have np : p.isPush = false := by
    rw [← hp]; unfold Pending.isPush; simp only; split <;> simp_all [Result.isPush]
  have nt : p.toStream = false := by
    rw [← hp]; unfold Pending.toStream; simp only; split <;> simp_all [Result.isPush]
  have wait (x : Core) : x.pushWaits p = false := by simp [Core.pushWaits, st]
  have due : p.due = true := by rw [← hp]; rfl
  have arr : p.arrived = true := by rw [← hp]; rfl
  have res : p.res = r := by rw [← hp]
  simp only [State.landDue, e, landSplit, due, arr, wait, res, List.any_nil, Bool.not_false, Bool.and_self, Bool.not_true,
    Bool.false_eq_true, if_false, if_true]
  simp only [State.landResults, List.foldl, np, nt, Bool.false_eq_true, if_false, res, pushOrder, List.filter, sortBy]
  congr 1
  rw [State.modMe_modCore]
  refine State.modMe_congr _ _ _ ?_
  simp [Core.awaiting, Core.modFlow, h]
  rw [← h]

/-- Nothing lands in a core whose only pending result is not due. -/
theorem State.landDue_later {s : State} {f : Core → Core} {k n : Nat} {r : Result} (h : (f s.me).flow.pending = []) (hn : 0 < n) :
    (s.modMe fun x => (f x).awaiting k n r).landDue s.cur = s.modMe fun x => (f x).awaiting k n r := by
  have e : ((s.modMe fun x => (f x).awaiting k n r).core s.cur).flow.pending =
      [{ left := n, res := r, young := false, slot := k, bun := (f s.me).flow.bun - 1 }] := by
    rw [State.core_modMe]; simp [Core.awaiting, Core.modFlow, h]
  have d : (n == 0) = false := by simp; omega
  simp only [State.landDue, e, landSplit, Pending.due, d, Bool.false_and, Bool.not_false, if_true, State.landResults, pushOrder, List.filter,
    sortBy, List.foldl]
  rw [State.modMe_modCore]
  refine State.modMe_congr _ _ _ ?_
  simp [Core.awaiting, Core.modFlow, h]

/-- Nothing lands in a core with nothing pending. -/
theorem State.landDue_none {s : State} {f : Core → Core} (h : (f s.me).flow.pending = []) :
    (s.modMe f).landDue s.cur = s.modMe f := by
  have e : ((s.modMe f).core s.cur).flow.pending = [] := by rw [State.core_modMe]; exact h
  simp only [State.landDue, e, landSplit, State.landResults, pushOrder, List.filter, sortBy, List.foldl]
  rw [State.modMe_modCore]
  refine State.modMe_congr _ _ _ ?_
  simp only [Core.modFlow]
  rw [← h]

/-! ## Results by kind, of latency 1 and longer -/

section
variable {s : State} {sem : SlotSem} {k : Nat}

theorem retired_pending (h : s.Ready) : s.me.retired.flow.pending = [] := h.pending

theorem runSlot_pend_late (h : s.Ready) (hk : k ≠ 0) (c : sem.Clear k s) (free : sem.tokens (s.opened k) = 0) (n : Nat)
    (r : Result) (hact : sem.act (s.opened k) = ((s.opened k).pend (n + 2) r, none)) :
    runSlot k sem s = s.modMe fun x => x.retired.awaiting k (n + 1) r := by
  rw [runSlot_pend h hk c free _ _ hact]
  exact State.landDue_later (f := Core.retired) (retired_pending h) (by omega)

theorem runSlot_pend_one (h : s.Ready) (hk : k ≠ 0) (c : sem.Clear k s) (free : sem.tokens (s.opened k) = 0)
    (r : Result) (hr : r.isPush = false) (hact : sem.act (s.opened k) = ((s.opened k).pend 1 r, none)) :
    runSlot k sem s = (s.modMe Core.retired).landResult s.cur r := by
  rw [runSlot_pend h hk c free _ _ hact]
  exact State.landDue_now (f := Core.retired) (retired_pending h) hr

theorem landResult_scalar (f : Core → Core) (d : BitVec 5) (v : Word) :
    (s.modMe f).landResult s.cur (.scalar d true v) = s.modMe fun x => (f x).modRegs (·.scalar d v) := by
  simp only [State.landResult, State.modMe_modCore]
  rfl

/-- A result of the S slot, of latency 1. -/
theorem runSlot_scalar (h : s.Ready) (hk : k ≠ 0) (c : sem.Clear k s) (free : sem.tokens (s.opened k) = 0) (d : BitVec 5)
    (v : Word) (hact : sem.act (s.opened k) = ((s.opened k).scalarResult 1 d v, none)) :
    runSlot k sem s = s.modMe fun x => x.retired.modRegs (·.scalar d v) := by
  rw [runSlot_pend_one h hk c free _ rfl hact, landResult_scalar]
end

/-! ## Meanings of the S slot that only leave a result -/

section
variable {s : State}

theorem inSlot_scalarNow (h : s.Ready) (d : BitVec 5) (v : Word) (f : State → State)
    (hf : f (s.opened 1) = (s.opened 1).scalarResult 1 d v) : inSlot 1 (.result f) s = .next (s.scalarNow d v) := by
  unfold inSlot
  rw [runSlot_scalar h (by decide) (SlotSem.Clear.of_result f 1 s) rfl d v (by simp [SlotSem.result, hf])]
  rfl

theorem inSlot_scalarLater (h : s.Ready) (n : Nat) (d : BitVec 5) (v : Word) (f : State → State)
    (hf : f (s.opened 1) = (s.opened 1).scalarResult (n + 2) d v) :
    inSlot 1 (.result f) s = .next (s.scalarLater (n + 1) d v) := by
  unfold inSlot
  rw [runSlot_pend_late h (by decide) (SlotSem.Clear.of_result f 1 s) rfl n _ (by simp [SlotSem.result, hf]; rfl)]
  rfl

/-- A bundle whose word changes nothing. -/
theorem inSlot_nothing (h : s.Ready) {sem : SlotSem} {k : Nat} (hk : k ≠ 0) (c : sem.Clear k s)
    (free : sem.tokens (s.opened k) = 0) (hact : sem.act (s.opened k) = (s.opened k, none)) :
    inSlot k sem s = .next (s.modMe Core.retired) := by
  unfold inSlot
  rw [runSlot_quiet h hk c free hact (State.Quiet.opened h k)]
  have e : (s.opened k).modMe Core.finish = s.modMe Core.retired := by
    simp only [State.opened, State.modMe_modMe]
    refine State.modMe_congr _ _ _ ?_
    simp only [Core.finish, Core.retired, Core.modFlow, h.pending]
    rfl
  rw [e, State.landDue_none (f := Core.retired) (retired_pending h)]
end

/-! ## A bundle that leaves for another address -/

theorem nextBundle_target (p t : Pc) (c : Carry) (loops : Vector Loop 4) (lc : Vector Word 4) (hc : c.target = some t)
    (hl : c.loop = none) : nextBundle p c loops lc = (t, ⟨none, loops, lc⟩, true) := by
  simp [nextBundle, hc, hl]

/-- A bundle whose only word asks for another address. -/
theorem runSlot_target {s : State} (h : s.Ready) {sem : SlotSem} {k : Nat} (hk : k ≠ 0) (c : sem.Clear k s)
    (free : sem.tokens (s.opened k) = 0) (t : Pc) (hact : sem.act (s.opened k) = ((s.opened k).goTo t, none)) :
    runSlot k sem s = s.modMe (·.retiredTo t) := by
  have hc : (s.opened k).me.flow.carry = {} := by simp [State.opened, Core.modFlow, h.carry]
  rw [runSlot_carry h hk c hact rfl (c := { target := some t }) (by simp [State.goTo, State.modCarry, Core.modFlow])
    (by simp [State.goTo, State.modCarry, Core.modFlow, hc, free]) rfl rfl rfl rfl rfl rfl]
  have e : ((s.opened k).goTo t).modMe (fun x => x.conclude { target := some t }
      (((s.opened k).goTo t).die (dieOf s.cur)).grant.cap) = s.modMe (·.retiredTo t) := by
    simp only [State.goTo, State.modCarry, State.opened, State.modMe_modMe]
    refine State.modMe_congr _ _ _ ?_
    show Core.conclude _ _ _ = _
    rw [Core.conclude_keep _ _ _ rfl rfl, nextBundle_target _ t _ _ _ rfl rfl]
    simp only [Core.retiredTo, Core.retired, Core.modFlow, h.pending, Nat.zero_min, Nat.sub_zero, Bool.not_true]
    rw [← h.verdicts]
    rfl
  rw [e]
  exact State.landDue_none (f := fun x => x.retiredTo t) (retired_pending h)

/-- A bundle whose only word leaves a scalar result of latency 1 and asks for another address. -/
theorem runSlot_call {s : State} (h : s.Ready) {sem : SlotSem} {k : Nat} (hk : k ≠ 0) (c : sem.Clear k s)
    (free : sem.tokens (s.opened k) = 0) (t : Pc) (d : BitVec 5) (v : Word)
    (hact : sem.act (s.opened k) = (((s.opened k).scalarResult 1 d v).goTo t, none)) :
    runSlot k sem s = s.modMe fun x => (x.retiredTo t).modRegs (·.scalar d v) := by
  have hc : (s.opened k).me.flow.carry = {} := by simp [State.opened, Core.modFlow, h.carry]
  rw [runSlot_carry h hk c hact rfl (c := { target := some t })
    (by simp [State.goTo, State.modCarry, Core.modFlow, State.scalarResult, State.pend])
    (by simp [State.goTo, State.modCarry, Core.modFlow, State.scalarResult, State.pend, hc, free]) rfl rfl rfl rfl rfl rfl]
  have e : (((s.opened k).scalarResult 1 d v).goTo t).modMe (fun x => x.conclude { target := some t }
      ((((s.opened k).scalarResult 1 d v).goTo t).die (dieOf s.cur)).grant.cap) =
        s.modMe fun x => (x.retiredTo t).awaiting k 0 (.scalar d true v) := by
    simp only [State.goTo, State.modCarry, State.opened, State.modMe_modMe, State.scalarResult, State.pend]
    refine State.modMe_congr _ _ _ ?_
    show Core.conclude _ _ _ = _
    rw [Core.conclude_keep _ _ _ rfl rfl, nextBundle_target _ t _ _ _ rfl rfl]
    simp only [Core.retiredTo, Core.retired, Core.awaiting, Core.modFlow, h.pending, Nat.zero_min, Nat.sub_zero, Bool.not_true,
      List.nil_append, Nat.add_sub_cancel]
    rw [agePending_young _ rfl, ← h.verdicts]
    rfl
  rw [e, State.landDue_now (f := fun x => x.retiredTo t) (retired_pending h) rfl, landResult_scalar]

/-! ## Traps -/

/-- A trap that may enter its handler changes its core alone. -/
theorem State.enterTrap_into {s : State} (m : s.MayTrap) {c : Nat} (hc : c = s.cur) (slot : Nat) (t : Trap) (pc : BitVec 47)
    (replay : BitVec 16) : s.enterTrap c slot t pc replay = s.modMe (·.intoHandler slot t pc replay) := by
  subst hc
  have hp : s.leavePhase s.cur = s := by
    have := m.phase
    simp only [State.inPhase] at this
    unfold State.leavePhase
    split <;> simp_all
  have hv : (s.me.ctl.trapVec == 0) = false := by simpa using m.vector
  simp only [State.enterTrap, hp, State.core_cur, m.outside, hv, Bool.or_self, Bool.false_eq_true, if_false]
  rfl

/-- A fault of the only word of a bundle. -/
theorem runSlot_faulted {s : State} (h : s.Ready) (m : s.MayTrap) {sem : SlotSem} {k : Nat} (hk : k ≠ 0) (hk8 : k < 8)
    (c : sem.Clear k s) (e : Trap) (hact : sem.act (s.opened k) = (s.opened k, some e)) :
    runSlot k sem s = s.modMe (·.faulted k e) := by
  rw [runSlot_fault h hk c hact rfl]
  have m' : (((s.opened k).modMe fun x => x.modIssue fun i => { i with faults := i.faults ++ [(k, e)] }).modMe
      fun x => x.reserve []).MayTrap := by
    constructor
    · simpa [Core.reserve, Core.modFlow] using m.outside
    · simpa [Core.reserve, Core.modFlow] using m.vector
    · have := m.phase
      simp only [State.inPhase] at this ⊢
      simpa [Core.reserve, Core.modFlow, State.opened, Core.modIssue] using this
  rw [State.enterTrap_into m' (c := (s.opened k).cur) rfl]
  simp only [State.opened, State.modMe_modMe]
  refine State.modMe_congr _ _ _ ?_
  have r : ∀ y : Bool, ((aloneMask k).setWidth 16 &&& 0xFE) ||| faultedBits [(k, e)] ||| (if y then 1 else 0) =
      ((0xFE &&& ~~~(1#16 <<< k)) ||| (1#16 <<< (8 + k)) ||| (if y then 1 else 0) : BitVec 16) := by
    intro y
    have : ∀ j : Fin 8, ∀ z : Trap, ((aloneMask j).setWidth 16 &&& 0xFE) ||| faultedBits [(j.val, z)] =
        ((0xFE &&& ~~~(1#16 <<< j.val)) ||| (1#16 <<< (8 + j.val)) : BitVec 16) := by
      intro j z
      simp only [faultedBits, List.foldl]
      revert j
      decide
    rw [this ⟨k, hk8⟩ e]
  simp only [State.me_modMe, Core.modFlow]
  rw [r]
  rfl

/-- A decode failure of the only word of a bundle. -/
theorem runSlot_refused {s : State} (h : s.Ready) (m : s.MayTrap) {sem : SlotSem} {k : Nat} (hk : k ≠ 0) (e : Trap)
    (hc : sem.check (s.opening k) = some e) : runSlot k sem s = s.modMe (·.refused k e) := by
  have e0 : (s.modMe fun x => x.modFlow fun f => { f with frozen := none, issue := { head := {}, tags := x.mem.tags } }) = s.opening 0 := rfl
  have c0 : ({} : Head).check (s.opening 0) = none := Head.check_plain _ (State.opening_ready h 0).2.2.2.2.2
  have b : bundleCheck [(0, ({} : Head).sem), (k, sem)] (s.opening 0) = some (k, e) := by
    simp only [bundleCheck, List.findSome?, State.atSlot_opening, Head.sem_check, c0, hc, Option.map_none, Option.map_some, hk,
      if_false]
  have m' : (s.opening 0).MayTrap := by
    constructor
    · simpa using m.outside
    · simpa using m.vector
    · have := m.phase
      simp only [State.inPhase] at this ⊢
      simpa [State.opening] using this
  simp only [runSlot, h.closed, Bool.false_eq_true, if_false]
  unfold State.issueAlone State.reachIssue
  simp only [hk, if_false, List.findSome?, Head.sem_head, Option.getD_some]
  rw [e0, b]
  simp only [State.decodeTrap]
  rw [State.enterTrap_into m' rfl]
  simp only [State.opening, State.modMe_modMe, State.me_modMe]
  refine State.modMe_congr _ _ _ ?_
  rfl

/-! ## The same for meanings -/

section
variable {s : State} {sem : SlotSem} {k : Nat}

theorem inSlot_scalar (h : s.Ready) (hk : k ≠ 0) (c : sem.Clear k s) (free : sem.tokens (s.opened k) = 0) (d : BitVec 5)
    (v : Word) (hact : sem.act (s.opened k) = ((s.opened k).scalarResult 1 d v, none)) :
    inSlot k sem s = .next (s.scalarNow d v) := congrArg _ (runSlot_scalar h hk c free d v hact)

theorem inSlot_late (h : s.Ready) (hk : k ≠ 0) (c : sem.Clear k s) (free : sem.tokens (s.opened k) = 0) (n : Nat)
    (r : Result) (hact : sem.act (s.opened k) = ((s.opened k).pend (n + 2) r, none)) :
    inSlot k sem s = .next (s.modMe fun x => x.retired.awaiting k (n + 1) r) := congrArg _ (runSlot_pend_late h hk c free n r hact)

theorem inSlot_target (h : s.Ready) (hk : k ≠ 0) (c : sem.Clear k s) (free : sem.tokens (s.opened k) = 0) (t : Pc)
    (hact : sem.act (s.opened k) = ((s.opened k).goTo t, none)) : inSlot k sem s = .next (s.modMe (·.retiredTo t)) :=
  congrArg _ (runSlot_target h hk c free t hact)

theorem inSlot_call (h : s.Ready) (hk : k ≠ 0) (c : sem.Clear k s) (free : sem.tokens (s.opened k) = 0) (t : Pc)
    (d : BitVec 5) (v : Word) (hact : sem.act (s.opened k) = (((s.opened k).scalarResult 1 d v).goTo t, none)) :
    inSlot k sem s = .next (s.modMe fun x => (x.retiredTo t).modRegs (·.scalar d v)) :=
  congrArg _ (runSlot_call h hk c free t d v hact)

theorem inSlot_faulted (h : s.Ready) (m : s.MayTrap) (hk : k ≠ 0) (hk8 : k < 8) (c : sem.Clear k s) (e : Trap)
    (hact : sem.act (s.opened k) = (s.opened k, some e)) : inSlot k sem s = .next (s.modMe (·.faulted k e)) :=
  congrArg _ (runSlot_faulted h m hk hk8 c e hact)

theorem inSlot_refused (h : s.Ready) (m : s.MayTrap) (hk : k ≠ 0) (e : Trap) (hc : sem.check (s.opening k) = some e) :
    inSlot k sem s = .next (s.modMe (·.refused k e)) := congrArg _ (runSlot_refused h m hk e hc)
end

/-! ## Freezes -/

/-- A bundle whose only word must wait is frozen before issue. -/
theorem runSlot_held {s u : State} (h : s.Ready) {sem : SlotSem} {k : Nat} (hk : k ≠ 0) (hc : sem.check (s.opening k) = none)
    (he : sem.entries (s.opening k) = 0) (hr : sem.reach (s.opening k) = u) (f : Freeze) (hw : sem.wait (u.atSlot k) = some f)
    : runSlot k sem s = u.freeze f := by
  have e0 : (s.modMe fun x => x.modFlow fun f => { f with frozen := none, issue := { head := {}, tags := x.mem.tags } }) = s.opening 0 := rfl
  have c0 : ({} : Head).check (s.opening 0) = none := Head.check_plain _ (State.opening_ready h 0).2.2.2.2.2
  have b : bundleCheck [(0, ({} : Head).sem), (k, sem)] (s.opening 0) = none := by
    simp only [bundleCheck, List.findSome?, State.atSlot_opening, Head.sem_check, Head.sem_entries, c0, hc, he, Option.map_none,
      List.map, List.sum_cons, List.sum_nil, Nat.add_zero, Nat.lt_irrefl, decide_false, Bool.and_false, Bool.false_eq_true, if_false]
  have w : bundleWait [(0, ({} : Head).sem), (k, sem)] u = some f := by
    simp only [bundleWait, List.findSome?, Head.sem_wait, show ({} : Head).wait (u.atSlot 0) = none from rfl, hw]
  simp only [runSlot, h.closed, Bool.false_eq_true, if_false]
  unfold State.issueAlone State.reachIssue
  simp only [hk, if_false, List.findSome?, Head.sem_head, Option.getD_some]
  rw [e0, b]
  simp only [List.foldl, State.atSlot_opening]
  rw [show ({} : Head).sem.reach (s.opening 0) = s.opening 0 from rfl, State.atSlot_opening, hr, w]

theorem inSlot_held {s u : State} (h : s.Ready) {sem : SlotSem} {k : Nat} (hk : k ≠ 0) (hc : sem.check (s.opening k) = none)
    (he : sem.entries (s.opening k) = 0) (hr : sem.reach (s.opening k) = u) (f : Freeze) (hw : sem.wait (u.atSlot k) = some f) :
    inSlot k sem s = .next (u.freeze f) := congrArg _ (runSlot_held h hk hc he hr f hw)

/-- The same where reaching issue changes nothing. -/
theorem inSlot_waits {s : State} (h : s.Ready) {sem : SlotSem} {k : Nat} (hk : k ≠ 0) (hc : sem.check (s.opening k) = none)
    (he : sem.entries (s.opening k) = 0) (hr : sem.reach = id) (f : Freeze) (hw : sem.wait (s.opening k) = some f) :
    inSlot k sem s = .next (s.modMe (·.held f)) := by
  rw [inSlot_held h hk hc he (u := s.opening k) (by rw [hr]; rfl) f (by rw [State.atSlot_opening]; exact hw)]
  simp only [State.freeze, State.opening, State.modMe_modMe]
  rfl

/-! ## A word that also changes the state beside its core -/

section
variable {s u : State} {sem : SlotSem} {k : Nat}

theorem State.opened_me_congr (hm : u.me = s.me) (k : Nat) : (u.opened k).me = (s.opened k).me := by
  simp only [State.opened, State.me_modMe, hm]

theorem State.opened_modDie (d : Nat) (f : Die → Die) : (s.opened k).modDie d f = (s.modDie d f).opened k := rfl

theorem State.opened_modCluster (c : Nat) (f : Cluster → Cluster) : (s.opened k).modCluster c f = (s.modCluster c f).opened k := rfl

/-- The change `u` is made, and the bundle ends quietly. -/
theorem runSlot_beside (h : s.Ready) (hk : k ≠ 0) (c : sem.Clear k s) (free : sem.tokens (s.opened k) = 0) (hm : u.me = s.me)
    (hcur : u.cur = s.cur) (hph : (u.die (dieOf s.cur)).phase = (s.die (dieOf s.cur)).phase)
    (hact : sem.act (s.opened k) = (u.opened k, none)) : runSlot k sem s = u.modMe Core.retired := by
  have q0 := State.Quiet.opened h k
  have me := State.opened_me_congr hm k
  have q : s.Quiet (u.opened k) := by
    constructor
    · exact hcur
    · intro p hp
      exact h.phase p (by rw [← hph]; exact hp)
    all_goals rw [me]
    exacts [q0.head, q0.faults, q0.stores, q0.pushes, q0.carry, q0.loops, q0.verdicts, q0.banks, q0.rows, q0.shared]
  rw [runSlot_quiet h hk c free hact q]
  have e : (u.opened k).modMe Core.finish = u.modMe Core.retired := by
    simp only [State.opened, State.modMe_modMe]
    refine State.modMe_congr _ _ _ ?_
    rw [hm]
    simp only [Core.finish, Core.retired, Core.modFlow, h.pending]
    rfl
  rw [e, ← hcur]
  exact State.landDue_none (f := Core.retired) (by rw [hm]; exact retired_pending h)

/-- The change `u` is made, and a result follows. -/
theorem runSlot_beside_pend (h : s.Ready) (hk : k ≠ 0) (c : sem.Clear k s) (free : sem.tokens (s.opened k) = 0) (hm : u.me = s.me)
    (hcur : u.cur = s.cur) (hph : (u.die (dieOf s.cur)).phase = (s.die (dieOf s.cur)).phase) (left : Nat) (r : Result) (hact : sem.act (s.opened k) = ((u.opened k).pend left r, none)) :
    runSlot k sem s = (u.modMe fun x => x.retired.awaiting k (left - 1) r).landDue s.cur := by
  have q0 := State.Quiet.opened h k
  have me := State.opened_me_congr hm k
  have q : s.Quiet ((u.opened k).pend left r) := by
    constructor <;> simp only [State.pend, State.modMe_cur, State.me_modMe, Core.modFlow, me, q0.head, q0.faults, q0.stores,
      q0.pushes, q0.carry, q0.verdicts, q0.banks, q0.rows, q0.shared]
    · exact hcur
    · intro p hp
      exact h.phase p (by rw [← hph]; exact hp)
    · exact q0.loops
  rw [runSlot_quiet h hk c free hact q]
  congr 1
  simp only [State.pend, State.opened, State.modMe_modMe]
  refine State.modMe_congr _ _ _ ?_
  rw [hm]
  simp only [Core.finish, Core.retired, Core.awaiting, Core.modFlow, h.pending, List.nil_append, Nat.add_sub_cancel]
  rw [agePending_young _ rfl]

theorem inSlot_beside (h : s.Ready) (hk : k ≠ 0) (c : sem.Clear k s) (free : sem.tokens (s.opened k) = 0) (hm : u.me = s.me)
    (hcur : u.cur = s.cur) (hph : (u.die (dieOf s.cur)).phase = (s.die (dieOf s.cur)).phase)
    (hact : sem.act (s.opened k) = (u.opened k, none)) : inSlot k sem s = .next (u.modMe Core.retired) :=
  congrArg _ (runSlot_beside h hk c free hm hcur hph hact)

theorem inSlot_beside_scalar (h : s.Ready) (hk : k ≠ 0) (c : sem.Clear k s) (free : sem.tokens (s.opened k) = 0)
    (hm : u.me = s.me) (hcur : u.cur = s.cur) (hph : (u.die (dieOf s.cur)).phase = (s.die (dieOf s.cur)).phase) (d : BitVec 5) (v : Word)
    (hact : sem.act (s.opened k) = ((u.opened k).scalarResult 1 d v, none)) : inSlot k sem s = .next (u.scalarNow d v) := by
  unfold inSlot
  rw [runSlot_beside_pend h hk c free hm hcur hph 1 _ hact, ← hcur]
  have := State.landDue_now (s := u) (f := Core.retired) (k := k) (r := .scalar d true v) (by rw [hm]; exact retired_pending h) rfl
  rw [show (1 - 1 = 0) from rfl, this, landResult_scalar]
  rfl
end

/-! ## A word that changes its core beyond the record of the bundle -/

/-- The change `g` of the core outlives the bundle. -/
theorem inSlot_core {s : State} (h : s.Ready) {sem : SlotSem} {k : Nat} (hk : k ≠ 0) (c : sem.Clear k s)
    (free : sem.tokens (s.opened k) = 0) {g f : Core → Core} (hact : sem.act (s.opened k) = ((s.opened k).modMe g, none))
    (q : s.Quiet ((s.opened k).modMe g)) (hf : (g (s.opened k).me).finish = f s.me) (hp : (f s.me).flow.pending = []) :
    inSlot k sem s = .next (s.modMe f) := by
  unfold inSlot
  rw [runSlot_quiet h hk c free hact q]
  have e : ((s.opened k).modMe g).modMe Core.finish = s.modMe f := by
    have hme : (s.opened k).me = s.me.modFlow fun f =>
        { f with frozen := none, issue := { tags := s.me.mem.tags, isOpen := true, slot := k, perf := aloneMask k } } := by
      simp only [State.opened, State.me_modMe]
    simp only [State.opened, State.modMe_modMe]
    refine State.modMe_congr _ _ _ ?_
    rw [← hme]
    exact hf
  rw [e, State.landDue_none hp]

end Sys2Proof.Machine
end

