-- ==== Sys2Proof/Laws/Rows.lean ====
section
/-! SUPPORT. Laws/Rows.lean: row operands as sources and destinations of a bundle whose only word is a vector or copy
instruction, and what is left of a row result. -/

namespace Sys2Proof.Machine

/-! ## Operands read the registers and the streams alone -/

section
variable {x y : Core} (hr : x.regs = y.regs) (hm : x.mem = y.mem)
include hm

theorem Core.stream?_congr (n : BitVec 3) : x.stream? n = y.stream? n := by simp only [Core.stream?, hm]

include hr

theorem Core.rowTag_congr (o : RowOp) : x.rowTag o = y.rowTag o := by
  cases o <;> simp only [Core.rowTag, hr, Core.stream?_congr hm]

theorem Core.destTag_congr (o : RowOp) : x.destTag o = y.destTag o := by
  cases o <;> simp only [Core.destTag, Core.rowTag_congr hr hm]

theorem Core.viewTag_congr (A : RowOp) (B : Option RowOp) : x.viewTag A B = y.viewTag A B := by
  cases B <;> simp only [Core.viewTag, Core.rowTag_congr hr hm]

theorem Core.tagsOk_congr (A : RowOp) (B : Option RowOp) (ok : Tag → Bool) (b : Tag → Tag) :
    x.tagsOk A B ok b = y.tagsOk A B ok b := by
  cases B <;> simp only [Core.tagsOk, Core.viewTag_congr hr hm, Core.rowTag_congr hr hm]

theorem Core.guardOk_congr (g : BitVec 2) (D : RowOp) (t r : Tag) : x.guardOk g D t r = y.guardOk g D t r := by
  simp only [Core.guardOk, Core.destTag_congr hr hm]
end

section
variable (s : State) (k : Nat)

theorem State.core_modFlow (f : Flow → Flow) (c : Nat) :
    ((s.modMe fun x => x.modFlow f).core c).mem = (s.core c).mem ∧ ((s.modMe fun x => x.modFlow f).core c).regs = (s.core c).regs := by
  by_cases h : c = s.cur
  · subst h
    rw [State.core_modMe]
    exact ⟨rfl, rfl⟩
  · rw [State.core_modMe_ne _ _ _ h]
    exact ⟨rfl, rfl⟩

theorem State.spadByte_modFlow (f : Flow → Flow) (c off : Nat) : (s.modMe fun x => x.modFlow f).spadByte c off = s.spadByte c off := by
  simp only [State.spadByte, (State.core_modFlow s f c).1]
  rfl

theorem State.rowBits_modFlow (f : Flow → Flow) (t : Tag) (o : RowOp) : (s.modMe fun x => x.modFlow f).rowBits t o = s.rowBits t o := by
  have e : ∀ c q i, (s.modMe fun x => x.modFlow f).streamRow c q i = s.streamRow c q i := fun c q i => by
    simp only [State.streamRow, funext fun a => State.spadByte_modFlow s f c a]
    rfl
  cases o <;> simp only [State.rowBits, State.me_modMe, e] <;> rfl

@[simp] theorem State.opened_rowBits (t : Tag) (o : RowOp) : (s.opened k).rowBits t o = s.rowBits t o := State.rowBits_modFlow ..

@[simp] theorem State.opened_rowTag (o : RowOp) : (s.opened k).me.rowTag o = s.me.rowTag o := Core.rowTag_congr (by simp) (by simp) o
@[simp] theorem State.opened_destTag (o : RowOp) : (s.opened k).me.destTag o = s.me.destTag o := Core.destTag_congr (by simp) (by simp) o
@[simp] theorem State.opened_viewTag (A : RowOp) (B : Option RowOp) : (s.opened k).me.viewTag A B = s.me.viewTag A B :=
  Core.viewTag_congr (by simp) (by simp) A B
@[simp] theorem State.opened_stream? (n : BitVec 3) : (s.opened k).me.stream? n = s.me.stream? n := Core.stream?_congr (by simp) n
@[simp] theorem State.opened_guardOf (g : BitVec 2) : (s.opened k).guardOf g = s.guardOf g := by simp [State.guardOf]
@[simp] theorem State.opened_destOld (o : RowOp) : (s.opened k).destOld o = s.destOld o := by simp [State.destOld]
@[simp] theorem State.opening_rowTag (o : RowOp) : (s.opening k).me.rowTag o = s.me.rowTag o := Core.rowTag_congr (by simp) (by simp) o
@[simp] theorem State.opening_destTag (o : RowOp) : (s.opening k).me.destTag o = s.me.destTag o := Core.destTag_congr (by simp) (by simp) o
@[simp] theorem State.opening_viewTag (A : RowOp) (B : Option RowOp) : (s.opening k).me.viewTag A B = s.me.viewTag A B :=
  Core.viewTag_congr (by simp) (by simp) A B
@[simp] theorem State.opening_stream? (n : BitVec 3) : (s.opening k).me.stream? n = s.me.stream? n := Core.stream?_congr (by simp) n
end

/-! ## Sources and destinations that are ready -/

section
variable {s : State} {k : Nat} {o : RowOp}

theorem State.Reads.trap (h : s.Reads o) : (s.opening k).sourceTrap o = none := by
  cases o <;> simp only [State.sourceTrap]
  obtain ⟨⟨q, e, w, -⟩, -⟩ := h
  simp [e, w]

theorem State.Reads.wait (h : s.Reads o) : (s.opening k).sourceWait o = none := by
  cases o <;> simp only [State.sourceWait]
  obtain ⟨⟨q, e, -, -, hd, -⟩, hs⟩ := h
  have hh : (s.opening k).me.heldBack 0 = false := by
    simp only [Core.heldBack, List.any_eq_false]
    intro e he
    have := (hs e (by simpa using he)).2
    have hb : (s.opening k).me.flow.bun = s.me.flow.bun := by simp [State.opening, Core.modFlow]
    simp [hb, this]
  have hl : ((s.opening k).me.mem.memq.any (·.isLocalStore)) = false := by
    simp only [List.any_eq_false]
    intro e he
    simp [(hs e (by simpa using he)).1]
  rw [hh, hl]
  simp [e]
  omega

theorem State.Reads.fault (h : s.Reads o) : (s.opened k).sourceFault o = none := by
  cases o <;> simp only [State.sourceFault]
  obtain ⟨⟨q, e, -, ht, -, ho⟩, -⟩ := h
  have : q.exhausted = false := by simp [Stream.exhausted]; omega
  simp [e, this, ho]

theorem State.Writes.trap (h : s.Writes o) : (s.opening k).destTrap o = none := by
  cases o <;> simp only [State.destTrap]
  · obtain ⟨q, e, w, -⟩ := h
    simp [e, w]
  · exact h.elim

theorem State.Writes.fault (h : s.Writes o) : (s.opened k).pushFault o = none := by
  cases o <;> simp only [State.pushFault]
  obtain ⟨q, e, -, ht, -, ho⟩ := h
  have hi : (s.opened k).me.flow.issue.pushes = [] := by simp [State.opened, Core.modFlow]
  simp [e, hi, ho]
  omega

theorem State.Writes.room (h : s.Writes o) : fullStream s.me (pushesOf o) = none := by
  cases o <;> simp only [pushesOf, fullStream_nil]
  obtain ⟨q, e, -, -, hd, -⟩ := h
  simp [fullStream, e]
  intro
  omega
end

/-! ## Row results -/

/-- A write stream keeps an entry when its bundle ends. -/
theorem Core.reserve_pushesOf (x : Core) (o : RowOp) : x.reserve (pushesOf o) = x.sending o := by
  cases o <;> rfl

theorem Core.modStream_eq (x : Core) (n : BitVec 3) (f : Stream → Stream) :
    x.modStream n f = { x with mem := { x.mem with streams := ((x.modStream n f).mem).streams } } := by
  simp only [Core.modStream]
  split <;> rfl

/-- `sending` changes the streams alone. -/
theorem Core.sending_eq (x : Core) (o : RowOp) : x.sending o = { x with mem := { x.mem with streams := (x.sending o).mem.streams } } := by
  cases o <;> first | rfl | exact Core.modStream_eq ..

theorem Core.sending_congr {x y : Core} (h : x.mem = y.mem) (o : RowOp) : (x.sending o).mem = (y.sending o).mem := by
  cases o <;> simp only [Core.sending, Core.modStream, Core.stream?_congr h] <;> first | exact h | skip
  split <;> simp [Core.modMem, h]

/-- What `sending` makes of a core with the memory side of another. -/
theorem Core.sending_of_mem {x y : Core} (h : x.mem = y.mem) (o : RowOp) : x.sending o = { x with mem := (y.sending o).mem } := by
  rw [← Core.sending_congr h o]
  cases o <;> first | rfl | skip
  simp only [Core.sending]
  rw [Core.modStream_eq]

/-- A bundle whose only word leaves one row. -/
theorem runSlot_row {s : State} (h : s.Ready) {sem : SlotSem} {k : Nat} (hk : k ≠ 0) (c : sem.Clear k s)
    (free : sem.tokens (s.opened k) = 0) (n : Nat) (D : RowOp) (v : RowBits) (t : Tag)
    (hact : sem.act (s.opened k) = ((s.opened k).rowResult (n + 2) D v t, none)) :
    runSlot k sem s = s.rowLater k (n + 1) D v t := by
  rw [runSlot_close h hk c hact (by simp [State.rowResult, State.reserve, State.pend, State.opened, Core.modFlow, Core.modIssue])]
  rw [free]
  simp only [State.rowResult, State.reserve, State.pend, State.opened, State.modMe_modMe, State.me_modMe, Core.modFlow,
    Core.modIssue, State.applyStores, List.foldl, List.nil_append, Core.reserve_pushesOf]
  rw [State.completeBundle_carry (c := {}) ?_ ?_ rfl rfl rfl rfl]
  · simp only [State.modMe_modMe, State.modMe_cur, State.die_modMe]
    have e : ∀ f g : Core → Core, f s.me = g s.me → (s.modMe f).landDue s.cur = (s.modMe g).landDue s.cur := fun f g e => by
      rw [State.modMe_congr _ _ _ e]
    rw [e _ (fun x => (x.sending D).retired.awaiting k (n + 1) (.row (x.regs.dest D) v t (slotLatch k)))]
    · exact State.landDue_later (f := fun x => (x.sending D).retired) (by
        show ((s.me.sending D).retired).flow.pending = []
        rw [Core.sending_eq]; exact h.pending) (by omega) |>.trans rfl
    · have hM : ({ (s.me.sending D).mem with cn := [] } : Local) = (s.me.sending D).mem := by
        rw [Core.sending_eq, ← h.verdicts]
      have hS : ∀ y : Core, y.mem = s.me.mem → y.sending D = { y with mem := (s.me.sending D).mem } := fun y e => Core.sending_of_mem e D
      rw [hS s.me rfl]
      generalize (s.me.sending D).mem = M at hM hS
      rw [hS _ (by rfl), Core.conclude_keep _ _ _ rfl rfl]
      simp only [nextBundle_plain _ _ _ h.loops, Core.retired, Core.awaiting, Core.modFlow, Flow.addCost, h.pending, List.nil_append, hM, Nat.zero_min, Nat.sub_zero,
        agePending_young, Nat.add_sub_cancel]
      rfl
  · rw [State.me_modMe, Core.sending_eq]; rfl
  · rw [State.me_modMe, Core.sending_eq]
    show ({ s.me.flow.carry with cost := s.me.flow.carry.cost + 0 } : Carry) = {}
    rw [h.carry]

/-- The same for a meaning. -/
theorem inSlot_row {s : State} (h : s.Ready) {sem : SlotSem} {k : Nat} (hk : k ≠ 0) (c : sem.Clear k s)
    (free : sem.tokens (s.opened k) = 0) (n : Nat) (D : RowOp) (v : RowBits) (t : Tag)
    (hact : sem.act (s.opened k) = ((s.opened k).rowResult (n + 2) D v t, none)) :
    inSlot k sem s = .next (s.rowLater k (n + 1) D v t) := congrArg _ (runSlot_row h hk c free n D v t hact)

/-! ## Elements of a row -/

theorem packNat_shift (w : Nat) (l : List Nat) (i : Nat) : packNat w l >>> (w * i) % 2 ^ w = l.getD i 0 % 2 ^ w := by
  induction l generalizing i with
  | nil => simp [packNat]
  | cons x t ih =>
    cases i with
    | zero =>
      simp only [packNat, Nat.mul_zero, Nat.shiftRight_zero, List.getD_cons_zero, Nat.shiftLeft_eq]
      simp
    | succ i =>
      simp only [packNat, List.getD_cons_succ]
      rw [← ih i, Nat.mul_succ, Nat.add_comm (w * i) w, Nat.shiftRight_add]
      congr 2
      rw [Nat.shiftLeft_eq, Nat.shiftRight_eq_div_pow, Nat.add_mul_div_right _ _ (Nat.two_pow_pos w),
        Nat.div_eq_of_lt (Nat.mod_lt _ (Nat.two_pow_pos w)), Nat.zero_add]

/-- The elements of a packed row. -/
theorem elem_packRow (w n i : Nat) (f : Nat → Nat) (hi : i < n) (h : w * n ≤ 4096) :
    elem w (packRow w ((List.range n).map f)) i = f i % 2 ^ w := by
  have hw : w * i + w ≤ 4096 := le_trans (by rw [← Nat.mul_succ]; exact Nat.mul_le_mul_left w hi) h
  have e : ∀ x : Nat, (x % 2 ^ 4096) >>> (w * i) % 2 ^ w = x >>> (w * i) % 2 ^ w := fun x => by
    apply Nat.eq_of_testBit_eq
    intro j
    simp only [Nat.testBit_mod_two_pow, Nat.testBit_shiftRight]
    by_cases hj : j < w
    · have : w * i + j < 4096 := by omega
      simp [hj, this]
    · simp [hj]
  simp only [elem, packRow, BitVec.toNat_ofNat, e, packNat_shift]
  simp [hi]

theorem tagBits_mul_tagCount (t : Tag) : tagBits t * tagCount t ≤ 4096 := by cases t <;> decide

theorem elem_viewRow (t : Tag) (f : Nat → Nat) (j : Nat) (hj : j < tagCount t) :
    elem (tagBits t) (viewRow t f) j = f j % 2 ^ tagBits t := elem_packRow _ _ _ _ hj (tagBits_mul_tagCount t)

theorem onLane_zero (s : State) (t : Tag) (j : Nat) (hj : j < tagCount t) : onLane (s.guardOf 0) (tagCount t) j = true := by
  have e : s.guardOf 0 = BitVec.allOnes 1024 := rfl
  have b : j * (1024 / tagCount t) < 1024 := by
    cases t <;> simp only [tagCount, tagBits] at hj ⊢ <;> omega
  simp only [onLane, e, BitVec.getLsbD_allOnes, b, decide_true]

theorem elem_lt (w : Nat) (r : RowBits) (j : Nat) : elem w r j < 2 ^ w := Nat.mod_lt _ (Nat.two_pow_pos w)

/-- A blended row: the result where an element is on, the destination's elsewhere (R191). -/
theorem elem_blend (s : State) (g : BitVec 2) (D : RowOp) (t : Tag) (r : RowBits) (j : Nat) (hj : j < tagCount t) :
    elem (tagBits t) (s.blend g D (tagCount t) (tagBits t) r) j =
      if onLane (s.guardOf g) (tagCount t) j = true then elem (tagBits t) r j else elem (tagBits t) (s.destOld D) j := by
  unfold State.blend
  split
  · next h => subst h; rw [onLane_zero s t j hj]; rfl
  · rw [guarded, elem_packRow _ _ _ _ hj (tagBits_mul_tagCount t)]
    split <;> exact Nat.mod_eq_of_lt (elem_lt ..)

/-! ## Vector instructions whose result is one row -/

/-- Everything that an instruction of the shape of `vecSem` does when its operands are ready and its tags accepted. -/
theorem inSlot_vecSem {s : State} (h : s.Ready) {D A : RowOp} {B : Option RowOp} {g : BitVec 2} {f : RowForm} {n : Nat}
    (hA : s.Reads A) (hB : ∀ b ∈ B, s.Reads b) (hD : s.Writes D)
    (hok : f.ok (s.me.viewTag A B) = true) (hfield : ∀ x : Core, x.ctl = s.me.ctl → f.field x (s.me.viewTag A B) = true)
    (htags : s.me.tagsOk A B f.ok f.bTag = true) (hg : s.Guardable g D (s.me.viewTag A B) (f.res (s.me.viewTag A B)))
    (hl : f.left (s.me.viewTag A B) = n + 2) :
    inSlot 2 (vecSem D A B g f) s = .next (s.rowLater 2 (n + 1) D
      ((s.opened 2).blend g D (tagCount (s.me.viewTag A B)) (tagBits (s.me.viewTag A B))
        (f.value (s.opened 2) (s.me.viewTag A B) (s.rowBits (s.me.viewTag A B) A) ((B.map (s.rowBits (s.me.viewTag A B))).getD 0)))
      (f.res (s.me.viewTag A B))) := by
  have gOk : s.me.guardOk g D (s.me.viewTag A B) (f.res (s.me.viewTag A B)) = true := by
    rcases hg with rfl | ⟨h1, h2, h3⟩
    · rfl
    · simp [Core.guardOk, h1, h2, h3]
  have none2 : ∀ l : List RowOp, (∀ b ∈ l, s.Reads b) → ∀ p : RowOp → Option Trap, (∀ b, s.Reads b → p b = none) →
      ∀ m : List (Option Trap), firstSome (l.map p ++ m) = firstSome m := by
    intro l hl p hp m
    induction l with
    | nil => rfl
    | cons a t ih => simp only [List.map_cons, List.cons_append, hp a (hl a (by simp)), firstSome]; exact ih fun b hb => hl b (by simp [hb])
  have hsrc : ∀ b ∈ A :: B.toList, s.Reads b := by
    intro b hb
    rcases List.mem_cons.1 hb with rfl | hb
    · exact hA
    · exact hB b (by simpa using hb)
  have waits : ∀ l : List RowOp, (∀ b ∈ l, s.Reads b) → firstSome (l.map (s.opening 2).sourceWait) = none := by
    intro l hl
    induction l with
    | nil => rfl
    | cons a t ih => simp only [List.map_cons, State.Reads.wait (hl a (by simp)), firstSome]; exact ih fun b hb => hl b (by simp [hb])
  refine inSlot_row h (by decide) ⟨?_, rfl, ?_, rfl, .inl rfl, ?_, by simp [vecSem]⟩ rfl n D _ _ ?_
  · simp only [vecSem, hD.trap, List.cons_append, firstSome]
    rw [none2 _ hsrc _ (fun b hb => hb.trap)]
    have t2 : (s.opening 2).me.tagsOk A B f.ok f.bTag = true := by
      exact (Core.tagsOk_congr (y := s.me) (by simp) (by simp) ..).trans htags
    have g2 : (s.opening 2).me.guardOk g D (s.me.viewTag A B) (f.res (s.me.viewTag A B)) = true := by
      exact (Core.guardOk_congr (y := s.me) (by simp) (by simp) ..).trans gOk
    simp only [State.opening_viewTag, hok, t2, g2, hfield (s.opening 2).me (by simp), operandTrap, tagTrap, Bool.not_true,
      Bool.false_or, Bool.and_self, if_true, firstSome]
  · exact waits _ hsrc
  · exact hD.room
  · have flt : (s.opened 2).rowFault D (A :: B.toList) = none := by
      simp only [State.rowFault]
      rw [none2 _ hsrc _ (fun b hb => hb.fault), hD.fault]; rfl
    simp only [vecSem, flt, State.unless, State.opened_viewTag, State.opened_rowBits, hl]
    congr 3
    cases B <;> simp

/-- The same, as what each element of the result is. -/
theorem State.GivesRow.of_vecSem {s : State} (h : s.Ready) {D A : RowOp} {B : Option RowOp} {g : BitVec 2} {f : RowForm} {n : Nat}
    {t : Tag} {i : Instr} {F : Nat → Nat} (hi : exec i s = inSlot 2 (vecSem D A B g f) s)
    (hA : s.Reads A) (hB : ∀ b ∈ B, s.Reads b) (hD : s.Writes D) (ht : s.me.viewTag A B = t) (hok : f.ok t = true)
    (hfield : ∀ x : Core, x.ctl = s.me.ctl → f.field x t = true) (htags : s.me.tagsOk A B f.ok f.bTag = true)
    (hg : s.Guardable g D t (f.res t)) (hl : f.left t = n + 2)
    (hv : ∀ j < tagCount t, elem (tagBits t) (f.value (s.opened 2) t (s.rowBits t A) ((B.map (s.rowBits t)).getD 0)) j =
      F j % 2 ^ tagBits t) :
    s.GivesRow i (n + 1) g D (f.res t) (tagCount t) (tagBits t) F := by
  subst ht
  refine ⟨_, hi.trans (inSlot_vecSem h hA hB hD hok hfield htags hg hl), fun j hj => ?_⟩
  rw [elem_blend _ _ _ _ _ _ hj, hv j hj]
  simp

/-- Two sources of one tag are accepted where the tag is. -/
theorem Core.tagsOk_same {s : State} {A B : RowOp} {t : Tag} (h : s.SameTags A B) (ht : s.me.viewTag A (some B) = t)
    {ok : Tag → Bool} (hok : ok t = true) (hb : t = .BX4 → isLs A = false ∧ isLs B = false) :
    s.me.tagsOk A (some B) ok id = true := by
  have e : (if isLs A = true ∨ isLs B = true then t else s.me.rowTag B) = t := by
    subst ht
    simp only [Core.viewTag]
    rcases h with h | h | h
    · simp [h]
    · simp [h]
    · cases isLs A <;> cases isLs B <;> simp_all
  simp only [Core.tagsOk, ht, hok, Bool.true_and, id, Bool.or_eq_true, e, beq_self_eq_true]
  by_cases hx : t = .BX4
  · simp [hb hx]
  · simp [hx]

/-- One source is accepted where its tag is. -/
theorem Core.tagsOk_one {s : State} {A : RowOp} {t : Tag} (ht : s.me.viewTag A none = t) {ok : Tag → Bool} {b : Tag → Tag}
    (hok : ok t = true) : s.me.tagsOk A none ok b = true := by
  simp [Core.tagsOk, ht, hok]

end Sys2Proof.Machine
end

