-- ==== Sys2Proof/Laws/Walk.lean ====
section
/-! SUPPORT. Laws/Walk.lean: what a walk depends on, and what the serai reads where no line is bad. -/

namespace Sys2Proof.Machine

/-- A walk depends on memory, on where the tables are, and on what is present (R239 to R243). -/
theorem State.walk_congr {s u : State} (h : u.hbm = s.hbm) (t : u.ptBase = s.ptBase) (m : u.domMod = s.domMod) (z : u.domSize = s.domSize)
    (q : u.part = s.part) : u.walk = s.walk := by
  have e : u.pte = s.pte := by funext pa; simp [State.pte, h, m]
  have r : u.region = s.region := by funext pa; simp [State.region, q]
  have l : u.leafAllowed = s.leafAllowed := by funext x; simp [State.leafAllowed, m, z, r]
  have w : u.walkFrom = s.walkFrom := by
    funext asid va fuel
    induction fuel with
    | zero => rfl
    | succ n ih => funext lvl t; simp only [State.walkFrom, e, l, ih]
  funext asid va
  simp only [State.walk, e, t, w]

/-- The place of an address depends on the module's number and on what is present. -/
theorem State.place_congr {s u : State} (m : u.domMod = s.domMod) (q : u.part = s.part) : u.place = s.place := by
  funext pa
  simp [State.place, State.region, m, q]

/-- Where no line is bad, the serai reads at HBM what the walk finds there, and nothing changes. -/
theorem State.seraiRead_clean {s : State} (h : s.badLines = []) (d : Nat) (asn : BitVec 12) (va n : Nat) (l : Leaf) (v : va < 2 ^ 52)
    (w : s.walk asn va = .ok l) (p : (!l.cn && s.place (l.pa va) == .hbm) = true) :
    s.seraiRead d asn va n = (s, some (memRead s.hbm (l.pa va) n)) := by
  have e : s.walkErrors asn va = [] := by simp [State.walkErrors, h]
  have f (x : List Nat) : x.filter ([] : List Nat).contains = [] := by simp
  simp only [State.seraiRead, e, State.lineErrors, List.foldl_nil, State.seraiAddr, Nat.not_le.mpr v, if_false, w, p, if_true, h, f]

end Sys2Proof.Machine
end

