-- ==== Sys2Proof/Tests/Slice0.lean ====
section
/-! SUPPORT. Tests/Slice0.lean: words written out from the specification's formats, ill-formed terms, single steps, and states that meet the
hypotheses of the statements. -/

namespace Sys2Proof.Tests

-- One test after another: side by side they ask for more memory than a build has.
set_option Elab.async false

open Sys2Proof.Machine

/-! ## Words written out from the formats of R100 and R110 to R115 -/

/-- An S-R word: d, a, b, fn (R110). -/
def sr (op d a b fn : Nat) : Nat := op * 2 ^ 25 + d * 2 ^ 20 + a * 2 ^ 15 + b * 2 ^ 10 + fn

/-- An S-I word: d, a and the fifteen bits of the immediate (R110). -/
def si (op d a imm : Nat) : Nat := op * 2 ^ 25 + d * 2 ^ 20 + a * 2 ^ 15 + imm

/-- An S-C word: the register, the control register, the eight bits below (R110). -/
def sc (op da creg imm : Nat) : Nat := op * 2 ^ 25 + da * 2 ^ 20 + creg * 2 ^ 8 + imm

/-- A word of a vector slot: D, A, B, G (R111). -/
def vw (op D A B g : Nat) : Nat := op * 2 ^ 26 + D * 2 ^ 18 + A * 2 ^ 10 + B * 2 ^ 2 + g

/-- A C-L word: ROW, a, ORI, WC and the nine low bits (R113). -/
def cl (op row a ori wc low : Nat) : Nat := op * 2 ^ 25 + row * 2 ^ 17 + a * 2 ^ 13 + ori * 2 ^ 12 + wc * 2 ^ 9 + low

/-- A C-G word: ROW, a, LAND, WG, RH (R113). -/
def cg (op row a land wg rh : Nat) : Nat := op * 2 ^ 25 + row * 2 ^ 17 + a * 2 ^ 13 + land * 2 ^ 3 + wg * 2 + rh

/-- A C-S word, or a C-SG word with LAND in its place: s, base, size and the twelve low bits (R113). -/
def cs (op s base size low : Nat) : Nat := op * 2 ^ 25 + s * 2 ^ 20 + base * 2 ^ 15 + size * 2 ^ 12 + low

/-- A C-B word: ag, al, sdesc, TAG, ORI, WC (R113). -/
def cb (op ag al sd tag ori wc : Nat) : Nat := op * 2 ^ 25 + ag * 2 ^ 21 + al * 2 ^ 17 + sd * 2 ^ 12 + tag * 2 ^ 8 + ori * 2 ^ 7 + wc * 2 ^ 4

/-- A C-X word: sd, sa, sb, W, SCOPE, ORD, TR (R113). -/
def cx (op sd sa sb w scope ord tr : Nat) : Nat :=
  op * 2 ^ 25 + sd * 2 ^ 20 + sa * 2 ^ 15 + sb * 2 ^ 10 + w * 2 ^ 8 + scope * 2 ^ 5 + ord * 2 ^ 3 + tr * 2 ^ 2

/-- A C-N word: sn, ROW, quarter, LAND (R113). -/
def cn (op sn row q land : Nat) : Nat := op * 2 ^ 25 + sn * 2 ^ 20 + row * 2 ^ 12 + q * 2 ^ 10 + land

/-- A word of the matrix or the address slot: opcode and the 26 low bits. -/
def op6 (op low : Nat) : Nat := op * 2 ^ 26 + low

/-- Each word of the list is the instruction beside it, both ways. -/
abbrev Reads (k : Slot) (l : List (Nat × Instr)) : Prop := ∀ p ∈ l, decodeSlot k p.1 = .ok p.2 ∧ encode p.2 = p.1

/-- R100, R101. -/
theorem test_decode_header : Reads .H
    [(0 * 2 ^ 29 + 3 * 2 ^ 24 + 2 ^ 23 + 5 * 2 ^ 20 + 0x81 * 2 ^ 12, .normal 3 (some 5) 0x81),
     (1 * 2 ^ 29 + 2 * 2 ^ 9, .sync 0 none 0 .strip),
     (2 * 2 ^ 29 + 1 * 2 ^ 24 + 2 ^ 23 + 0x80 * 2 ^ 4 + 15, .lock 1 (some 0) 0 0x80 15),
     (3 * 2 ^ 29 + 7 * 2 ^ 24, .xph 7 none 0)] := by decide

/-- R110, R116: integer operations. -/
theorem test_decode_integer : Reads .S
    [(0, .nop), (sr 0x01 3 1 2 1, .add .s32 3 1 2), (sr 0x02 31 30 29 0, .sub .d64 31 30 29), (sr 0x03 1 2 4 2, .and .z32 1 2 4),
     (sr 0x04 1 2 4 0, .or .d64 1 2 4), (sr 0x05 1 2 4 0, .xor .d64 1 2 4), (sr 0x06 1 2 4 0, .shl .d64 1 2 4),
     (sr 0x07 1 2 4 0, .shr .d64 1 2 4), (sr 0x08 1 2 4 0, .sar .d64 1 2 4), (sr 0x09 1 2 4 0, .mul .d64 1 2 4),
     (sr 0x0A 1 2 4 0, .mulhi .d64 1 2 4), (sr 0x0B 1 2 4 0, .mulhn .d64 1 2 4), (sr 0x0C 1 2 4 0, .div .d64 1 2 4),
     (sr 0x0D 1 2 4 0, .divn .d64 1 2 4), (sr 0x0E 1 2 4 0, .rem .d64 1 2 4), (sr 0x0F 1 2 4 0, .remn .d64 1 2 4),
     (sr 0x10 1 2 4 0, .min .d64 1 2 4), (sr 0x11 1 2 4 0, .max .d64 1 2 4), (sr 0x12 1 2 4 0, .minn .d64 1 2 4),
     (sr 0x13 1 2 4 0, .maxn .d64 1 2 4), (sr 0x14 1 2 4 0, .slt .d64 1 2 4), (sr 0x15 1 2 4 0, .sltn .d64 1 2 4),
     (sr 0x16 1 2 4 0, .seq .d64 1 2 4), (sr 0x17 1 2 4 0, .sel .d64 1 2 4), (sr 0x18 1 2 0 0, .clz .d64 1 2),
     (sr 0x19 1 2 0 0, .popc .d64 1 2), (sr 0x1A 1 2 0 0, .ctz .d64 1 2), (sr 0x1B 1 2 4 0, .rotl .d64 1 2 4),
     (sr 0x1C 1 2 0 0, .bswap .d64 1 2), (sr 0x1D 1 2 4 0, .exts .d64 1 2 4), (sr 0x1E 1 2 4 0, .extz .d64 1 2 4)] := by decide

/-- R110, R116, R158 to R164: immediate operations, control flow and FP32. -/
theorem test_decode_immediate : Reads .S
    [(si 0x20 1 2 0x7FFF, .addi 1 2 (-1)), (si 0x21 1 2 5, .andi 1 2 5), (si 0x22 1 2 5, .ori 1 2 5), (si 0x23 1 2 5, .xori 1 2 5),
     (si 0x24 1 2 63, .shli 1 2 63), (si 0x25 1 2 5, .shri 1 2 5), (si 0x26 1 2 5, .sari 1 2 5), (si 0x27 1 2 5, .slti 1 2 5),
     (si 0x28 1 2 5, .sltni 1 2 5), (si 0x29 1 2 5, .muli 1 2 5), (0x2A * 2 ^ 25 + 9 * 2 ^ 20 + 0xFFFFF, .li 9 (-1)),
     (0x2B * 2 ^ 25 + 9 * 2 ^ 20 + 7, .lis 9 7), (0x30 * 2 ^ 25 + 7 * 2 ^ 21 + 4 * 2 ^ 16 + 0x8000, .br .nbit0 4 0x8000),
     (0x31 * 2 ^ 25 + 0x1FFFFFF, .jmp (-1)), (0x32 * 2 ^ 25 + 12, .call 12), (sr 0x33 1 2 0 0, .jmpr 1 2), (sr 0x34 0 0 0 0, .ret),
     (sr 0x38 1 2 4 (5 * 4), .fadd .sr 1 2 4), (sr 0x39 1 2 4 (1 * 4), .fsub .rz 1 2 4), (sr 0x3A 1 2 4 (2 * 4), .fmul .ru 1 2 4),
     (sr 0x3B 1 2 4 (3 * 4), .ffma .rd 1 2 4), (sr 0x3C 1 2 4 0, .fmin 1 2 4), (sr 0x3D 1 2 4 0, .fmax 1 2 4),
     (sr 0x3E 1 2 4 (6 * 4), .fcmp .un 1 2 4), (sr 0x3F 1 2 0 (6 * 32 + 4 * 4), .fcvt .frint .rna 1 2)] := by decide

/-- R110, R116, R165 to R177: control registers and system. -/
theorem test_decode_system : Reads .S
    [(sc 0x40 4 0x00F 0, .getc 4 0x00F), (sc 0x41 4 0x440 0, .setc 4 0x440), (sc 0x40 4 0xF00 0, .getcQhost 4), (sc 0x40 4 0xF01 0, .getcQserai 4),
     (sc 0x40 4 0xF02 0, .getcQmsg 4), (sc 0x40 4 0xF03 0, .getcQerr 4), (sc 0x41 4 0xF00 0, .setcQhost 4), (sc 0x41 4 0xF01 0, .setcQserai 4),
     (sc 0x41 4 0xF02 0, .setcQmsg 4), (sc 0x41 4 0xF03 0, .setcQerr 4), (sc 0x41 4 0x020 0, .setcClip 4), (sc 0x41 4 0x470 0, .setcOplimit 4),
     (sc 0x41 4 0x420 0, .cnpoolEnable 4), (sc 0x42 0 0 0xA5, .trap 0xA5), (sr 0x43 0 0 0 0, .eret), (sr 0x44 1 2 4 0, .sleep 1 2 4),
     (sr 0x45 1 0 0 0, .time 1), (sr 0x46 1 0 0 0, .cycle 1), (sr 0x47 0 0 0 0, .halt), (sc 0x49 1 0 4, .slotq 1 4), (sc 0x4A 1 0 8, .who 1 8),
     (sr 0x50 0 2 0 0, .pwracq 2), (sr 0x51 0 0 0 0, .pwrrel), (sr 0x52 1 0 0 0, .pwrq 1), (sr 0x58 1 2 0 0, .spawn 1 2),
     (sr 0x59 1 2 4 0, .cancel 1 2 4), (sr 0x5A 1 2 4 0, .nodest 1 2 4), (sr 0x5B 0 2 4 0, .signal 2 4)] := by decide

/-- R108, R111, R117: arithmetic, logic, compares and predicates; T3.5 is 0x9D, T3.lc0 is 0x4C, O2 is 0x02, Q1 is 0x09, LV0 is 0x10. -/
theorem test_decode_vector : Reads .V
    [(0, .vnop), (vw 0x01 0x9D 0x02 0x4C 1, .vadd (.t 29) (.o 2) (.tl 3 0) 1), (vw 0x02 0x09 0x10 0x80 0, .vsub (.q 1) (.latch .LV0) (.t 0) 0),
     (vw 0x03 0x80 0x81 0x82 3, .vmul (.t 0) (.t 1) (.t 2) 3), (vw 0x04 0x80 0x81 0x82 0, .vfma (.t 0) (.t 1) (.t 2) 0),
     (vw 0x05 0x80 0x81 0x82 0, .vmin (.t 0) (.t 1) (.t 2) 0), (vw 0x06 0x80 0x81 0x82 0, .vmax (.t 0) (.t 1) (.t 2) 0),
     (vw 0x07 0x80 0x81 0 2, .vabs (.t 0) (.t 1) 2), (vw 0x08 0x80 0x81 0 0, .vneg (.t 0) (.t 1) 0),
     (vw 0x09 0x80 0x81 0x82 0, .vadds (.t 0) (.t 1) (.t 2) 0), (vw 0x0A 0x80 0x81 0x82 0, .vsubs (.t 0) (.t 1) (.t 2) 0),
     (vw 0x0B 0x80 0x81 0x82 0, .vmulh (.t 0) (.t 1) (.t 2) 0), (vw 0x10 0x80 0x81 0x82 0, .vand (.t 0) (.t 1) (.t 2) 0),
     (vw 0x11 0x80 0x81 0x82 0, .vor (.t 0) (.t 1) (.t 2) 0), (vw 0x12 0x80 0x81 0x82 0, .vxor (.t 0) (.t 1) (.t 2) 0),
     (vw 0x13 0x80 0x81 0 0, .vnot (.t 0) (.t 1) 0), (vw 0x14 0x80 0x81 0x15 0, .vshl (.t 0) (.t 1) (.latch .LS) 0),
     (vw 0x15 0x80 0x81 0x82 0, .vshr (.t 0) (.t 1) (.t 2) 0), (vw 0x16 0x80 0x81 0x82 0, .vsar (.t 0) (.t 1) (.t 2) 0),
     (vw 0x18 (4 * 32 + 3) 0x81 0x82 0, .vcmp .gt 3 (.t 1) (.t 2) 0), (vw 0x19 0x80 0x81 2 1, .vsel (.t 0) (.t 1) 2 1),
     (vw 0x1A 1 2 3 0, .pand 1 2 3 0), (vw 0x1B 1 2 3 0, .por 1 2 3 0), (vw 0x1C 1 2 3 0, .pxor 1 2 3 0), (vw 0x1D 1 2 0 3, .pnot 1 2 3)] := by
  decide

/-- R111, R117, R201 to R213: conversions, reductions, moves and special functions; the modifier holds TGT [7:4], RM [3:1] and SAT [0]. -/
theorem test_decode_vector_moves : Reads .V
    [(vw 0x20 0x80 0x81 (8 * 16 + 5 * 2 + 1) 1, .vcvt (.t 0) (.t 1) .BF16 .sr true 1), (vw 0x21 0x80 0x81 (7 * 16) 0, .vwid (.t 0) (.t 1) .FP32 .rne false 0),
     (vw 0x22 0x80 0x88 (1 * 16 + 4 * 2) 0, .vnar (.t 0) (.t 8) .I8 .rna false 0), (vw 0x23 0x80 0x88 0x15 0, .vquant (.t 0) (.t 8) (.latch .LS)),
     (vw 0x24 0x88 0x80 (9 * 16) 0, .vdeq (.t 8) (.t 0) .FP16 .rne false 0), (vw 0x25 0xA8 0xA8 5 0, .vsettag (.t 40) (.t 40) .I32 0),
     (vw 0x28 0x80 0x81 0 0, .vredsum (.t 0) (.t 1) 0), (vw 0x29 0x80 0x81 0 0, .vredmax (.t 0) (.t 1) 0), (vw 0x2A 0x80 0x81 0 0, .vredmin (.t 0) (.t 1) 0),
     (vw 0x2B 0x80 0x81 0 0, .vamax (.t 0) (.t 1) 0), (vw 0x2C 0x80 0x81 200 0, .vbcast (.t 0) (.t 1) 200 0),
     (vw 0x2D 0x80 0x81 0x82 0, .vperm (.t 0) (.t 1) (.t 2) 0), (vw 0x2E 0x80 0x81 3 0, .vshuf (.t 0) (.t 1) .swap 0),
     (vw 0x2F 0x80 0x81 0xFF 0, .vslide (.t 0) (.t 1) 0xFF 0), (vw 0x30 0x80 0x81 0 0, .vscan (.t 0) (.t 1) 0), (vw 0x31 0x80 0x81 0 0, .vmov (.t 0) (.t 1) 0),
     (vw 0x32 0x80 7 0x3F 0, .vsplat (.t 0) .FP32 0x3F 0), (vw 0x33 0x80 0x81 0x82 0, .vext (.t 0) (.t 1) (.t 2) 0),
     (vw 0x38 0x80 0x81 13 0, .vsfu (.t 0) (.t 1) .silu 0), (vw 0x39 0x80 0x81 0x82 0, .vdiv (.t 0) (.t 1) (.t 2) 0)] := by decide

/-- R112, R118. -/
theorem test_decode_matrix : Reads .M
    [(0, .mnop), (op6 0x01 (0x09 * 2 ^ 18 + 31 * 2 ^ 13 + 2 * 2 ^ 10 + 1 * 2 ^ 8), .mmul (.q 1) 31 2 .acc),
     (op6 0x02 (11 * 2 ^ 22 + 5 * 2 ^ 19 + 1 * 2 ^ 18 + 30 * 2 ^ 13 + 1 * 2 ^ 10 + 2 * 2 ^ 8), .mmuls 11 5 true 30 1 .accb),
     (op6 0x04 (3 * 2 ^ 22 + 0x81 * 2 ^ 14 + 3 * 2 ^ 11 + 2 * 2 ^ 8), .mwld 3 0x81 3 .w16), (op6 0x05 (0x80 * 2 ^ 18), .mswap 0x80),
     (op6 0x06 0, .mzero), (op6 0x07 (0x01 * 2 ^ 18), .mwinv 1),
     (op6 0x08 (7 * 2 ^ 21 + 15 * 2 ^ 17 + 4 * 2 ^ 13 + 2 ^ 12 + 9 * 2 ^ 8 + 3 * 2 ^ 5), .mdrain 7 15 .bf256 (some (9, .module))),
     (op6 0x09 (7 * 2 ^ 21 + 10 * 2 ^ 17 + 7 * 2 ^ 13 + 1 * 2 ^ 4), .mdrains 7 10 .e512 none false true),
     (op6 0x09 (7 * 2 ^ 21 + 10 * 2 ^ 17 + 9 * 2 ^ 13 + 1 * 2 ^ 3), .mdrains 7 10 .bx512 none true false),
     (op6 0x0A (0x80 * 2 ^ 18 + 3 * 2 ^ 14 + 31 * 2 ^ 9), .mcommit (.t 0) 3 31), (op6 0x0C (63 * 2 ^ 20), .mlease 63), (op6 0x0D 0, .munlease),
     (op6 0x0E (17 * 2 ^ 21), .mclip 17)] := by decide

/-- R113, R114, R119: local and global accesses and bulk transfers. -/
theorem test_decode_copy : Reads .C
    [(0, .cnop), (cl 0x01 0x9D 4 0 2 511, .ldl (.t 29) 4 (.row .w128) (-1)), (cl 0x02 0x02 4 0 4 0x100, .stl (.o 2) 4 (.row .w32) 0x100),
     (cl 0x03 0x9D 4 0 0 (7 * 2 ^ 6 + 0x20), .ldr (.t 29) 4 (.row .w512) 7 0x20), (cl 0x04 0x9D 4 0 1 3, .ldsh (.t 29) 4 .w256 3),
     (cl 0x05 0x10 4 0 3 3, .stsh (.latch .LV0) 4 .w64 3), (cs 0x06 3 1 7 0xFFF, .lds 3 1 true .b8 (-1)), (cs 0x07 3 1 2 8, .sts 3 1 .b4 8),
     (cg 0x10 0x9D 4 1023 2 1, .ldg (.t 29) 4 1023 .w32 true), (cg 0x11 0x9D 4 0 1 0, .stg (.t 29) 4 .w128),
     (cs 0x12 3 1 4 (5 * 2 ^ 2), .ldsg 3 1 true .b1 5), (cs 0x13 3 1 3 0, .stsg 3 1 .b8), (cg 0x14 0 4 0 3 1, .pfg 4 .w8 true),
     (cb 0x18 1 2 3 4 0 1, .bget 1 2 3 4 (.row .w256)), (cb 0x19 1 2 3 4 0 0, .bput 1 2 3 4 (.row .w512)), (cb 0x1A 1 2 3 4 0 4, .bgetsh 1 2 3 4 .w32),
     (cb 0x1B 1 2 3 4 0 3, .bputsh 1 2 3 4 .w64), (cb 0x1C 0 0 0 4 0 0, .bwait 4), (cb 0x1D 0 0 3 4 0 0, .bprom 3 4),
     (cl 0x40 0x9D 0 0 0 0 + 5 * 2 ^ 14 + 6 * 2 ^ 11 + 2 ^ 10, .xmit (.t 29) 5 6 true), (cl 0x41 0x9D 0 0 0 0 + 5 * 2 ^ 14 + 6 * 2 ^ 11, .xsel (.t 29) 5 6 false),
     (cx 0x48 0 3 0 0 2 0 0, .flushms 3 .die), (cx 0x49 0 3 0 0 1 0 0, .invl 3 .cluster)] := by decide

/-- R113, R114, R119, R271, R279, R343, R389: atomics, fences, contributions and content-named memory. -/
theorem test_decode_atomics : Reads .C
    [(cx 0x20 1 2 4 1 3 3 1, .aadd .w64 1 2 4 .module .ar true), (cx 0x21 1 2 4 0 0 0 0, .amax .w32 1 2 4 .core .rlx false),
     (cx 0x22 1 2 4 0 1 1 0, .amin .w32 1 2 4 .cluster .acq false), (cx 0x23 1 2 4 0 4 2 0, .amaxn .w32 1 2 4 .domain .rel false),
     (cx 0x24 1 2 4 0 0 0 0, .aminn .w32 1 2 4 .core .rlx false), (cx 0x25 1 2 4 0 0 0 0, .aand .w32 1 2 4 .core .rlx false),
     (cx 0x26 1 2 4 0 0 0 0, .aor .w32 1 2 4 .core .rlx false), (cx 0x27 1 2 4 0 0 0 0, .axor .w32 1 2 4 .core .rlx false),
     (cx 0x28 1 2 4 0 0 0 0, .axchg .w32 1 2 4 .core .rlx false), (cx 0x29 2 3 6 2 3 0 0, .acas .w128 2 3 6 .module .rlx false),
     (cx 0x2A 1 2 4 0 2 0 0, .afadd 1 2 4 .die .rlx false), (cx 0x2B 1 2 4 0 2 0 0, .afmax 1 2 4 .die .rlx false),
     (cx 0x2C 1 2 4 0 2 0 0, .aamax 1 2 4 .die .rlx false), (cx 0x2D 1 2 0 1 3 1 0, .ald .w64 1 2 .module .acq false),
     (cx 0x2E 0 2 4 1 3 2 0, .ast .w64 2 4 .module .rel false), (0x30 * 2 ^ 25 + 3 * 2 ^ 17 + 0x80 * 2 ^ 9 + 4 * 2 ^ 6, .fence 3 0x80 .domain),
     (0x31 * 2 ^ 25, .mark), (cx 0x34 0 2 4 0 3 2 0, .wadd .w32 2 4 .module true), (cx 0x35 0 2 4 1 3 0 0, .wmax .w64 2 4 .module false),
     (cx 0x36 0 2 4 0 3 0 0, .wfadd 2 4 .module false), (cn 0x38 2 0x9D 3 1, .cnput 2 (.t 29) 3 1), (cn 0x39 2 0x02 1 1023, .cnget 2 (.o 2) 1 1023),
     (cn 0x3A 30 0 0 0, .cnref 30), (cn 0x3B 30 0 0 0, .cndrop 30), (cx 0x3C 2 3 6 2 3 3 0, .cnswap 2 3 6 .module),
     (cn 0x3D 2 0x9D 0 9, .cnlook 2 (.t 29) 0 9), (cb 0x3E 1 2 4 5 0 0, .cnout 1 2 4 5), (cn 0x3F 2 0x9D 2 9, .cnhash 2 (.t 29) 2 9)] := by decide

/-- R115, R120. -/
theorem test_decode_address : Reads .A
    [(0, .anop), (op6 0x01 (3 * 2 ^ 24 + 4095 * 2 ^ 12 + 1), .loop 3 4095 1), (op6 0x02 (2 * 2 ^ 24 + 17 * 2 ^ 19 + 4095), .loops 2 17 4095),
     (op6 0x03 (1 * 2 ^ 24), .lbrk 1), (op6 0x04 (9 * 2 ^ 22 + 2 * 2 ^ 20), .ainc 9 2),
     (op6 0x05 (9 * 2 ^ 22 + 2 * 2 ^ 20 + 5 * 2 ^ 16 + 3 * 2 ^ 14), .ainc2 9 2 5 3), (op6 0x06 (9 * 2 ^ 22 + 17 * 2 ^ 15), .aset 9 17),
     (op6 0x07 (9 * 2 ^ 22 + 17 * 2 ^ 15), .aget 9 17), (op6 0x08 (5 * 2 ^ 22 + 0x3FFFFF), .aaddi 5 (-1)), (op6 0x09 (5 * 2 ^ 22 + 17 * 2 ^ 17), .amod 5 17),
     (op6 0x0A (6 * 2 ^ 23 + 5 * 2 ^ 19), .sbind 6 5), (op6 0x0B (6 * 2 ^ 23), .sunbind 6), (op6 0x0C (6 * 2 ^ 23 + 17 * 2 ^ 18), .squery 6 17),
     (op6 0x0D (9 * 2 ^ 22 + 2 * 2 ^ 20 + 17 * 2 ^ 15), .kset 9 2 17)] := by decide

/-- BRK holds its code in fn[9:2] (R172). -/
theorem test_decode_brk : decodeSlot .S (sr 0x48 0 0 0 (0xA5 * 4)) = .ok (.brk 0xA5) := by decide

/-- R96, R121: the same bits are an addition in the S slot and another instruction, or none, elsewhere; reserved fields are refused by cause. -/
theorem test_decode_refuses :
    decodeSlot .S (sr 0x01 3 1 2 3) = .error .illegal ∧ decodeSlot .S (0x7F * 2 ^ 25) = .error .illegal ∧ decodeSlot .S 1 = .error .illegal ∧
    decodeSlot .V (vw 0x01 0x10 0x80 0x80 0) = .error .operand ∧ decodeSlot .V (vw 0x01 0x80 0x18 0x80 0) = .error .operand ∧
    decodeSlot .V (vw 0x18 0 0x80 0x80 0) = .error .operand ∧ decodeSlot .C (cg 0x10 0x9D 4 0 0 0) = .error .illegal ∧
    decodeSlot .A (op6 0x01 (4095 * 2 ^ 12)) = .error .illegal ∧ decodeSlot .H (4 * 2 ^ 29) = .error .bundle ∧
    decodeSlot .H (2 * 2 ^ 29 + 1) = .error .bundle ∧ decodeSlot .H (5 * 2 ^ 20) = .error .bundle := by decide

/-- R98, and the words of the opcode table as `decodeTableWord` reads them. -/
theorem test_decode_table :
    decodeTableWord 32 0 = some .nop ∧ decodeTableWord 32 (sr 0x01 3 1 2 1) = some (.add .s32 3 1 2) ∧
    decodeTableWord 32 (0xFFFFFFFF) = none := by decide

/-! ## Ill-formed terms, one for each check of WellFormed -/

/-- Headers, selectors and registers of their own (R101, R165, R171). -/
theorem test_wf_scalar :
    (Instr.lock 0 none 0 0 1).wf = false ∧ (Instr.lock 0 none 0 1 0).wf = false ∧ (Instr.slotq 1 5).wf = false ∧ (Instr.who 1 9).wf = false ∧
    (Instr.getc 1 0xF00).wf = false ∧ (Instr.getc 1 0xF03).wf = false ∧ (Instr.setc 1 0xF01).wf = false ∧ (Instr.setc 1 0x020).wf = false ∧
    (Instr.setc 1 0x470).wf = false ∧ (Instr.setc 1 0x420).wf = false ∧ (Instr.cnpoolDisable 1).wf = false := by decide

/-- No latch is a destination (R109). -/
theorem test_wf_latch : ∀ i ∈
    ([.vadd (.latch .LV0) (.t 0) (.t 0) 0, .vabs (.latch .LV0) (.t 0) 0, .vcvt (.latch .LV1) (.t 0) .FP32 .rne false 0,
      .vnar (.latch .LC0) (.t 0) .I8 .rne false 0, .vquant (.latch .LM) (.t 0) (.t 0), .vdeq (.latch .LS) (.t 0) .E4M3 .rne false 0,
      .vsettag (.latch .LV0) (.t 0) .I8 0, .vsplat (.latch .LV0) .I8 0 0, .mmul (.latch .LV0) 0 0 .ovr, .mcommit (.latch .LV0) 0 0,
      .ldl (.latch .LV0) 0 (.row .w512) 0, .ldr (.latch .LV0) 0 (.row .w512) 0 0, .ldsh (.latch .LV0) 0 .w512 0, .ldg (.latch .LV0) 0 1 .w512 false] : List Instr),
    i.wf = false := by decide

/-- Predicates, tags and groups of rows (R111, R193, R201 to R205). -/
theorem test_wf_vector : ∀ i ∈
    ([.vcmp .eq 0 (.t 0) (.t 0) 0, .pand 0 1 1 0, .pnot 0 1 0, .vcvt (.t 0) (.t 0) .EMPTY .rne false 0, .vwid (.o 0) (.t 0) .FP32 .rne false 0,
      .vwid (.t 0) (.t 0) .EMPTY .rne false 0, .vnar (.t 0) (.q 0) .I8 .rne false 0, .vnar (.t 0) (.t 0) .EMPTY .rne false 0, .vquant (.t 0) (.o 0) (.t 0),
      .vdeq (.t 0) (.t 0) .I8 .rne false 0, .vdeq (.o 0) (.t 0) .FP32 .rne false 0, .vsettag (.t 0) (.t 0) .EMPTY 0, .vsplat (.t 0) .EMPTY 0 0,
      .vsplat (.t 0) .BX4 0 0] : List Instr),
    i.wf = false := by decide

/-- Masks, geometries and drains (R310, R318, R323, R325, R327). -/
theorem test_wf_matrix : ∀ i ∈
    ([.mwld 0 0 0 .w8, .mwld 0 1 3 .w4, .mswap 0, .mwinv 0, .mdrain 0 0 .bnd128 (some (0, .core)), .mdrains 0 0 .bnd128 (some (0, .core)) false false,
      .mdrains 0 0 .f128 none true true, .mdrains 0 0 .bx512 none false true] : List Instr),
    i.wf = false := by decide

/-- Landing delays, widths, pairs, orders and scopes (R114, R271, R275, R282, R283, R343, R389). -/
theorem test_wf_copy : ∀ i ∈
    ([.ldg (.t 0) 0 0 .w512 false, .ldsg 1 1 false .b8 0, .aadd .w128 2 1 4 .die .rlx false, .aadd .w32 31 1 4 .die .rlx true,
      .acas .w128 3 1 4 .die .rlx false, .acas .w128 2 1 5 .die .rlx false, .acas .w128 2 1 4 .die .rlx true, .acas .w32 31 1 4 .die .rlx true,
      .afadd 31 1 4 .die .rlx true, .ald .w128 2 1 .die .rlx false, .ald .w32 2 1 .die .rel false, .ast .w128 1 4 .die .rlx false,
      .ast .w32 1 4 .die .acq false, .wadd .w128 1 4 .die false, .cnput 3 (.t 0) 0 1, .cnput 0 (.t 0) 0 1, .cnlook 2 (.t 0) 0 0, .cnhash 1 (.t 0) 0 1,
      .cnget 2 (.q 0) 0 1, .cnref 0, .cndrop 5, .cnswap 0 1 4 .die, .cnswap 2 1 3 .die, .cnout 0 0 5 0, .xsel (.q 0) 0 0 false, .flushms 1 .core,
      .invl 1 .core, .loop 0 1 0, .loops 0 1 0] : List Instr),
    i.wf = false := by decide

/-- The boundary values that the checks admit. -/
theorem test_wf_admits : ∀ i ∈
    ([.lock 0 none 0 1 1, .slotq 1 4, .who 1 8, .getc 1 0xEFF, .setc 1 0xF04, .vcmp .eq 1 (.t 0) (.t 0) 0, .vwid (.tl 0 3) (.t 0) .FP32 .rne false 0,
      .vdeq (.o 0) (.t 0) .E5M2 .rne false 0, .mwld 0 1 3 .w8, .mdrain 0 0 .bnd128 none, .ldg (.q 0) 0 1 .w512 false, .acas .w128 30 1 30 .die .rlx false,
      .aadd .w32 30 1 4 .die .rlx true, .cnput 30 (.latch .LS) 0 1, .cnget 2 (.tl 0 0) 0 1, .cnswap 30 0 2 .core, .flushms 0 .module, .invl 0 .domain,
      .loop 0 0 1] : List Instr),
    i.wf = true := by decide

/-! ## States that meet the hypotheses of the statements -/

/-- Core 0 of die 0 as `f` makes it; all else as after reset. -/
def one (f : Core → Core) : State := { State.reset with cores := [(0, f {})] }

/-- A core that runs a node of one slice, with a trap vector, privileged or not. -/
def runs (priv : Bool) (x : Core) : Core :=
  { x with run := some (soloRun 1), ctl := { x.ctl with trapVec := 0x4000, priv := priv, handler := priv } }

/-- A core with row tags `t` in all tile registers. -/
def tagged (t : Tag) (x : Core) : Core := x.modRegs fun r => { r with tTag := Vector.replicate 16 t }

/-- A core with a value in a scalar register. -/
def holding (n : BitVec 5) (v : Word) (x : Core) : Core := x.modRegs (·.setS n v)

/-- A page of HBM, readable, writable and open to user code, at virtual page 1. -/
def page1 : Leaf :=
  { asid := 0, vpn := 1, pages := 1, base := 0x20000, w := true, x := true, u := true, sc := false, cn := false, rhp := false, msc := false }

/-- A core that holds that page's translation. -/
def mapped (x : Core) : Core := x.modMem fun m => { m with tlb := [page1] }

/-- What `State.Ready` says, as a check. -/
def readyCheck (s : State) : Bool :=
  !s.me.flow.issue.isOpen && decide (s.me.flow.carry = {}) && s.me.flow.pending.isEmpty && s.me.mem.cn.isEmpty &&
    (s.die (dieOf s.cur)).phase.all (fun p => !p.ending) && (List.finRange 4).all (fun i => !(s.me.flow.loops.get i).act) && decide (s.lockstep s.cur = none)

theorem ready_of {s : State} (h : readyCheck s = true) : s.Ready := by
  simp only [readyCheck, Bool.and_eq_true, Bool.not_eq_true', decide_eq_true_eq, List.isEmpty_iff, List.all_eq_true] at h
  obtain ⟨⟨⟨⟨⟨⟨a, b⟩, c⟩, d⟩, e⟩, f⟩, g⟩ := h
  have e' : ∀ p ∈ (s.die (dieOf s.cur)).phase, p.ending = false := by
    intro p hp
    cases q : (s.die (dieOf s.cur)).phase with
    | none => rw [q] at hp; exact absurd hp (by simp)
    | some x =>
      rw [q] at hp e
      obtain rfl : x = p := by simpa using hp
      simpa using e
  exact { closed := a, carry := b, pending := c, verdicts := d, phase := e', loops := fun i => f i (List.mem_finRange i), lockstep := g }

theorem mayTrap_of {s : State} (h : s.me.ctl.handler = false ∧ s.me.ctl.trapVec ≠ 0 ∧ s.inPhase s.cur = false) : s.MayTrap :=
  ⟨h.1, h.2.1, h.2.2⟩

/-- A core in user code that may take its next bundle, and may trap. -/
theorem ready_user : (one (runs false)).Ready ∧ (one (runs false)).MayTrap := ⟨ready_of (by decide), mayTrap_of (by decide)⟩

/-- A core in its trap handler, ready. -/
theorem ready_handler : (one (runs true)).Ready ∧ (one (runs true)).me.ctl.priv = true := ⟨ready_of (by decide), by decide⟩

/-- The reset state itself is ready: a core whose registers nothing has written. -/
theorem ready_reset : State.reset.Ready := ready_of (by decide)

theorem witness_ScalarIntegerOperations : (one (runs false)).Ready := ready_user.1
theorem witness_ScalarMultiplyDivideAndBitFields : (one (holding 2 (2 ^ 63))).Ready := ready_of (by decide)
theorem witness_ScalarFloatResults : (one (holding 2 0x7FC00000)).Ready := ready_of (by decide)

/-- Taken at LTZ of -1 and not at 0; jumps to 64, a multiple of 32, and to 33, which is none. -/
theorem witness_BranchesAndJumps :
    ((one (holding 2 (-1))).Ready ∧ ((one (holding 2 (-1))).sReg 2).toInt < 0) ∧ ((one (holding 2 64)).sReg 2).toNat % 32 = 0 ∧
    ((one (holding 31 64)).sReg 31).toNat % 32 = 0 ∧
    ((one (holding 31 33 ∘ holding 2 33 ∘ runs false)).Ready ∧ (one (holding 31 33 ∘ holding 2 33 ∘ runs false)).MayTrap ∧
      ((one (holding 31 33 ∘ holding 2 33 ∘ runs false)).sReg 2).toNat % 32 ≠ 0 ∧
      ((one (holding 31 33 ∘ holding 2 33 ∘ runs false)).sReg 31).toNat % 32 ≠ 0) := by
  repeat' first
    | decide +kernel
    | exact ready_of (by decide +kernel)
    | exact ⟨ready_of (by decide +kernel), by decide⟩
    | exact mayTrap_of (by decide +kernel)
    | with_reducible refine And.intro ?_ ?_

/-- Registers below 0x400 in user code, the first supervisor register in a handler, an undefined and a read-only one; a save area whose frames are
free, and one whose frame 0 is taken. -/
theorem witness_ControlRegisters :
    let h := one (runs true)
    (one (runs false)).Ready ∧ (isQueueReg 0x020 = false ∧ cregDefined 0x020 = true ∧ cregFixed 0x020 = false ∧ cregUserFixed 0x020 = false) ∧
    h.Ready ∧ h.me.ctl.priv = true ∧ h.me.run = some (soloRun 1) ∧ (isQueueReg 0x400 = false ∧ cregDefined 0x400 = true ∧ cregFixed 0x400 = false) ∧
    (one (runs false)).MayTrap ∧ (one (runs false)).me.ctl.priv = false ∧ cregDefined 0x3FF = false ∧ cregUserFixed 0x000 = true ∧ cregFixed 0x480 = true ∧
    ((one id).die 0).frames = [] ∧ ({ one id with dies := Vector.replicate 8 { frames := [0] } }.die 0).frames ≠ [] := by
  repeat' first
    | decide +kernel
    | exact ready_user.1
    | exact ready_handler.1
    | exact ready_user.2
    | with_reducible refine And.intro ?_ ?_

/-- A pool in service and one that is not, which a base of 0 lets start and the highest base does not; a window in service, one that a write of WCFG
would start, and one that it would not, for want of contributors. -/
theorem witness_ModuleRegistersReadBack :
    let s := { one id with pool := { base := 1 }, windows := Vector.ofFn fun i => if i.val = 15 then { cfg := 2 ^ 63 } else {} }
    let t := one id
    let fits (v : Nat) : Bool := decide (v / 2 ^ 20 % 2 ^ 28 * 2 ^ 20 + 160 * 4096 * 2 ^ 20 ≤ 0xC000000000)
    s.settled.pool.base.getLsbD 0 = true ∧ (s.settled.window 15).cfg.getLsbD 63 = true ∧ t.settled.pool.base.getLsbD 0 = false ∧
    t.settled.pool.size.toNat % 2 ^ 20 = 0 ∧ fits 1 = true ∧ fits (2 ^ 48 - 1) = false ∧ (t.settled.window 0).cfg.getLsbD 63 = false ∧
    t.settled.windowRefused 0 { cfg := 2 ^ 63 + 2 ^ 24 } = false ∧ t.settled.windowRefused 0 { cfg := 2 ^ 63 } = true := by decide +kernel

/-- Queues empty, with a word, and full, in a module in service and in one that is not. -/
theorem witness_HardwareQueues :
    let d : Die := { h2d := [7], ack := List.replicate 15 0, qmsg := List.replicate 63 1, qerr := List.replicate 255 2, d2h := List.replicate 255 3, fifo := List.replicate 15 ⟨0, 0, none⟩ }
    let e : Die := { d2h := List.replicate 256 0, ack := List.replicate 16 0, qmsg := List.replicate 64 1, qerr := List.replicate 256 2, fifo := List.replicate 16 ⟨0, 0, none⟩ }
    let s := { one (runs true) with dies := Vector.replicate 8 d }
    let t := { one (runs true) with dies := Vector.replicate 8 e, service := true }
    s.Ready ∧ s.me.ctl.priv = true ∧ d.h2d = 7 :: [] ∧ d.ack.length < 16 ∧ d.qmsg.length < 64 ∧ d.d2h.length < 256 ∧ d.payDiscard.qerr.length < 256 ∧
    d.fifo.length < 16 ∧ s.accepts = false ∧ { s with service := true }.accepts = true ∧
    t.Ready ∧ t.me.ctl.priv = true ∧ e.h2d = [] ∧ 256 ≤ e.d2h.length ∧ 16 ≤ e.ack.length ∧ 64 ≤ e.qmsg.length ∧ 256 ≤ e.payDiscard.qerr.length ∧
    t.accepts = true ∧ 16 ≤ e.fifo.length := by
  repeat' first
    | decide +kernel
    | exact ready_of (by decide +kernel)
    | with_reducible refine And.intro ?_ ?_

theorem witness_TrapsAreTaken : (one (runs false)).Ready ∧ (one (runs false)).MayTrap := ready_user

/-- A handler with a saved context; user code that may not ERET; user code that may HALT. -/
theorem witness_ReturnsAndHalts :
    let s := one fun x => (runs true x).modFlow fun f => { f with save := some (runs false {}).trapSave }
    s.Ready ∧ s.me.ctl.priv = true ∧ s.me.flow.save = some (runs false {}).trapSave ∧ s.me.ctl.handler = true ∧ s.inPhase s.cur = false ∧
    (one (runs false)).Ready ∧ (one (runs false)).MayTrap ∧ (one (runs false)).me.ctl.priv = false ∧ (one (runs false)).me.ctl.handler = false := by
  repeat' first
    | decide +kernel
    | exact ready_of (by decide +kernel)
    | exact ready_user.1
    | exact ready_user.2
    | with_reducible refine And.intro ?_ ?_

/-- A sleeper with a signal, one whose time has come, one that must wait, one with a mapped line to watch; a signal to core 0 of gang 0, one that is
due and one whose sender has a store on its way; a core frozen in SLEEP, and one that waits for a class. -/
theorem witness_SleepSignalAndWaking :
    let s := one fun x => (runs false x).modFlow fun f => { f with signal := true }
    let t := { one (holding 2 5 ∘ runs false) with now := 5 }
    let w := one (holding 2 0x10000 ∘ mapped ∘ runs false)
    let m : SignalMsg := ⟨0, 1, 1, 0, 0⟩
    let e : MemOp := ⟨1, 0, .store 0, 0x20000, 8, false, false, .core, false, false⟩
    s.Ready ∧ s.me.flow.signal = true ∧ s.me.flow.sleepWoken = none ∧ s.me.flow.sleepFault = none ∧ s.sReg 3 = 0 ∧ t.Ready ∧ t.sReg 2 ≠ 0 ∧
    (t.sReg 2).toNat ≤ t.now ∧ w.Ready ∧ w.sReg 2 ≠ 0 ∧ w.me.flow.sleepArmed = false ∧ (w.page? .read (w.sReg 2) 1).isSome = true ∧
    s.me.run = some (soloRun 1) ∧ (s.sReg 4).toNat < (soloRun 1).g ∧ (s.sReg 4).toNat < (soloRun 1).d ∧
    ((one fun x => x.modFlow fun f => { f with frozen := some .sleep }).core 0).flow.frozen = some .sleep ∧
    { s with signals := [m] }.signals[0]? = some m ∧ s.releaseWaits 0 1 = false ∧ (s.core 0).mem.memq = [] ∧
    ((one fun x => x.modMem fun l => { l with memq := [e] }).core 0).mem.memq.any (fun e => decide (e.bun < m.bun)) = true ∧
    (3 : BitVec 3) ∈ (one fun x => x.modFlow fun f => { f with power := some 3 }).me.flow.power := by
  repeat' first
    | decide +kernel
    | exact ready_of (by decide +kernel)
    | with_reducible refine And.intro ?_ ?_

theorem witness_ReadingsAndPowerClasses :
    (one (runs false)).Ready ∧ (one (runs false)).me.run = some (soloRun 1) ∧ ((one (runs false)).sReg 3).toNat % 8 ≤ (one (runs false)).me.ctl.cls.toNat :=
  ⟨ready_user.1, by decide, by decide⟩

/-- A node of handle 0 and index 0, RUNNING, in a die whose FIFO has room; one whose node waits, and a query that is the only request of its die. -/
theorem witness_SpawnCancelAndNodeStates :
    let s := { one (runs false) with nodes := [soloNode 1], graphs := [soloGraph], nextNode := 2, service := true }
    let a : Ask := { kind := .query 0 0 }
    let t := { s with nodes := [{ soloNode 1 with state := NodeState.ready }], dies := Vector.replicate 8 { asks := [a] } }
    s.Ready ∧ s.launchRoom s.myDie = true ∧ State.reset.launchRoom 0 = false ∧ s.graph? 0 = some soloGraph ∧ (soloGraph.nnodes = 1 ∧ soloGraph.finalAt = none ∧ a.own = none) ∧
    s.nodeAt 0 0 = some (soloNode 1) ∧ t.nodeAt 0 0 = some { soloNode 1 with state := NodeState.ready } ∧ (t.node? 1).isSome = true ∧ (t.die 0).asks = [a] := by
  repeat' first
    | decide +kernel
    | exact ready_of (by decide +kernel)
    | with_reducible refine And.intro ?_ ?_


/-- FP32 rows and I8 rows: sources and a destination of one tag, guarded. -/
theorem witness_VectorArithmeticAndLogic :
    let s := one (tagged .FP32)
    let i := one (tagged .I8)
    s.Ready ∧ s.Reads (.t 1) ∧ s.Writes (.t 0) ∧ s.SameTags (.t 1) (.t 2) ∧ s.me.viewTag (.t 1) (some (.t 2)) = .FP32 ∧ s.Guardable 1 (.t 0) .FP32 .FP32 ∧
    i.Ready ∧ i.SameTags (.t 1) (.t 2) ∧ tagInt (i.me.viewTag (.t 1) (some (.t 2))) = true ∧ i.me.viewTag (.t 1) none ≠ .EMPTY :=
  ⟨ready_of (by decide), trivial, trivial, Or.inr (Or.inr (by decide)), by decide, Or.inr ⟨by decide, by decide, by decide⟩, ready_of (by decide),
    Or.inr (Or.inr (by decide)), by decide, by decide⟩

/-- A stream of four rows from offset 0, its head arrived. -/
def stream4 (write : Bool) : Stream :=
  { write := write, space := false, shape := .row .w512, tag := .FP32, base := 0, count0 := 4, stride0 := 512, count1 := 1, stride1 := 0, count2 := 1
    stride2 := 0, done := 1 }

def streamed (write : Bool) (x : Core) : Core := x.modMem fun m => { m with streams := [(1, stream4 write)] }

theorem witness_RowOperandsReadAsNamed : (one (streamed false)).me.stream? 1 = some (stream4 false) ∧ (0 : Int) ≤ (stream4 false).offset (stream4 false).pos := by
  decide

/-- A read stream is a source and a write stream a destination; a compare of FP32 rows into p3. -/
theorem witness_CompareSelectAndPredicateResults :
    let s := one (streamed false ∘ tagged .FP32)
    let t := one (streamed true ∘ tagged .FP32)
    s.Ready ∧ s.Reads (.q 1) ∧ s.Reads (.t 1) ∧ s.SameTags (.q 1) (.t 1) ∧ s.me.viewTag (.q 1) (some (.t 1)) = .FP32 ∧ (3 : BitVec 2) ≠ 0 ∧
    t.Ready ∧ t.Writes (.q 1) ∧ t.Guardable 0 (.q 1) .FP32 .FP32 := by
  repeat' first
    | decide +kernel
    | exact ready_of (by decide +kernel)
    | exact stream4 false
    | exact ⟨stream4 false, by decide⟩
    | exact ⟨⟨stream4 false, by decide⟩, by decide⟩
    | exact trivial
    | exact Or.inr (Or.inr (by decide +kernel))
    | exact stream4 true
    | exact ⟨stream4 true, by decide⟩
    | exact Or.inl rfl
    | with_reducible refine And.intro ?_ ?_

theorem witness_VectorMoveResults :
    let s := one (tagged .BF16)
    s.Ready ∧ s.Reads (.t 1) ∧ s.Reads (.t 2) ∧ s.Writes (.t 0) ∧ s.me.viewTag (.t 1) none = .BF16 ∧ s.Guardable 0 (.t 0) .BF16 .BF16 ∧ (255 : BitVec 8).toNat < tagCount .BF16 :=
  ⟨ready_of (by decide), trivial, trivial, trivial, by decide, Or.inl rfl, by decide⟩

/-- A group of four I8-wide rows at T0.0 and at its last aligned place. -/
theorem witness_ConversionsOfRows :
    let s := one (tagged .I8)
    s.Ready ∧ s.Reads (.t 1) ∧ s.me.viewTag (.t 1) none = .I8 ∧ s.Guardable 0 (.t 0) .I8 .FP32 ∧ s.GroupAt (.t 0) 4 0 ∧ s.GroupAt (.t 124) 4 124 ∧
    tagBits .FP32 = 4 * tagBits .I8 ∧ tagFloat .FP32 = true ∧ tagInt .I8 = true := by
  repeat' first
    | decide +kernel
    | exact ready_of (by decide +kernel)
    | exact trivial
    | exact Or.inl rfl
    | exact ⟨by decide, by decide⟩
    | with_reducible refine And.intro ?_ ?_

/-- Four FP32 rows to quantise by LS; a BX4 row whose blocks are one block of scale 0. -/
theorem witness_BlockFormatResults :
    let s := one (fun x => (tagged .FP32 x).modRegs fun r => { r with ls := 0x3F800000 })
    let t := one (fun x => (tagged .BX4 x).modRegs fun r => { r with t := Vector.replicate 128 (BitVec.ofNat 4096 (2 ^ 2048)) })
    s.Ready ∧ s.Reads (.latch .LS) ∧ s.Writes (.o 0) ∧ s.GroupAt (.t 4) 4 4 ∧ s.me.rowTag (.t 4) = .FP32 ∧
    t.Ready ∧ t.me.rowTag (.t 0) = .BX4 ∧ t.Guardable 0 (.o 0) .E4M3 .E4M3 ∧ (t.rowBits .BX4 (.t 0)).toNat / 2 ^ 2048 % 2 = 1 := by
  repeat' first
    | decide +kernel
    | exact ready_of (by decide +kernel)
    | exact trivial
    | exact ⟨by decide, by decide⟩
    | exact Or.inl rfl
    | with_reducible refine And.intro ?_ ?_

theorem witness_ReductionAndScanResults :
    let s := one (tagged .I32)
    s.Ready ∧ s.Reads (.t 1) ∧ s.Writes (.t 0) ∧ tagInt (s.me.viewTag (.t 1) none) = true ∧ s.Guardable 0 (.t 0) .I32 .I32 :=
  ⟨ready_of (by decide), trivial, trivial, by decide, Or.inl rfl⟩

theorem witness_SpecialFunctionResults :
    let s := one (tagged .FP16)
    s.Ready ∧ s.Reads (.t 1) ∧ s.Writes (.t 0) ∧ s.me.viewTag (.t 1) none ∈ [Tag.FP32, .BF16, .FP16] ∧ s.Guardable 0 (.t 0) .FP16 .FP16 :=
  ⟨ready_of (by decide), trivial, trivial, by decide, Or.inl rfl⟩

/-- EMPTY rows, rows of two tags, and Q1 unbound or bound the wrong way. -/
theorem witness_VectorTagAndOperandTraps :
    let s := one (runs false)
    let t := one fun x => (runs false x).modRegs fun r => { r with tTag := Vector.ofFn fun i => if i.val = 0 then .I8 else .FP32 }
    s.Ready ∧ s.MayTrap ∧ s.Reads (.t 1) ∧ s.me.viewTag (.t 1) (some (.t 2)) = .EMPTY ∧ s.me.stream? 1 = none ∧
    t.Ready ∧ t.MayTrap ∧ ¬ t.SameTags (.t 0) (.t 8) ∧ t.Writes (.t 0) ∧ t.me.destTag (.t 0) ≠ .EMPTY ∧
    ∀ b, (one (streamed true ∘ runs false)).me.stream? 1 = some b → b.write = true :=
  ⟨ready_user.1, ready_user.2, trivial, by decide, by decide, ready_of (by decide), mayTrap_of (by decide), by rintro (h | h | h) <;> revert h <;> decide, trivial, by decide,
    fun b h => by cases h; rfl⟩

/-- Headers of profiles 7 and 8, a pop of Q1, and a core that SYNC has let go on. -/
theorem witness_BundleHeaders :
    let s := one (streamed false ∘ runs false)
    s.Ready ∧ s.MayTrap ∧ (7 : BitVec 5).toNat < 8 ∧ 8 ≤ (8 : BitVec 5).toNat ∧ s.Pops 0 ∧ s.Pops 2 ∧ s.me.ctl.handler = false ∧
    (one fun x => x.modFlow fun f => { f with synced := true }).me.flow.synced = true ∧ (s.die s.myDie).phase = none := by
  repeat' first
    | decide +kernel
    | exact ready_of (by decide +kernel)
    | exact mayTrap_of (by decide +kernel)
    | exact fun q h => absurd h (by revert q; decide)
    | exact fun q h => ⟨stream4 false, by revert q; decide⟩
    | with_reducible refine And.intro ?_ ?_

theorem witness_AddressRegistersAndLoops :
    let l : Loop := ⟨true, 3, 0, 2⟩
    let s := one fun x => x.modFlow fun f => { f with loops := f.loops.set 0 l }
    (one id).Ready ∧ s.Between ∧ s.lockstep s.cur = none ∧ (s.me.flow.loops.get 0).act = true ∧ (s.me.flow.loops.get 0).e = s.me.flow.pc ∧
    (s.me.flow.loops.get 0).rc ≠ 1 := by
  repeat' first
    | decide +kernel
    | exact ready_of (by decide +kernel)
    | exact ⟨by decide, by decide, by decide, by decide, by decide⟩
    | with_reducible refine And.intro ?_ ?_

/-- A descriptor of zeros, in and outside the scratchpad, a bound stream, and an acquire that holds the read of the descriptor. -/
theorem witness_StreamBindings :
    let s := one (streamed false ∘ runs false)
    let e : MemOp := ⟨1, 0, .atomic .ld 0 0, 0x20000, 8, true, false, .core, false, false⟩
    let t := one fun x => (x.modMem fun w => { w with memq := [e] }).modFlow fun f => { f with bun := 1 }
    s.Ready ∧ s.MayTrap ∧ ((s.aReg 0).toNat % 32 = 0 ∧ (s.aReg 0).toNat + 80 ≤ 262144) ∧ s.me.stream? 1 = some (stream4 false) ∧ s.me.stream? 2 = none ∧
    ¬ ((1 : Nat) % 32 = 0 ∧ 1 + 80 ≤ 262144) ∧ s.me.mem.memq = [] ∧ t.Ready ∧ e ∈ t.me.mem.memq ∧ e.holds t.me.flow.bun 0 = true ∧ e.holds t.me.flow.bun 1 = true := by
  repeat' first
    | decide +kernel
    | exact ready_of (by decide +kernel)
    | exact mayTrap_of (by decide +kernel)
    | with_reducible refine And.intro ?_ ?_

theorem canonical_of {s : State} {x : Core} (h : s.hbm = []) (k : s.clusters = []) (c : s.cores = [(0, x)]) (m : x.mem.spad = []) : s.MemCanonical := by
  refine ⟨by rw [h]; rfl, by simp [k], ?_⟩
  intro p hp
  rw [c, List.mem_singleton] at hp
  subst hp
  rw [m]
  rfl

theorem canonical_one (f : Core → Core) (h : (f {}).mem.spad = []) : (one f).MemCanonical := canonical_of rfl rfl rfl h

/-- Row and scalar accesses at the last places of the scratchpad and of the shared SRAM, and an access that an acquire holds in the queue. -/
theorem witness_LocalLoadsAndStores :
    let s := one (tagged .FP32)
    let e : MemOp := ⟨1, 0, .atomic .ld 0 0, 0x20000, 8, true, false, .core, false, false⟩
    let t := one fun x => (tagged .FP32 (x.modMem fun w => { w with memq := [e] })).modFlow fun f => { f with bun := 1 }
    s.Ready ∧ s.MemCanonical ∧ s.Writes (.t 0) ∧ s.Reads (.t 0) ∧ s.me.rowTag (.t 0) ≠ .EMPTY ∧ fitsIn 262144 (.row .w512) 261632 = true ∧
    fitsIn 262144 (.col .e4) 0 = true ∧ fitsIn 2097152 (.row .w32) 2097120 = true ∧ 262136 % 8 = 0 ∧ 262136 + 8 ≤ 262144 ∧
    ¬ s.LocalWaits false true [0] ∧ t.Ready ∧ t.LocalWaits false false [0] ∧ t.LocalWaits true true [0] := by
  repeat' first
    | decide +kernel
    | exact ready_of (by decide +kernel)
    | exact canonical_one _ rfl
    | exact trivial
    | (rintro ⟨e, h, -⟩; cases h; done)
    | exact _
    | exact List.mem_singleton.mpr rfl
    | exact Or.inl (by decide +kernel)
    | exact ⟨_, List.mem_singleton.mpr rfl, Or.inl (by decide +kernel)⟩
    | with_reducible refine And.intro ?_ ?_

/-- A remote read in the queue, a result whose time has come, one that its data keep back, and two rows for one stream. -/
theorem witness_RemoteRowsAndArrivals :
    let m : MemOp := ⟨1, 0, .remote 1 (.row .w512), 0, 512, false, false, .core, false, false⟩
    let p : Pending := { left := 0, res := .scalar 3 true 5, young := false, slot := 1 }
    let q (k : Nat) : Pending := { left := 0, res := .row (.stream 1) 0 .FP32 none, young := false, slot := k }
    let s := one fun x => (x.modMem fun w => { w with memq := [m] }).modFlow fun f => { f with pending := [p] }
    (one id).Ready ∧ (one id).Writes (.t 0) ∧ fitsIn 262144 (.row .w512) 0 = true ∧ s.eligible 0 0 = some m ∧ s.me.flow.pending = p :: [] ∧
    (p.left = 0 ∧ p.young = false ∧ p.ready = true ∧ p.need = 0) ∧ { p with need := 1 }.need ≠ 0 ∧ p.res.clash p.res = true ∧
    (q 3).res = (q 2).res ∧ (q 2).slot < (q 3).slot := by
  repeat' first
    | decide +kernel
    | exact ready_of (by decide +kernel)
    | exact trivial
    | exact rfl
    | with_reducible refine And.intro ?_ ?_

/-- A store at the last byte of a scratchpad, from a core with no store unseen; a lock of one bank pair, and a core that is frozen on SYNC. -/
theorem witness_LateStoresAndLocks :
    let s := one fun x => x.modCtl fun t => { t with lockN := 1, lockP := 1 }
    ([(262143, (7 : Byte))].map (·.1)).Nodup ∧ 262143 < spadSize ∧ ((one id).core 0).mem.unseen = [] ∧ fitsIn spadSize (.row .w512) 261632 = true ∧
    s.me.ctl.lockN ≠ 0 ∧ s.me.ctl.lockP.getLsbD (1 / 2) = true ∧ s.me.lockHolds [1] = true ∧ s.me.lockHolds [2] = false ∧
    (s.me.modFlow fun f => { f with frozen := some (.sync .gang) }).lockHolds [1] = false := by decide +kernel

/-- Offsets past the end, a misaligned address, and an address that no page maps. -/
theorem witness_MemoryAccessTraps :
    let s := one (mapped ∘ tagged .FP32 ∘ runs false)
    s.Ready ∧ s.MayTrap ∧ s.Writes (.t 0) ∧ s.Reads (.t 0) ∧ fitsIn 262144 (.row .w512) 262144 = false ∧ fitsIn 262144 (.row .w32) 16 = false ∧
    s.me.buffered < 64 ∧ s.mayWalk 0x10000 = true ∧ (0x10004 : Word).toNat % 8 ≠ 0 ∧ (s.pageTrap? .read 0x20000 8).isSome = true := by
  repeat' first
    | decide +kernel
    | exact ready_of (by decide +kernel)
    | exact mayTrap_of (by decide +kernel)
    | exact trivial
    | with_reducible refine And.intro ?_ ?_

/-- The page at 0x1_0000 is readable and writable; an SC page whose core has an earlier access to one on its way. -/
theorem witness_GlobalLoadsAndStores :
    let s := one (mapped ∘ tagged .FP32 ∘ runs false)
    let l : Leaf := { page1 with sc := true }
    let e : MemOp := ⟨1, 0, .store 0, 0x20000, 8, false, false, .core, true, false⟩
    let t := one fun x => (tagged .FP32 (runs false x)).modMem fun m => { m with tlb := [l], memq := [e] }
    s.Ready ∧ s.mayWalk 0x10000 = true ∧ s.me.buffered < 64 ∧ (s.page? .read 0x10000 8).isSome = true ∧ (s.page? .write 0x1FFF8 8).isSome = true ∧
    (s.page? .read 0x10000 512).isSome = true ∧ s.calendar.hold = false ∧ s.InScOrder page1 ∧ t.Ready ∧ (t.page? .read 0x10000 8).map (·.1) = some l ∧ ¬ t.InScOrder l := by
  repeat' first
    | decide +kernel
    | exact ready_of (by decide +kernel)
    | (simp [State.InScOrder, page1]; done)
    | exact fun h => absurd (h rfl) (by decide +kernel)
    | with_reducible refine And.intro ?_ ?_


/-- A prefetch of a mapped page of HBM and one of a page that nothing maps; FLUSHMS in a handler and in user code. -/
theorem witness_PrefetchAndCacheControl :
    let s := one (mapped ∘ runs false)
    let t := one (mapped ∘ runs true)
    s.Ready ∧ s.MayTrap ∧ s.calendar.hold = false ∧ s.mayWalk 0x10000 = true ∧ (s.page? .read 0x10000 512).isSome = true ∧ (s.pageTrap? .read 0x20000 8).isSome = true ∧
    s.me.ctl.priv = false ∧ t.Ready ∧ t.me.ctl.priv = true := by
  repeat' first
    | decide +kernel
    | exact ready_of (by decide +kernel)
    | exact mayTrap_of (by decide +kernel)
    | with_reducible refine And.intro ?_ ?_

/-- An atomic on a page that allows it; one on an SC page while an earlier access to one is on its way. -/
theorem witness_AtomicsAreSentHome :
    let s := one (holding 2 0x1FFF8 ∘ mapped ∘ runs false)
    let l : Leaf := { page1 with sc := true }
    let t := one fun x => (holding 2 0x1FFF8 (runs false x)).modMem fun m => { m with tlb := [l], memq := [⟨1, 0, .store 0, 0x20000, 8, false, false, .core, true, false⟩] }
    s.Ready ∧ s.mayWalk (s.sReg 2) = true ∧ (s.sReg 2).toNat % 8 = 0 ∧ (s.page? .atomic (s.sReg 2) 8).map (·.1) = some page1 ∧ s.InScOrder page1 ∧
    t.Ready ∧ (t.page? .atomic (t.sReg 2) 8).map (·.1) = some l ∧ ¬ t.InScOrder l := by
  repeat' first
    | decide +kernel
    | exact ready_of (by decide +kernel)
    | (simp [State.InScOrder, page1]; done)
    | exact fun h => absurd (h rfl) (by decide +kernel)
    | with_reducible refine And.intro ?_ ?_

/-- A store, a load and an atomic on HBM, each the first of its queue; a load whose line the read cache holds. -/
theorem witness_AccessesArePerformed :
    let m (k : MemKind) : MemOp := ⟨1, 0, k, 0x20000, 8, false, false, .core, false, false⟩
    let s (k : MemKind) : State := one fun x => x.modMem fun w => { w with memq := [m k] }
    let t : State := { s (.load 0 none false) with clusters := [(0, { cache := [⟨0x400, 0, 0⟩] })] }
    ((s (.store 5)).eligible 0 0 = some (m (.store 5)) ∧ (s (.store 5)).place 0x20000 = .hbm ∧ (s (.store 5)).badLines = [] ∧ (s (.store 5)).lostModules = [] ∧
      (s (.store 5)).MemCanonical) ∧
    ((s (.load 0 none false)).eligible 0 0 = some (m (.load 0 none false)) ∧ (s (.load 0 none false)).place 0x20000 = .hbm ∧
      (s (.load 0 none false)).replicaFor 0 0x400 = none) ∧
    ((t.cluster (clusterOf 0)).cache.find? fun e => e.line == 0x400).isSome = true ∧ (s (.atomic .add 1 0)).eligible 0 0 = some (m (.atomic .add 1 0)) := by
  repeat' first
    | decide +kernel
    | exact canonical_one _ rfl
    | with_reducible refine And.intro ?_ ?_

/-- Bulk transfers of one row: one to be started, one that may move its row, and tags closed, open, promised and missed. -/
def get1 : Bulk :=
  { id := 1, bun := 0, tag := 3, kind := .get, shape := .row .w512, g := 0x10000, l := 0, gstride := 512, lstride := 512, rows := 1, pages := [(1, 0x20000)]
    promise := 9 }

theorem witness_BulkTransfersAndTags :
    let s := one (mapped ∘ runs false)
    let t := one fun x => x.modMem fun m =>
      { m with bulk := [get1], tags := (m.tags.set 3 { isOpen := true, promise := 9 }).set 4 { isOpen := true, missed := true } }
    let u := one fun x => x.modMem fun m => { m with bulk := [{ get1 with part := 4 }] }
    let w := one fun x => x.modMem fun m => { m with bulk := [{ get1 with kind := .put }] }
    let b : Bulk := { get1 with pages := [], promise := 0 }
    s.Ready ∧ s.calendar.hold = false ∧ s.MayTrap ∧ 2 ≤ s.me.ctl.bal ∧ s.me.scBusy = false ∧ (s.bulkCheck .bulkRead b 262144 0 1).2.toOption.isSome = true ∧
    (s.bulkCheck .bulkRead { b with g := 0x10004 } 262144 0 1).2.toOption.isSome = false ∧ t.MemCanonical ∧ t.bulkReady 0 0 = some get1 ∧ get1.isOut = false ∧
    get1.next < get1.rows ∧ t.badLines = [] ∧ t.lostModules = [] ∧ t.place (get1.pa (get1.global 0)) = .hbm ∧ fitsIn 262144 get1.shape (get1.loc 0) = true ∧
    u.bulkReady 0 0 = some { get1 with part := 4 } ∧ w.bulkReady 0 0 = some { get1 with kind := .put } ∧
    t.Ready ∧ (t.me.mem.tags.get 3).isOpen = true ∧ t.now < (t.me.mem.tags.get 3).promise ∧ (t.me.mem.tags.get 4).missed = true ∧
    (t.me.mem.tags.get 5).isOpen = false := by
  repeat' first
    | decide +kernel
    | exact ready_of (by decide +kernel)
    | exact mayTrap_of (by decide +kernel)
    | exact canonical_one _ rfl
    | with_reducible refine And.intro ?_ ?_

/-- A transfer of an SC page that waits for the core's store to one; a promise that has come, its transfer complete and not; no tokens. -/
theorem witness_BulkTransfersWait :
    let l : Leaf := { page1 with sc := true }
    let s := one fun x => (runs false x).modMem fun m => { m with tlb := [l], memq := [⟨1, 0, .store 0, 0x20000, 8, false, false, .core, true, false⟩] }
    let t := { one (fun x => (runs false x).modMem fun m => { m with bulk := [get1], tags := (m.tags.set 3 { isOpen := true, promise := 9 }).set 4 { isOpen := true } }) with now := 9 }
    let u := one fun x => (mapped (runs false x)).modCtl fun t => { t with bal := 0 }
    s.Ready ∧ s.me.scBusy = true ∧ (s.page? .bulkRead 0x10000 512).map (·.1) = some l ∧ t.Ready ∧ (t.me.mem.tags.get 3).promise ≤ t.now ∧
    get1 ∈ t.me.mem.bulk ∧ get1.tag = 3 ∧ (t.me.mem.tags.get 4).promise ≤ t.now ∧ (∀ b ∈ t.me.mem.bulk, b.tag ≠ 4) ∧ u.Ready ∧ u.me.ctl.bal < 2 := by
  repeat' first
    | decide +kernel
    | exact ready_of (by decide +kernel)
    | with_reducible refine And.intro ?_ ?_

/-- Engine writes to a line and to the last byte of a scratchpad, the first of their core; one behind another; a transfer whose rows are moved, and one
whose write is still to be performed. -/
theorem witness_EngineWrites :
    let a : OutWrite := ⟨some 1, 0, .line 0x20000 [7], false⟩
    let b : OutWrite := ⟨none, 0, .spad [(262143, 7)], false⟩
    let s := one fun x => x.modMem fun m => { m with outs := [a, a, b, b], bulk := [{ get1 with next := 1 }, { get1 with id := 2, next := 1 }] }
    (s.core 0).mem.outs[0]? = some a ∧ (s.core 0).mem.outs[2]? = some b ∧ s.badLines = [] ∧ s.lostModules = [] ∧ s.MemCanonical ∧ s.place 0x20000 = .hbm ∧
    s.calendar.hold = false ∧ (s.core 0).lockHolds [bankOf 262143] = false ∧ (∀ e ∈ (s.core 0).mem.outs.take 2, ∀ w, e.dest ≠ .spad w) ∧
    (s.core 0).mem.outs.take 1 = [a] ∧ (s.core 0).mem.bulk[0]? = some { get1 with next := 1 } ∧ (∀ o ∈ (s.core 0).mem.outs, o.bulk ≠ some 2) ∧
    (one fun x => x.modMem fun m => { m with outs := [a], bulk := [{ get1 with kind := .cnout 5 0 }] }).bulkReady 0 0 = some { get1 with kind := .cnout 5 0 } := by
  repeat' first
    | decide +kernel
    | exact rfl
    | exact canonical_one _ rfl
    | (intro e he w; fin_cases he <;> exact of_decide_eq_false rfl)
    | with_reducible refine And.intro ?_ ?_

/-- R366: of two writes of drains to SC pages the later waits, whatever their lines; of two writes of transfers it does not. -/
theorem test_sc_drains :
    let l (sc : Bool) : List OutWrite := [⟨none, 0, .line 0x30000 [7], sc⟩, ⟨none, 0, .line 0x20000 [7], sc⟩]
    (one fun x => x.modMem fun m => { m with outs := l true }).writeReady 0 1 = none ∧
    ((one fun x => x.modMem fun m => { m with outs := l false }).writeReady 0 1).isSome = true := ⟨by decide, by decide⟩

theorem witness_FencesLeaveWhenEarlierAccessesAreDone :
    let s := one id
    s.Ready ∧ (s.me.mem.memq = [] ∧ s.me.mem.bulk = [] ∧ s.me.mem.outs = [] ∧ s.me.mem.unseen = [] ∧ s.me.mem.owed = [] ∧ s.me.mat.cmds = [] ∧ s.reaping = []) ∧
    (7 : BitVec 8) ≠ 0 :=
  ⟨ready_of (by decide), by decide, by decide⟩

/-- A contribution by a mapped address, to no window and to window 15; a write of WCFG that has become due, for a window in service and for one that is
not, allowed and not; a contribution in the queue, and one from a peer. -/
theorem witness_ReductionWindows :
    let x : Window := { base := 0x20000, cfg := 2 ^ 63 + 2 ^ 57 + 2 ^ 24, done := 0x30000 }
    let s := one (holding 2 0x10000 ∘ mapped ∘ runs false)
    let h := { s with windows := Vector.ofFn fun i => if i.val = 15 then x else {} }
    let l : LateWrite := ⟨4, 0x435, 2 ^ 63, 0⟩
    let t := { one id with late := [l], now := 4 }
    let m : MemOp := ⟨1, 0, .contrib 15 5 0, 0x20000, 8, false, false, .core, false, false⟩
    let q : State := { h with cores := [(0, ({} : Core).modMem fun w => { w with memq := [m] })] }
    s.Ready ∧ s.MayTrap ∧ s.mayWalk (s.sReg 2) = true ∧ (s.sReg 2).toNat % 8 = 0 ∧ (s.page? .window (s.sReg 2) 8).map (·.1) = some page1 ∧ s.InScOrder page1 ∧
    (h.page? .window (h.sReg 2) 8).map (·.2) = some 0x20000 ∧ ((h.window 15).en = true ∧ (h.window 15).first ≤ 0x20000 ∧ 0x20000 < (h.window 15).last) ∧
    t.late = l :: [] ∧ l.at_ ≤ t.now ∧ l.creg.toNat = 0x431 + 4 * (1 : BitVec 4).toNat ∧ (t.window 1).cfg.toNat / 2 ^ 63 = 0 ∧
    (h.window 15).cfg.toNat / 2 ^ 63 = 1 ∧ q.eligible 0 0 = some m ∧ q.badLines = [] ∧ q.lostModules = [] ∧ h.calendar.hold = false ∧ h.linkQ = [] ∧
    (h.window 15).cfg.toNat / 2 ^ 57 % 2 = 1 ∧ { h with homeCfgs := [(15, 0)], domMod := 1 }.homeCfgs.lookup 15 = some 0 := by
  repeat' first
    | decide +kernel
    | exact ready_of (by decide +kernel)
    | exact mayTrap_of (by decide +kernel)
    | (simp [State.InScOrder, page1]; done)
    | exact rfl
    | with_reducible refine And.intro ?_ ?_

/-- A core ready to ask the directory, and one whose verdict has been given; a root to swap that is mapped with CN, and pages of a leaf for CNOUT. -/
theorem witness_ContentNamedOperations :
    let s := one (tagged .FP32 ∘ runs false)
    let v : CnVerdict := { slot := 5, req := .put 0 1, done := true, name := 5 }
    let t := one fun x => (tagged .FP32 (runs false x)).modMem fun m => { m with cn := [v] }
    let r := one fun x => (holding 2 0x10000 (runs false x)).modMem fun m => { m with tlb := [{ page1 with cn := true }] }
    let e := { s with pool := { base := 1 } }
    s.Ready ∧ s.me.buffered < 64 ∧ s.calendar.hold = false ∧ s.Reads (.t 0) ∧ s.me.rowTag (.t 0) ≠ .EMPTY ∧ 2 ≤ s.me.ctl.bal ∧ t.Judged v ∧ t.me.buffered < 64 ∧
    (s.outAccess 0 0 2).2.toOption.isSome = false ∧ r.Ready ∧ (r.sReg 2).toNat % 32 = 0 ∧ (r.page? .root (r.sReg 2) 16).isSome = true ∧
    (s.pageTrap? .root 0x20000 16).isSome = true ∧ (1 : Nat) % 32 ≠ 0 ∧ s.poolEn = false ∧ e.Ready ∧ e.poolEn = true ∧ { e.pool with setting := true }.setting = true := by
  repeat' first
    | decide +kernel
    | exact ready_of (by decide +kernel)
    | exact trivial
    | exact rfl
    | exact ⟨ready_of (by decide +kernel), rfl, rfl, rfl⟩
    | with_reducible refine And.intro ?_ ?_

/-- A CNOUT with work of each kind: nothing left, zeros, a name of 0, one at the wrong depth, and one that is not there. -/
theorem witness_ContentNamedTrees :
    let b (w : List (Option (BitVec 128) × Nat)) : Bulk := { get1 with kind := .cnout 5 1, work := w }
    let s (w : List (Option (BitVec 128) × Nat)) : State := one fun x => x.modMem fun m => { m with bulk := [b w] }
    (∀ w ∈ [[], [(none, 0)], [(none, 1)], [(some 0, 1)], [(some 0x100, 0)], [(some 0x100, 1)]], (s w).bulkReady 0 0 = some (b w)) ∧ (s []).badLines = [] ∧
    (s []).lostModules = [] ∧ ((0x100 : BitVec 128).toNat / 2 ^ 8 % 2 ^ 8 = 1) ∧ (s []).findName 0x100 = none := by decide +kernel

/-- A request at the directory, one that names a line which is not there, and a swap that waits; a line that the reaper is to free. -/
theorem witness_ContentNamedDirectory :
    let v : CnVerdict := { slot := 5, req := .get 0 }
    let w : CnVerdict := { slot := 6, req := .swap 0x20000 0 5 .core }
    let at_ (v : CnVerdict) : State := one fun x => x.modMem fun m => { m with cn := [v] }
    let s := { at_ v with reaping := [(7, 512)] }
    let t := { at_ w with reaping := [(7, 0)] }
    s.MemCanonical ∧ s.badLines = [] ∧ s.lostModules = [] ∧ (s.core 0).mem.cn = [v] ∧ v.done = false ∧ s.pool.setting = false ∧ s.calendar.hold = false ∧ (s.core 0).mem.memq = [] ∧
    s.reaping.find? (fun p => p.1 == 7) = some (7, 512) ∧ (w.req.isSwap && t.releaseWaits 0 (t.core 0).flow.bun) = true ∧
    ((at_ w).releaseWaits 0 ((at_ w).core 0).flow.bun) = false ∧ { s with pool := { base := 1 } }.findName 5 = none := by
  repeat' first
    | decide +kernel
    | exact canonical_of rfl rfl rfl rfl
    | exact rfl
    | with_reducible refine And.intro ?_ ?_

/-- What `State.LastWord` says, as a check. -/
def lastWordCheck (s : State) (h : Head) : Bool :=
  decide (s.me.flow.carry = {}) && s.me.flow.pending.isEmpty && s.me.mem.cn.isEmpty && (s.die (dieOf s.cur)).phase.all (fun p => !p.ending) &&
    (List.finRange 4).all (fun i => !(s.me.flow.loops.get i).act) && decide (h.pop = 0) && decide (h.op = none) && decide (h.kind = .normal ∨ h.kind = .xph)

theorem lastWord_of {s : State} {k : Nat} {h : Head} (perf : BitVec 8)
    (i : s.me.flow.issue = { tags := s.me.mem.tags, isOpen := true, slot := k, head := h, perf := perf }) (c : lastWordCheck s h = true) : s.LastWord k h := by
  simp only [lastWordCheck, Bool.and_eq_true, Bool.not_eq_true', decide_eq_true_eq, List.isEmpty_iff, List.all_eq_true] at c
  obtain ⟨⟨⟨⟨⟨⟨⟨a, b⟩, d⟩, e⟩, f⟩, g⟩, o⟩, q⟩ := c
  have e' : ∀ p ∈ (s.die (dieOf s.cur)).phase, p.ending = false := by
    intro p hp
    cases r : (s.die (dieOf s.cur)).phase with
    | none => rw [r] at hp; exact absurd hp (by simp)
    | some x =>
      rw [r] at hp e
      obtain rfl : x = p := by simpa using hp
      simpa using e
  exact { issue := ⟨perf, i⟩, carry := a, pending := b, verdicts := d, phase := e', loops := fun i => f i (List.mem_finRange i), pop := g, op := o, kind := q }

/-- A core as word 5 of an XPH bundle meets it, and one whose phase is open. -/
theorem witness_PhasesAndRoads :
    let h : Head := { kind := .xph }
    let s := one fun x => (runs false x).modFlow fun f => { f with issue := { isOpen := true, slot := 5, head := h, perf := 0 } }
    let p : Phase := ⟨1, 0, [0], [], false⟩
    let t := { one (runs false) with dies := Vector.replicate 8 { phase := some p } }
    s.LastWord 5 h ∧ s.Reads (.t 0) ∧ t.Between ∧ t.lockstep t.cur = some p ∧ t.Pops 0 ∧ p.issued.contains t.cur = false ∧ t.calendar.now = none ∧
    (∀ c ∈ t.gangCores p.node p.gang, (t.core c).flow.synced = false) ∧ (one (runs false)).Ready ∧ (one (runs false)).MayTrap := by
  repeat' first
    | decide +kernel
    | exact lastWord_of 0 (by decide +kernel) (by decide +kernel)
    | exact trivial
    | exact ⟨by decide, by decide, by decide, by decide, by decide⟩
    | exact fun q h => absurd h (by revert q; decide)
    | exact ready_user.1
    | exact ready_user.2
    | with_reducible refine And.intro ?_ ?_

/-- A core that holds the array's lease, as word 4 of a bundle meets it, and ready. -/
def leasing (x : Core) : Core := x.modMat fun m => { m with lease := .held 3 0 0 }

theorem witness_ProductsEnterTheCommandBuffer :
    let s := one fun x => (leasing (tagged .BF16 (runs false x))).modFlow fun f => { f with issue := { isOpen := true, slot := 4, head := {}, perf := 0 } }
    s.LastWord 4 {} ∧ s.me.mat.lease = .held 3 0 0 ∧ s.me.regs.tileIdx (.t 0) = some 0 ∧ (0 : BitVec 7).toNat + 8 ≤ 128 ∧ s.arrayGeom = 0 := by
  repeat' first
    | decide +kernel
    | exact lastWord_of 0 (by decide +kernel) (by decide +kernel)
    | with_reducible refine And.intro ?_ ?_

theorem witness_WeightCommandsAndZeroing :
    let s := one (leasing ∘ mapped ∘ runs false)
    let t := one fun x => (leasing (mapped (runs false x))).modMat fun m => { m with cmds := List.replicate 32 ⟨0, none, .zero, false, [], false, 0⟩ }
    s.Ready ∧ s.calendar.hold = false ∧ s.me.mat.lease = .held 3 0 0 ∧ ¬ 32 ≤ s.me.mat.cmds.length ∧ (s.aReg 0).toNat % 512 = 0 ∧ 32 ≤ s.me.ctl.bal ∧ s.MayTrap ∧
    s.me.scBusy = false ∧ s.swapWait 255 = none ∧ s.me.flow.redo.getLsbD 12 = false ∧ (s.imageAccess [(0, pagePieces 0x10000 33792)]).2.toOption.isSome = true ∧
    (s.imageAccess [(0, pagePieces 0x1F000 33792)]).2.toOption.isSome = false ∧ (one id).me.mat.lease = .idle ∧ t.Ready ∧ 32 ≤ t.me.mat.cmds.length ∧
    t.me.mat.lease = .held 3 0 0 := by
  repeat' first
    | decide +kernel
    | exact ready_of (by decide +kernel)
    | exact mayTrap_of (by decide +kernel)
    | with_reducible refine And.intro ?_ ?_

/-- Drains to entries, to the scratchpad, to a mapped page and with a maximum at a mapped word; commits of rows that are there, that are not, and of a tag
with none. -/
theorem witness_DrainsAndCommits :
    let s := one (mapped ∘ runs false)
    let t (r : Option TRow) : State := one fun x => (runs false x).modMat fun m => { m with drains := [⟨3, 1, r, .FP32⟩] }
    s.Ready ∧ s.calendar.hold = false ∧ s.me.mat.cmds.length < 32 ∧ s.me.buffered + 32 ≤ 64 ∧ (s.aReg 0).toNat % 512 = 0 ∧ fitsIn 262144 (.row .w512) (s.aReg 0).toNat = true ∧
    s.me.scBusy = false ∧ (s.accessAll 0 .engineWrite [(0x10000, 512)]).2.toOption.isSome = true ∧ (s.page? .atomic 0x1FFFC 4).map (·.1) = some page1 ∧ s.InScOrder page1 ∧
    (t (some {})).Ready ∧ ((t (some {})).me.mat.drains.filter fun d => d.tag == 3).length = 1 ∧ (t none).Ready ∧ (t none).MayTrap ∧
    ((t none).me.mat.drains.filter fun d => d.tag == 2).length = 0 := by
  repeat' first
    | decide +kernel
    | exact ready_of (by decide +kernel)
    | (simp [State.InScOrder, page1]; done)
    | exact mayTrap_of (by decide +kernel)
    | with_reducible refine And.intro ?_ ?_

/-- A product and a drain at the head of a command buffer. -/
theorem witness_ArrayCommandsArePerformed :
    let p : Queued := ⟨0, none, .product 5 31 0 .ovr .I8 3 [] none none 0, false, [], false, 0⟩
    let d : Queued := ⟨0, none, .drain 31 .f128 [] 0 none (.buffer 3 1), false, [], false, 0⟩
    (one fun x => x.modMat fun m => { m with cmds := [p] }).headCmd 0 = some p ∧ (one fun x => x.modMat fun m => { m with cmds := [d] }).headCmd 0 = some d ∧
    31 < 32 ∧ 3 < 4 ∧ (one id).badLines = [] ∧ (one id).calendar.hold = false := by decide

/-- A core that has its lease, one that waits for it, and a weight load at the head of a buffer. -/
theorem witness_LeasesAndWeightLoads :
    let s := one (leasing ∘ runs false)
    let l : Queued := ⟨0, none, .load 3 .w8 [(0, [(0, 33280)])], false, [], false, 0⟩
    let t := one fun x => (runs false x).modMat fun m => { m with cmds := [l], lease := .wait 1 }
    s.Ready ∧ s.me.flow.leased = false ∧ s.me.mat.lease = .held 3 0 0 ∧ t.calendar.hold = false ∧ t.headCmd 0 = some l ∧ t.nodeOf 0 = some 1 ∧ t.me.mat.lease = .wait 1 := by
  repeat' first
    | decide +kernel
    | exact ready_of (by decide +kernel)
    | with_reducible refine And.intro ?_ ?_

/-- A timer at its tick in a core that runs, and in one that does not; a window of 100 ticks and a zone at 100 degrees; a slot that is due, minor and
major, alone and into an extended one; one whose end has come, with findings and without. -/
theorem witness_TimersSlotsAndHeat :
    let s := { one (runs false) with now := 2600, dies := Vector.replicate 8 { timers := [(0, 2560)] }, zones := [(0, 1600)] }
    let m := { s with calendar := { nextSlot := 1024 }, now := 2621440 }
    let f : Config.Findings := ⟨[], [], [], [], [], []⟩
    let e := { s with calendar := { nextSlot := 2, now := some (1, .minor) }, now := 2688 }
    ((s.die 0).timers.lookup 0 = some 2560) ∧ (s.core 0).run.isSome = true ∧ (s.core 1).run = none ∧ (s.core 0).ctl.cls.toNat < 1 ∧ s.now % 100 = 0 ∧
    (mapGet 0 (16 * 0 + 0) s.zones).toNat % 2 ^ 16 = 100 * 16 ∧ (0, 0) ∉ s.hot ∧ (100 : BitVec 8).toNat = 1600 / 16 % 256 ∧
    (∀ p ∈ s.cores, p.1 ∈ [0]) ∧ (2560 * s.calendar.nextSlot ≤ s.now ∧ s.calendar.nextSlot % 1024 ≠ 0 ∧ s.calendar.now = none) ∧
    (2560 * m.calendar.nextSlot ≤ m.now ∧ m.calendar.nextSlot % 1024 = 0 ∧ m.calendar.now = none) ∧
    (e.calendar.now = some (1, .minor) ∧ 2560 * 1 + 128 ≤ e.now ∧ e.wear.found = none ∧ e.hostQ = [] ∧ (∀ p ∈ e.cores, p.2.mat.cmds = [])) ∧
    (2560 * 1 + 128 + 5 = { e with now := 2693 }.now) ∧ 2560 * { e with now := 5120 }.calendar.nextSlot ≤ 5120 ∧
    { e with wear := { e.wear with found := some f } }.wear.found = some f := by decide

/-- A module whose address space 0 has tables of four levels and one page, at virtual address 0 and HBM address 0x1_0000, with the header of a graph of one node
there, and its record, of zeros, after it. -/
def tabled : State :=
  { one (runs false) with hbm := [(1, 0x10), (7, 0x80), (0x1000, 2), (0x1007, 0x80), (0x2000, 3), (0x2007, 0x80), (0x3000, 4), (0x3007, 0x80), (0x4000, 0x10), (0x4007, 0x80),
      (0x10000, 1), (0x10009, 1)], service := true }

/-- The leaf of that page. -/
def leaf0 : Leaf :=
  { asid := 0, vpn := 0, pages := 1, base := 0x10000, w := false, x := false, u := false, sc := false, cn := false, rhp := false, msc := false }

/-- Every entry on the way to the page is good, and one page on nothing is mapped; rows of a stream that a lock holds and that none does; a promise that has come. -/
theorem witness_TranslationAndFetch :
    let s := one (streamed false)
    let t := one fun x => (streamed false x).modCtl fun c => { c with lockN := 1, lockP := 255 }
    let e (k : Nat) : Nat := memRead tabled.hbm (0x1000 * k) 8
    tabled.badLines = [] ∧ (e 0 = 2 ^ 63 + 0x1000 ∧ e 1 = 2 ^ 63 + 2 ∧ e 2 = 2 ^ 63 + 3 ∧ e 3 = 2 ^ 63 + 4 ∧ e 4 = 2 ^ 63 + 16) ∧ memRead tabled.hbm 0x4008 8 = 0 ∧
    tabled.tlbFind 0 0 0 = none ∧ tabled.walk 0 0 = .ok leaf0 ∧ (2 ^ 52 : Word).toNat = 2 ^ 52 ∧
    (s.core 0).stream? 1 = some (stream4 false) ∧ (s.core 0).stream? 2 = none ∧ (s.core 0).fetchHeld (stream4 false) 1 = false ∧
    (t.core 0).fetchHeld (stream4 false) 1 = true ∧
    (one fun x => x.modFlow fun f => { f with frozen := some (.promise 3) }).me.flow.frozen = some (.promise 3) := by decide +kernel

/-- A gang of one core that has arrived; one whose other member has not; one that must wait for another gang's phase. -/
theorem witness_SyncGroupsRestart :
    let x := (runs false {}).modFlow fun f => { f with arrived := some .gang }
    let s := one fun _ => x
    let t := { s with cores := [(0, x), (1, runs false {})] }
    (s.core 0).run = some (soloRun 1) ∧ (s.core 0).flow.arrived = some .gang ∧ s.gangCores 1 0 = [0] ∧ x.mem.memq = [] ∧ x.mem.unseen = [] ∧ x.mat.cmds = [] ∧
    1 ∈ t.gangCores 1 0 ∧ (t.core 1).flow.arrived = none ∧ ({ s with dies := Vector.replicate 8 { phase := some ⟨7, 0, [], [], false⟩ } }.die 0).phase ≠ none := by decide

/-- A node alone on its die. -/
def alone (st : NodeState) : State :=
  { one (runs false) with nodes := [{ soloNode 1 with state := st }], graphs := [soloGraph], nextNode := 2, service := true }

theorem numbered_alone (st : NodeState) : (alone st).Numbered ∧ (alone st).KeysSorted :=
  ⟨⟨by simp [alone], by simp [alone, soloNode]⟩, by simp [alone, one, State.reset], by simp [alone, one, State.reset]⟩

/-- A launch in the FIFO of a die in service, at a page that is mapped; a graph whose nodes became final long ago; a query that is the only request. -/
theorem witness_LaunchesAndAdmission :
    let w : Launch := ⟨0, 0, none⟩
    let q : Ask := { kind := .hostQuery 0 }
    let s := { alone .ready with dies := Vector.replicate 8 { fifo := [w], asks := [q] }, graphs := [{ soloGraph with finalAt := some 0 }], now := 100001 }
    s.calendar.hold = false ∧ s.hostQ = [] ∧ (s.die 0).fifo = w :: [] ∧ s.accepts = true ∧ s.Numbered ∧ s.graphs[0]? = some { soloGraph with finalAt := some 0 } ∧
    (s.die 0).asks = [q] ∧ s.graph? 0 = some { soloGraph with finalAt := some 0 } ∧ { s with calendar := { hold := true } }.calendar.hold = true := by
  repeat' first
    | decide +kernel
    | exact (numbered_alone .ready).1
    | with_reducible refine And.intro ?_ ?_

/-- That machine with a launch of the graph in its FIFO. -/
def launching : State := { tabled with dies := Vector.replicate 8 { fifo := [⟨0, 0, none⟩] } }

/-- The serai reads a valid header of one node, whose record is of zeros, whatever else the machine holds. -/
theorem witness_GraphsAreAdmitted :
    let s := launching
    let h : Nat := 1 + 2 ^ 72
    (s.die 0).fifo = ⟨0, 0, none⟩ :: [] ∧ s.Numbered ∧ s.accepts = true ∧ s.seraiRead 0 0 0 64 = (s, some h) ∧
    (∀ u : State, u.hbm = s.hbm → u.badLines = s.badLines → u.ptBase = s.ptBase → u.domMod = s.domMod → u.domSize = s.domSize → u.part = s.part →
      u.seraiRead 0 0 256 256 = (u, some 0)) ∧
    (h % 2 ^ 32 = 1 ∧ h / 2 ^ 32 % 2 ^ 32 = 0 ∧ h / 2 ^ 64 % 2 ^ 64 = 256) ∧ s.nodes = [] := by
  have g : launching.walk 0 0 = .ok leaf0 := by decide +kernel
  have g' : launching.walk 0 256 = .ok leaf0 := by decide +kernel
  refine ⟨rfl, ⟨by simp [launching, tabled, one, State.reset], by simp [launching, tabled, one, State.reset]⟩, rfl, ?_, ?_, by decide, rfl⟩
  · refine (State.seraiRead_clean (s := launching) rfl 0 0 0 64 leaf0 (by decide) g (by decide +kernel)).trans ?_
    exact congrArg (fun n => (launching, some n)) (by decide +kernel)
  · intro u hm b t m z q
    have e : u.walk = launching.walk := State.walk_congr hm t m z q
    have p : u.place = launching.place := State.place_congr m q
    refine (State.seraiRead_clean (s := u) b 0 0 256 256 leaf0 (by decide) (by rw [e]; exact g') (by rw [p]; decide +kernel)).trans ?_
    rw [hm]
    exact congrArg (fun n => (u, some n)) (by decide +kernel)

/-- Two nodes of a graph, the second the first's successor. -/
def chained : State :=
  { one (runs false) with
    nodes := [{ soloNode 1 with state := .ready, record := { succs := [1], nsucc := 1 } }, { soloNode 2 with state := .waiting, idx := 1 }]
    graphs := [{ soloGraph with nnodes := 2 }], nextNode := 3, service := true }

/-- A cancel of the first node reaches the second, which a core cancels in the same cycle. -/
theorem witness_CancelsSpread :
    chained.Numbered ∧ chained.Spreads [1] [1, 2] ∧ (chained.taskNode none 0 1).map (·.id) = some 2 ∧ (chained.nodeAt 0 0).map (·.id) = some 1 ∧
    chained.graph? 0 = some { soloGraph with nnodes := 2 } := by
  refine ⟨⟨by decide, by decide⟩, ⟨by simp, ?_, ?_⟩, by decide, by decide, by decide⟩
  · intro n hn hi i hs m hm _
    simp only [chained, List.mem_cons, List.not_mem_nil, or_false] at hn
    rcases hn with rfl | rfl
    · obtain rfl : i = 1 := by simpa using hs
      obtain rfl := Option.some.inj ((Option.mem_def.mp hm).symm.trans (show chained.nodeAt (soloNode 1).handle 1 = some { soloNode 2 with state := .waiting, idx := 1 } from by decide))
      decide
    · simp [soloNode] at hs
  · intro K hK hC j hj
    have a : 1 ∈ K := hK 1 (by simp)
    rcases List.mem_cons.mp hj with rfl | hj
    · exact a
    · obtain rfl : j = 2 := by simpa using hj
      exact hC { soloNode 1 with state := .ready, record := { succs := [1], nsucc := 1 } } (by simp [chained]) a 1 (by simp)
        { soloNode 2 with state := .waiting, idx := 1 } (by decide) (Or.inl rfl)

/-- A serai with a node to place, alone in its window, whose cores are free; one that has had its cycle; a reservation whose commit has come, and one that a strip
without routers makes collide; a hold that is asked for, in its time, after it, and after a higher die's. -/
theorem witness_PlacementOfNodes :
    let r : Reservation := ⟨1, 1, [(0, 0)], [], 7, [], [0], 0, 0⟩
    let n := { soloNode 1 with state := NodeState.reserving }
    let s := { alone .reserving with dies := Vector.replicate 8 { resv := some r }, now := 1, cores := [] }
    let h (asked : Nat) : State := { s with dies := Vector.replicate 8 { resv := some { r with holds := [(1, 0)], asked := asked } }, now := 40 }
    let p := { alone .ready with cores := [] }
    s.Numbered ∧ (s.die 0).resv = some r ∧ s.node? r.node = some n ∧ (r.gangs.map (·.1)).Nodup ∧ (∀ p ∈ r.gangs, p.1 < 8 ∧ p.2 + r.g ≤ 512) ∧
    (s.calendar.now = none ∧ r.holds = [] ∧ r.powers = [] ∧ 0 ∈ r.granted ∧ r.since < s.now) ∧
    ((h 8).die 0).resv = some { r with holds := [(1, 0)], asked := 8 } ∧ ¬ 8 + 32 < (h 8).now ∧ 7 + 32 < (h 7).now ∧ (h 8).canHold 1 0 1 = true ∧
    { h 8 with lastHold := some (40, 3) }.lastHold = some (40, 3) ∧
    p.Numbered ∧ p.calendar.now = none ∧ (p.die 0).resv = none ∧ p.baseOn 0 (p.wantedSize { soloNode 1 with state := NodeState.ready }) { soloNode 1 with state := NodeState.ready } = some 0 ∧
    p.canHold 0 0 1 = true ∧ (p.die 0).cycle ≠ some p.now ∧ ({ p with dies := Vector.replicate 8 { cycle := some 0 } }.die 0).cycle = some p.now := by
  repeat' first
    | decide +kernel
    | exact (numbered_alone .reserving).1
    | exact (numbered_alone .ready).1
    | with_reducible refine And.intro ?_ ?_

/-- A core that has halted with nothing on its way, one that runs; a node that retires, with its post and without. -/
theorem witness_SlicesAndRetirement :
    let r := { soloRun 1 with halted := true }
    let s := { alone .running with cores := [(0, { runs false {} with run := some r })] }
    ((alone .running).core 0).run = some (soloRun 1) ∧ (alone .running).node? 1 = some (soloNode 1) ∧ (alone .running).Numbered ∧ (alone .running).KeysSorted ∧
    (alone .retiring).node? 1 = some { soloNode 1 with state := .retiring } ∧ (s.core 0).run = some r ∧ (r.halted = true ∧ r.ended = false ∧ r.last = true) ∧
    (s.core 0).mem.memq = [] ∧ (s.core 0).flow.pending = [] ∧ s.reaping = [] := by
  repeat' first
    | decide +kernel
    | exact (numbered_alone .running).1
    | exact (numbered_alone .running).2
    | with_reducible refine And.intro ?_ ?_

/-- A node to kill or pre-empt, with a frame for it; one that stops, whose core has come to its boundary; one whose core has saved its context; and one whose
context is to be restored, its cluster's part before and after. -/
theorem witness_KillsAndPreemption :
    let v : SavedCore := { gang := 0, core := 0, frame := 0, nframes := 1, ctx := {}, keys := [] }
    let n := { soloNode 1 with stopping := true, saved := [v] }
    let x := (runs false {}).modFlow fun f => { f with causes := [⟨0x30, 0⟩] }
    let s := { alone .running with nodes := [n], cores := [(0, x)] }
    let w := { v with ctx := runs false {} }
    let t := { alone .running with nodes := [{ n with saved := [w] }], cores := [(0, { runs false {} with run := some { soloRun 1 with restore := true } })] }
    (alone .running).Numbered ∧ (alone .running).KeysSorted ∧ (alone .running).nodeAt 0 0 = some (soloNode 1) ∧ (alone .running).graph? 0 = some soloGraph ∧
    FramesFor 1 [] [1] [0] ∧
    s.MemCanonical ∧ (s.core 0).run = some (soloRun 1) ∧ s.node? 1 = some n ∧ n.saved.find? (fun v => v.gang == 0 && v.core == 0 && v.ctx.run.isNone) = some v ∧
    v.nframes = 1 ∧ s.boundaryCause 0 = some ⟨0x30, 0⟩ ∧ s.stopsHere 0 = true ∧ s.calendar.hold = false ∧ (s.die n.die).preemptWaits = [] ∧
    (t.node? 1 = some { n with saved := [w] } ∧ ∀ v ∈ [w], v.ctx.run ≠ none) ∧ (t.core 0).run = some { soloRun 1 with restore := true } ∧ t.badLines = [] ∧
    w.loaded = false ∧ { w with loaded := true }.loaded = true ∧ w.keys = [] := by
  repeat' first
    | decide +kernel
    | exact (numbered_alone .running).1
    | exact (numbered_alone .running).2
    | (simp; done)
    | exact trivial
    | exact canonical_of rfl rfl rfl rfl
    | exact ⟨⟨by decide, by decide, by simp⟩, by simp, trivial⟩
    | with_reducible refine And.intro ?_ ?_

/-- The host's requests at once, held, and behind others; a translation request that waits for nothing and one that waits for a store; a base of the memory window that
a write at the bridge will set; a scratchpad whose banks are locked. -/
theorem witness_TheHostIsServed :
    let s := { one (runs false) with tinvs := [⟨[(0, 5)]⟩], mwbase := 0x4000_0000 }
    let e : BridgeReq := ⟨0, false, .readReg 0xA008 8⟩
    let q := { s with hostQ := [⟨0, false, .writeReg 0xB000 8 0x8000_0000⟩] }
    let k := one fun x => x.modCtl fun t => { t with lockN := 1, lockP := 255 }
    let m : MemOp := ⟨1, 0, .store 0, 0x20000, 8, false, false, .core, false, false⟩
    s.calendar.hold = false ∧ s.hostQ = [] ∧ s.MemCanonical ∧ s.badLines = [] ∧ s.tinvs.head? = some ⟨[(0, 5)]⟩ ∧ (s.core 0).mem.memq = [] ∧
    ((one fun x => x.modMem fun w => { w with memq := [m] }).core 0).mem.memq = [m] ∧ ¬ 5 < m.bun ∧
    s.mwbase.toNat + 8 ≤ 768 * 2 ^ 30 ∧ (s.mwbase.toNat + 8) % 8 = 0 ∧ (0xB008 : Nat) % 8 = 0 ∧ { s with hostQ := [e] }.hostQ[0]? = some e ∧ s.hostLocked e.req = false ∧
    q.hostQ = [] ++ [⟨0, false, .writeReg 0xB000 8 0x8000_0000⟩] ∧
    k.lockedAt 0xC100000000 8 = true ∧ s.lockedAt 0x40000000 128 = false := by
  repeat' first
    | decide +kernel
    | exact canonical_of rfl rfl rfl rfl
    | with_reducible refine And.intro ?_ ?_

/-- An error that a core reads, and one in the directory; a module lost, with an access of the core to it and without; a good image of one extent at the end of HBM and one
setting, under the key that is fused. -/
theorem witness_ErrorsResetAndBoot :
    let s := alone .running
    let m : MemOp := ⟨1, 0, .store 0, 5 * 2 ^ 48, 8, false, false, .core, false, false⟩
    let t := { s with cores := [(0, (runs false {}).modMem fun w => { w with memq := [m] })], lostModules := [5] }
    let image : BootImage := ⟨List.replicate 32 0, [7], [(768 * 2 ^ 30 - 1, 1, 0)], [⟨0xFF, 0x400, 0x4000⟩]⟩
    ErrorPlace.hbm ∉ [ErrorPlace.l2Tags, .directory, .serai, .windowPartials] ∧ ErrorPlace.directory ∈ [ErrorPlace.l2Tags, .directory, .serai, .windowPartials] ∧
    (s.core 0).run = some (soloRun 1) ∧ (5 * 2 ^ 48) / 2 ^ 48 ≠ s.domMod.toNat ∧ s.lostModules = [] ∧ t.losing 0 = true ∧ { s with lostModules := [5] }.losing 0 = false ∧
    State.reset.bootOk = false ∧ State.reset.bootFailed = false ∧ State.reset.wear.below = false ∧
    (∀ e ∈ image.extents, e.1 + e.2.1 ≤ 768 * 2 ^ 30 ∧ e.2.2 + e.2.1 ≤ image.bytes.length) ∧ cregDefined 0x400 = true ∧ cregFixed 0x400 = false := by
  decide

/-- The digest fused at reset is that of the key of 32 zero bytes. -/
theorem witness_TheKeyIsFused : sha256 (List.replicate 32 0) = State.reset.part.keyDigest.toNat := by decide +kernel

/-- Core 2 asks for point 7 above its target, one at its target; grants and fail-safe take cores inside and outside their die. -/
theorem witness_OperatingPointsAndGrants :
    (7 : BitVec 3).toNat ≠ (one id).me.ctl.opTgt.toNat ∧ (2 : BitVec 3) = (one id).me.ctl.opTgt ∧ 5 / 512 = 0 ∧ 5 % 512 < State.reset.part.coreCount 0 ∧
    ¬ (512 / 512 = 0) := by decide

/-- A word put where core 0 of die 0 fetches next: the core has the turn, and that word alone is its bundle. -/
theorem turn_placed (u : State) (ws : List Nat) (s : State)
    (h : s.agenda = [.run 0] ∧ u = ({ ({ s with agenda := [] } : State).applyLate with cur := 0 } : State).modMe fun x => x.modMem Local.age)
    (f : (s.cyclesBegun = false ∧ (u.me.run.any fun r => !r.halted && !r.restore) = true ∧ u.boundaryCause 0 = none ∧ u.calendar.hold = false ∧
        u.phaseWaits = false ∧ u.fetchAt 0 u.me.flow.pc = (u, .ok ws) ∧ ws.length = 8) ∧
      u.me.flow.issue = {} ∧ u.me.flow.carry = {} ∧ u.me.flow.pending = [] ∧ u.me.flow.redo = 0 ∧ u.me.mem.cn = [] ∧ u.me.flow.frozen = none ∧
      u.me.flow.fetched = true) : s.Turn 0 ws u := by
  obtain ⟨⟨n, r, c, hold, p, w, l⟩, i, k, q, d, m, z, g⟩ := f
  refine ⟨n, ⟨[], h⟩, ?_, i, k, q, d, m, z, g, c, hold, p, w, l⟩
  cases hr : u.me.run with
  | none => rw [hr] at r; cases r
  | some x => rw [hr] at r; exact ⟨x, rfl, by simpa using r⟩

def placed (w : Nat) : State := State.reset.withFetchWord 32 w
def issuing (w : Nat) : State := ({ ({ placed w with agenda := [] } : State).applyLate with cur := 0 } : State).modMe fun x => x.modMem Local.age

theorem witness_StepRunsTheDecodedInstruction :
    (placed (sr 0x01 3 1 2 1)).Turn 0 [0, sr 0x01 3 1 2 1, 0, 0, 0, 0, 0, 0] (issuing (sr 0x01 3 1 2 1)) ∧
    decodeSlot .S (sr 0x01 3 1 2 1) = .ok (.add .s32 3 1 2) ∧
    (let s : State := { State.reset with agenda := [.event .slotHold] }
     s.cyclesBegun = false ∧ s.queuedNow = false ∧ Instr.slotHold.slot? = none) :=
  ⟨turn_placed _ _ _ ⟨rfl, rfl⟩ (by decide +kernel), by decide, by decide⟩

theorem witness_AllZeroBundleDoesNothing :
    (placed 0).Turn 0 [0, 0, 0, 0, 0, 0, 0, 0] (issuing 0) ∧ (issuing 0).Ready ∧
    (placed 1).Turn 0 [0, 1, 0, 0, 0, 0, 0, 0] (issuing 1) :=
  ⟨turn_placed _ _ _ ⟨rfl, rfl⟩ (by decide +kernel), ready_of (by decide +kernel),
    turn_placed _ _ _ ⟨rfl, rfl⟩ (by decide +kernel)⟩

/-- The word `w` as word `k` of the bundle that a core with a handler fetches, in a part without the charge domain. -/
def trapping (k w : Nat) : State :=
  { (placed 0).modCore 0 fun x => x.modCtl fun c => { c with trapVec := 0x4000 } with
    hbm := memWrite [] (4 * k) 4 w, part := { State.reset.part with charge := false } }
def refusing (k w : Nat) : State := ({ ({ trapping k w with agenda := [] } : State).applyLate with cur := 0 } : State).modMe fun x => x.modMem Local.age

/-- An XMIT with a reserved row operand, and an MMUL with one and a split. -/
theorem witness_IllegalWords :
    let x := 0x40 * 2 ^ 25 + 22 * 2 ^ 17
    let m := 0x01 * 2 ^ 26 + 16 * 2 ^ 18 + 2 ^ 10
    ((trapping 5 x).Turn 0 [0, 0, 0, 0, 0, x, 0, 0] (refusing 5 x) ∧ (refusing 5 x).Ready ∧ (refusing 5 x).MayTrap ∧ decodeSlot .C x = .error .operand) ∧
    ((trapping 4 m).Turn 0 [0, 0, 0, 0, m, 0, 0, 0] (refusing 4 m) ∧ (refusing 4 m).Ready ∧ (refusing 4 m).MayTrap ∧ decodeSlot .M m = .error .operand ∧
      m / 2 ^ 10 % 8 ≠ 0 ∧ (refusing 4 m).part.charge = false) := by
  repeat' first
    | decide +kernel
    | exact turn_placed _ _ _ ⟨rfl, rfl⟩ (by decide +kernel)
    | exact ready_of (by decide +kernel)
    | exact mayTrap_of (by decide +kernel)
    | exact ⟨turn_placed _ _ _ ⟨rfl, rfl⟩ (by decide +kernel), ready_of (by decide +kernel), mayTrap_of (by decide +kernel), by decide⟩
    | with_reducible refine And.intro ?_ ?_

theorem witness_BranchesTestTheirRegister :
    (one (holding 2 (-1))).Ready ∧ ((one (holding 2 (-1))).sReg 2).toInt < 0 ∧ ¬ ((one (holding 2 (-1))).sReg 2).toInt = 0 ∧ ((one (holding 2 (-1))).sReg 2).toInt % 2 = 1 ∧
    (0x8000 : BitVec 16).toInt = -32768 ∧ (0x7FFF : BitVec 16).toInt = 32767 := by
  repeat' first
    | decide +kernel
    | exact ready_of (by decide +kernel)
    | with_reducible refine And.intro ?_ ?_

theorem witness_VselSelectsOrClears :
    let s := one (tagged .E2M1)
    s.Ready ∧ s.Reads (.t 1) ∧ s.Writes (.t 0) ∧ s.me.viewTag (.t 1) none = .E2M1 ∧ s.Guardable 3 (.t 0) .E2M1 .E2M1 ∧ 1023 < tagCount .E2M1 :=
  ⟨ready_of (by decide), trivial, trivial, by decide, Or.inr ⟨by decide, by decide, by decide⟩, by decide⟩

theorem witness_Rnd16IsComputed : (one (runs false)).me.run = some (soloRun 1) := by decide

theorem witness_DecodeEncodeRoundTrip :
    (Instr.vadd (.t 127) (.latch .LM) (.q 7) 3).wf = true ∧ (Instr.vadd (.t 127) (.latch .LM) (.q 7) 3).slot? = some .V ∧
    decodeSlot .A (op6 0x08 (2 ^ 26 - 1)) = .ok (.aaddi 15 (-1)) := by decide

theorem witness_InvariantsAreKept : State.reset.MemCanonical ∧ State.reset.KeysSorted ∧ State.reset.Numbered :=
  ⟨⟨rfl, by simp [State.reset], by simp [State.reset]⟩, ⟨by simp [State.reset], by simp [State.reset]⟩, by simp [State.reset], by simp [State.reset]⟩

/-! ## Single steps, with results worked out from the specification -/

/-- The registers of core 0 after a step, of a state in which core 0 is about to issue the word. -/
def after (w : Nat) (f : Core → Core) : Option Core :=
  match step ((placed w).modCore 0 f) with
  | .next t => some (t.core 0)
  | _ => none

/-- ADD of W = 01 wraps at 32 bits and sign-extends (R156, R157): 0x7FFF_FFFF + 1. -/
theorem test_step_add : (after (sr 0x01 3 1 2 1) (holding 1 0x7FFFFFFF ∘ holding 2 1)).map (fun x => (x.regs.s.get 3, x.flow.pc)) = some (0xFFFFFFFF80000000, 1) := by
  decide +kernel

/-- A word of opcode 0 with another bit set, in a core that has no handler: the node is killed (R98, R462). -/
theorem test_step_illegal : (after 1 id).map (fun x => x.run.isNone) = some true := by decide +kernel

/-- The same with a handler: cause 0x02 of word 1, PC saved, and the handler entered in supervisor state (R121, R405). -/
theorem test_step_trap : (after 1 (fun x => x.modCtl fun c => { c with trapVec := 0x4000 })).map (fun x => (x.ctl.trapCause, x.ctl.trapPc, x.flow.pc, x.ctl.priv)) =
    some (0x102, 0, 0x200, true) := by decide +kernel

/-- LOOPS with a count of 0 goes past the loop's last bundle (R179): length 5 from bundle 0. -/
theorem test_step_loops : (after (op6 0x02 (1 * 2 ^ 24 + 4 * 2 ^ 19 + 5)) id).map (fun x => x.flow.pc) = some 6 := by decide +kernel

/-- An XMIT outside an XPH bundle is an illegal instruction, 0x02, also where its row operand is reserved (R102, R122, R381). -/
theorem test_step_xmit_row : (match step (trapping 5 (0x40 * 2 ^ 25 + 22 * 2 ^ 17)) with | .next t => some (t.core 0).ctl.trapCause | _ => none) = some 0x502 := by
  decide +kernel

/-- A BF16 infinity widened to FP32 with SAT stays an infinity (R42); 2^30 + 2^22 + 1 as BF16, rounded once, is 2^30 + 2^23 (R42, R324). -/
theorem test_convert : convert .BF16 .FP32 .rne 0 true 0x7F80 = 0x7F800000 ∧ convert .I32 .BF16 .rne 0 false (2 ^ 30 + 2 ^ 22 + 1) = 0x4E81 := by decide

/-- Column 32 of row 0 and column 0 of row 32 lie in bank 1, column 33 of row 32 in bank 0 (R215). -/
theorem test_banks : bankOf 0 = 0 ∧ bankOf 32 = 1 ∧ bankOf 16384 = 1 ∧ bankOf (512 * 32 + 33) = 0 := by decide

/-! ### Further forms -/

/-- A handler that reads and writes what no code may: an undefined register, one that is read-only in both views. -/
theorem witness_HandlersFail :
    let h := one (runs true)
    h.Ready ∧ h.inPhase h.cur = false ∧ h.me.ctl.trapVec ≠ 0 ∧ h.me.ctl.handler = true ∧ h.me.ctl.priv = true ∧ cregDefined 0x480 = true ∧
    cregFixed 0x480 = true ∧ cregDefined 0x3FF = false := by
  repeat' first
    | decide +kernel
    | exact ready_handler.1
    | with_reducible refine And.intro ?_ ?_

/-- Two cancels of one cycle, the first of which reaches the node of the second; two queries, one behind the other. -/
theorem witness_CancelsBehindOthers :
    let a : Ask := { kind := .cancel 0 1 }
    let q : Ask := { kind := .query 0 1 }
    let s := { chained with dies := Vector.replicate 8 { asks := [{ kind := .query 0 0 }, q] } }
    chained.Spreads [1] [1, 2] ∧ chained.Numbered ∧ a.kind = .cancel 0 1 ∧ (1 : Nat) ≠ 2 ∧ ((chained.node? 1).map (·.state)) = some .ready ∧ 2 ∈ [1, 2] ∧
    (s.die 0).asks.length = 2 ∧ (∀ p ∈ (s.die 0).asks.map (·.kind), p = .query 0 0 ∨ p = .query 0 1) := by
  repeat' first
    | decide +kernel
    | exact witness_CancelsSpread.2.1
    | exact witness_CancelsSpread.1
    | with_reducible refine And.intro ?_ ?_

/-- A sleeper whose line may not be read. -/
theorem witness_SleepersFault :
    let s := one (holding 2 0x20008 ∘ runs false)
    s.Ready ∧ s.MayTrap ∧ s.sReg 2 ≠ 0 ∧ s.me.flow.sleepArmed = false ∧ s.mayWalk (s.sReg 2) = true ∧ (s.pageTrap? .read (s.sReg 2) 8).isSome = true := by
  repeat' first
    | decide +kernel
    | exact ready_of (by decide +kernel)
    | exact mayTrap_of (by decide +kernel)
    | with_reducible refine And.intro ?_ ?_

/-- A core that reads its own scratchpad by LDR: at once, and behind a store of its own that is held. -/
theorem witness_OwnRemoteRows :
    let s := one (runs false)
    let e : MemOp := ⟨1, 0, .localStore false [(0, 7)], 0, 0, false, false, .core, false, false⟩
    let t := one fun x => (runs false x).modMem fun m => { m with memq := [e] }
    let l := shapePlaces (.row .w512) 0
    s.Ready ∧ (0 : BitVec 3).toNat = s.cur % 8 ∧ fitsIn 262144 (.row .w512) 0 = true ∧ s.Writes (.t 0) ∧ ¬ s.LocalWaits false false l ∧ t.Ready ∧
    t.LocalWaits false false l := by
  repeat' first
    | decide +kernel
    | exact ready_of (by decide +kernel)
    | exact trivial
    | (unfold State.LocalWaits; decide +kernel)
    | with_reducible refine And.intro ?_ ?_

/-- A CNPUT of class 2 and one of class 1 from a stream that is spent; a row of zeros to put. -/
theorem witness_PutsOfSpentStreams :
    let b := { stream4 false with pos := (stream4 false).total, done := (stream4 false).total }
    let at_ (v : Word) := one fun x => (holding 2 v (runs false x)).modMem fun m => { m with streams := [(1, b)] }
    let z := one (tagged .FP32 ∘ runs false)
    (at_ 512).Ready ∧ (at_ 512).me.stream? 1 = some b ∧ b.write = false ∧ b.tag ≠ .EMPTY ∧ b.total ≤ b.pos ∧ ((at_ 512).sReg 2).toNat / 2 ^ 8 = 2 ∧
    (at_ 256).Ready ∧ (at_ 256).MayTrap ∧ ((at_ 256).sReg 2).toNat / 2 ^ 8 = 1 ∧ z.Ready ∧ z.Reads (.t 0) ∧ z.me.rowTag (.t 0) ≠ .EMPTY ∧
    (z.rowBits .FP32 (.t 0)).extractLsb' 0 1024 = 0 ∧ RowOp.isReg (.t 0) = true := by
  repeat' first
    | decide +kernel
    | exact ready_of (by decide +kernel)
    | exact mayTrap_of (by decide +kernel)
    | exact trivial
    | with_reducible refine And.intro ?_ ?_

/-- The words `h` and `m` as header and word 4 of the bundle that a core fetches. -/
def headed (h m : Nat) (f : Core → Core) : State :=
  { (placed 0).modCore 0 fun x => f (x.modCtl fun c => { c with trapVec := 0x4000 }) with hbm := memWrite (memWrite [] 16 4 m) 0 4 h }
def heading (h m : Nat) (f : Core → Core) : State :=
  ({ ({ headed h m f with agenda := [] } : State).applyLate with cur := 0 } : State).modMe fun x => x.modMem Local.age

/-- An MMUL whose rows the profile does not take, one that adds to rows of the other kind, and an MMULS behind a local store that is held. -/
theorem witness_ProductsAreRefusedOrWait :
    let h := encode (.normal 5 none 0)
    let m := encode (.mmul (.t 0) 3 0 .ovr)
    let w := encode (.mmul (.t 0) 31 0 .acc)
    let p := encode (.mmuls 0 0 false 3 0 .ovr)
    let floats (x : Core) : Core := (tagged .I8 x).modMat fun q => { q with kinds := Vector.replicate 32 .F }
    let e : MemOp := ⟨1, 0, .localStore false [(0, 7)], 0, 0, false, false, .core, false, false⟩
    let stored (x : Core) : Core := (leasing x).modMem fun q => { q with memq := [e] }
    ((headed h m (tagged .FP32)).Turn 0 [h, 0, 0, 0, m, 0, 0, 0] (heading h m (tagged .FP32)) ∧ (heading h m (tagged .FP32)).Ready ∧
      (heading h m (tagged .FP32)).MayTrap ∧ decodeSlot .H h = .ok (.normal 5 none 0) ∧ decodeSlot .M m = .ok (.mmul (.t 0) 3 0 .ovr) ∧
      (heading h m (tagged .FP32)).me.rowTag (.t 0) ∉ [Tag.I8]) ∧
    ((headed h w floats).Turn 0 [h, 0, 0, 0, w, 0, 0, 0] (heading h w floats) ∧ (heading h w floats).Ready ∧ (heading h w floats).MayTrap ∧
      decodeSlot .M w = .ok (.mmul (.t 0) 31 0 .acc) ∧ (heading h w floats).me.mat.kinds.get (Fin.ofNat 32 31) = .F) ∧
    ((headed h p stored).Turn 0 [h, 0, 0, 0, p, 0, 0, 0] (heading h p stored) ∧ (heading h p stored).Ready ∧
      decodeSlot .M p = .ok (.mmuls 0 0 false 3 0 .ovr) ∧ (heading h p stored).me.mat.lease = .held 3 0 0 ∧
      (heading h p stored).me.mem.memq.any (·.isLocalStore) = true ∧ (heading h p stored).me.mat.cmds.length < 32) := by
  repeat' first
    | decide +kernel
    | exact turn_placed _ _ _ ⟨rfl, rfl⟩ (by decide +kernel)
    | exact ready_of (by decide +kernel)
    | exact mayTrap_of (by decide +kernel)
    | with_reducible refine And.intro ?_ ?_

/-- A product of profile 6 in a part of geometry 3. -/
theorem witness_ProfileSixHasNoGeometryThree :
    let s := one fun x => (leasing (runs false x)).modFlow fun f => { f with issue := { isOpen := true, slot := 4, head := { np := 6 }, perf := aloneMask 4 } }
    s.LastWord 4 { np := 6 } ∧ s.MayTrap ∧ s.me.flow.issue.perf = aloneMask 4 ∧ s.me.mat.lease = .held 3 0 0 := by
  repeat' first
    | decide +kernel
    | exact lastWord_of (aloneMask 4) (by decide +kernel) (by decide +kernel)
    | exact mayTrap_of (by decide +kernel)
    | with_reducible refine And.intro ?_ ?_

/-- A window homed in module 0 whose contributions are taken in module 1, its configuration there, and the additions to a completion word. -/
theorem witness_WindowsHomedElsewhere :
    let x : Window := { base := 0x20000, cfg := 2 ^ 63 + 2 ^ 57 + 2 ^ 24, done := 0x30000 }
    let s := { one id with domMod := 1, windows := Vector.replicate 16 x, homeCfgs := [(15, (2 ^ 63 + 2 ^ 57 + 2 ^ 25, 0x40000))], doneAdds := [⟨0x30000, none⟩] }
    (s.window 15).first / 2 ^ 48 ≠ s.domMod.toNat ∧ s.homeCfgs.lookup 15 = some (2 ^ 63 + 2 ^ 57 + 2 ^ 25, 0x40000) ∧ s.doneAdds[0]? = some ⟨0x30000, none⟩ ∧
    s.badLines = [] ∧ s.lostModules = [] ∧ s.calendar.hold = false := by decide +kernel

/-- A release of scope core before a store that others do not see yet, which an acquire of its cluster has to wait for; a swap of that line; a line that cannot
be corrected. -/
theorem witness_NarrowReleases :
    let r : NarrowRelease := ⟨0x400, 0, 1, 5, .cluster⟩
    let m : MemOp := ⟨2, 0, .atomic .ld 0 0, 0x20000, 8, true, false, .cluster, false, false⟩
    let w : CnVerdict := { slot := 6, req := .swap 0x20000 0 5 .cluster }
    let old : Core := ({} : Core).modMem fun q => { q with unseen := [⟨4, 0, [(3, some 7)]⟩] }
    let s := { one id with cores := [(0, old), (1, ({} : Core).modMem fun q => { q with memq := [m], cn := [w] })], releases := [r], badLines := [0x400] }
    s.outstanding r = true ∧ s.eligible 1 0 = none ∧ (s.releases.any fun r => r.line == 0x20000 / 128 && r.core != 1 && inScope r.scope r.core 1 && s.outstanding r) = true ∧
    0x20000 / 128 ∈ s.badLines := by decide +kernel

/-- Engine writes to a scratchpad and to a shared SRAM of the module, by their addresses. -/
theorem witness_EngineWritesToWindows :
    let s := one id
    s.place (s.spadAddr 1 512) = .spad 1 512 ∧ s.place (s.sramAddr 0 0) = .sram 0 0 ∧ s.lockedAt (s.spadAddr 1 512) 64 = false ∧ s.calendar.hold = false := by
  decide +kernel

/-- An MSWAP reissued after its fault, whose shadow only a failed burst has made invalid: its planes are to be loaded again. -/
theorem witness_SwapsAreRepaired :
    let p : Planes := { key := some { pa := 0, pages := [(0, 33280)], geom := 0, wfmt := .w8, node := 1, watch := true }, burst := true }
    let s := { one (fun x => (leasing (runs false x)).modFlow fun f => { f with redo := 0x1000 }) with
      clusters := [(0, { macros := Vector.replicate 8 { shadow := p } })] }
    s.Ready ∧ s.me.mat.lease = .held 3 0 0 ∧ s.me.flow.redo.getLsbD 12 = true ∧ s.me.mat.cmds = [] ∧ s.calendar.hold = false ∧
    ((s.cluster 0).macros.get 0).shadow.burst = true := by
  repeat' first
    | decide +kernel
    | exact ready_of (by decide +kernel)
    | with_reducible refine And.intro ?_ ?_


end Sys2Proof.Tests
end

section
/-!
Rnd16 of stochastic rounding (R40): the mixing on machine words says the same as the rule's arithmetic on numbers below 2^64.
-/
namespace Sys2Proof.Machine

/-- A shift to the right that is mixed back in, the step that R40 takes three times. -/
theorem toNat_xor_ushiftRight (x : Word) (k : Nat) : (x ^^^ (x >>> k)).toNat = x.toNat ^^^ (x.toNat / 2 ^ k) := by
  rw [BitVec.toNat_xor, BitVec.toNat_ushiftRight, Nat.shiftRight_eq_div_pow]

/-- A number placed at bit `k` of a word: the bits of it that a word does not hold are lost by the shift all the same. -/
theorem toNat_ofNat_shiftLeft (v k : Nat) : (BitVec.ofNat 64 v <<< k).toNat = v * 2 ^ k % 2 ^ 64 := by
  rw [BitVec.toNat_shiftLeft, BitVec.toNat_ofNat, Nat.shiftLeft_eq, Nat.mod_mul_mod]

/-- A count and an element number are added in arithmetic that wraps at 64 bits, whatever the element number. -/
theorem toNat_add_ofNat (count : Word) (e : Nat) : (count + BitVec.ofNat 64 e).toNat = (count.toNat + e) % 2 ^ 64 := by
  rw [BitVec.toNat_add, BitVec.toNat_ofNat, Nat.add_mod_mod]

/-- One round of the mixing: the value with its own shift mixed in, times a constant, wrapped. -/
theorem toNat_xor_ushiftRight_mul (x : Word) (k c : Nat) :
    ((x ^^^ (x >>> k)) * BitVec.ofNat 64 c).toNat = (x.toNat ^^^ (x.toNat / 2 ^ k)) * c % 2 ^ 64 := by
  rw [BitVec.toNat_mul, toNat_xor_ushiftRight, BitVec.toNat_ofNat, Nat.mul_mod_mod]

/-- The mixing of R40 by numbers: two rounds and a last shift. -/
theorem toNat_srMix (x : Word) :
    let y := (x.toNat ^^^ (x.toNat / 2 ^ 30)) * 0xBF58476D1CE4E5B9 % 2 ^ 64
    let z := (y ^^^ (y / 2 ^ 27)) * 0x94D049BB133111EB % 2 ^ 64
    (srMix x).toNat = z ^^^ (z / 2 ^ 31) := by
  intro y z
  let u := (x ^^^ (x >>> 30)) * 0xBF58476D1CE4E5B9
  have first : u.toNat = y := toNat_xor_ushiftRight_mul x 30 _
  have second : ((u ^^^ (u >>> 27)) * 0x94D049BB133111EB).toNat = z := by
    rw [show z = (y ^^^ (y / 2 ^ 27)) * 0x94D049BB133111EB % 2 ^ 64 from rfl, ← first]
    exact toNat_xor_ushiftRight_mul u 27 _
  rw [← second]
  exact toNat_xor_ushiftRight _ 31

/-- The random bits that the acting core draws while it runs a virtual slice: from its seed, that slice and its counter. -/
theorem State.rnd_of_run {s : State} {r : Run} (h : s.me.run = some r) (e : Nat) :
    s.rnd e = rnd16 s.me.ctl.rngSeed r.slice s.me.ctl.rndCount e := by
  rw [State.rnd, h]

/-- Settles O56: the input of the mixing is put together from its three wrapped parts, and the mixing is R40's by `toNat_srMix`. -/
theorem rnd16IsComputed : Obligations.Rnd16IsComputed := by
  intro seed count v e
  have input : (seed ^^^ (BitVec.ofNat 64 v <<< 40) ^^^ (count + BitVec.ofNat 64 e)).toNat =
      seed.toNat ^^^ (v * 2 ^ 40 % 2 ^ 64) ^^^ ((count.toNat + e) % 2 ^ 64) := by
    rw [BitVec.toNat_xor, BitVec.toNat_xor, toNat_ofNat_shiftLeft, toNat_add_ofNat]
  refine ⟨?_, fun s r h => s.rnd_of_run h e⟩
  have mixed := toNat_srMix (seed ^^^ (BitVec.ofNat 64 v <<< 40) ^^^ (count + BitVec.ofNat 64 e))
  rw [input] at mixed
  exact congrArg (· % 2 ^ 16) mixed

end Sys2Proof.Machine
end

section
/-!
The bundle of zeros and the words of opcode 0 (R98): what they decode to, how the turn of a core comes to issue its bundle, and what
issue makes of a header of zeros and of a word that is no instruction.
-/
namespace Sys2Proof.Machine

/-! ## Decoding -/

/-- A word whose fields must all be zero is no instruction when one of them is not. -/
theorem decNone_of_ne_zero {l w : Nat} (i : Instr) (h : fld w 0 (32 - l) ≠ 0) : decNone l i w = .error .illegal := by
  simp [decNone, need, h, bind, Except.bind]

/-- Below bit `n` a word has nothing in its opcode field at bit `n`. -/
theorem fld_eq_zero_of_lt {w n len : Nat} (h : w < 2 ^ n) : fld w n len = 0 := by
  simp [fld, Nat.div_eq_of_lt h]

theorem fld_zero_of_lt {w n : Nat} (h : w < 2 ^ n) : fld w 0 n = w := by
  simp [fld, Nat.mod_eq_of_lt h]

/-- A table whose opcode 0 is a word with every field zero refuses a word of opcode 0 with a bit below it set (R98). -/
theorem decTable_opcodeZero {ops : List (Nat × (Nat → Dec))} {l n len w : Nat} {i : Instr} (ht : ops.lookup 0 = some (decNone l i))
    (hn : 32 - l = n) (h0 : 0 < w) (hw : w < 2 ^ n) : decTable ops (fld w n len) w = .error .illegal := by
  rw [fld_eq_zero_of_lt hw, decTable, ht]
  exact decNone_of_ne_zero i (by rw [hn, fld_zero_of_lt hw]; omega)

/-- The width of the fields below the opcode of word `k`, for the words behind the header (R96). -/
def fieldBits (k : Nat) : Nat :=
  match slotOfWord k with
  | .S | .C => 25
  | _ => 26

theorem decodeSlot_opcodeZero {k w : Nat} (hk : k ≠ 0) (h0 : 0 < w) (hw : w < 2 ^ fieldBits k) :
    decodeSlot (slotOfWord k) w = .error .illegal := by
  unfold fieldBits at hw
  cases hs : slotOfWord k <;> simp only [hs] at hw
  case H => simp only [slotOfWord] at hs; split at hs <;> simp_all
  all_goals exact decTable_opcodeZero rfl rfl h0 hw

/-! ## The words of a bundle -/

/-- The words of a bundle in which word `k` alone may be other than zero. -/
def aloneWords (k w : Nat) : List Nat := (List.replicate 8 0).set k w

theorem words_eq_zeros {ws : List Nat} (hl : ws.length = 8) (h : ∀ j < 8, ws.getD j 0 = 0) : ws = List.replicate 8 0 := by
  refine List.ext_getElem (by simp [hl]) fun j hj _ => ?_
  rw [List.getElem_replicate, ← h j (hl ▸ hj), List.getD_eq_getElem]

theorem words_eq_aloneWords {ws : List Nat} {k : Nat} (hl : ws.length = 8) (h : ∀ j < 8, j ≠ k → ws.getD j 0 = 0) :
    ws = aloneWords k (ws.getD k 0) := by
  refine List.ext_getElem (by simp [aloneWords, hl]) fun j hj _ => ?_
  rw [← List.getD_eq_getElem ws 0 hj]
  rcases eq_or_ne k j with rfl | e
  · simp [aloneWords]
  · rw [h j (hl ▸ hj) e.symm]
    simp only [aloneWords, List.getElem_set_ne e, List.getElem_replicate]

/-- A header of zeros is all that a bundle of zeros performs. -/
theorem wordSems_zeros : wordSems (List.replicate 8 0) 0 = [(0, ({} : Head).sem)] := rfl

theorem wordInstrs_zeros : wordInstrs (List.replicate 8 0) 0 = [(0, .normal 0 none 0)] := rfl

theorem performedMask_zeros : performedMask (List.replicate 8 0) 0 = aloneMask 0 := by decide

/-- The semantics of a word that is an illegal instruction in every bundle (R121). -/
def illegalSem : SlotSem := { check := fun _ => some ⟨0x02, 0⟩ }

theorem activeWords_alone {k w : Nat} (hk : k ≠ 0) (hk8 : k < 8) (hw : w ≠ 0) : activeWords (aloneWords k w) 0 = [(0, 0), (k, w)] := by
  have : 1 ≤ k := by omega
  interval_cases k <;> simp [activeWords, aloneWords, hw]

theorem wordSem_illegal {k w : Nat} (h : decodeSlot (slotOfWord k) w = .error .illegal) : wordSem k w = illegalSem := by
  simp only [wordSem, h, badCode, illegalSem]

/-- Only a word that decodes to ERET fails the checks of the words against one another behind the header (R167). -/
theorem bundleShape_illegal {ws : List Nat} {k w : Nat} (hk : k ≠ 0) (hw : ws.getD k 0 = w)
    (h : decodeSlot (slotOfWord k) w = .error .illegal) : bundleShape ws 0 k = none := by
  unfold bundleShape
  rw [if_neg hk, if_neg]
  rintro ⟨rfl, e, -⟩
  rw [hw, show Slot.S = slotOfWord 1 from rfl, h] at e
  cases e

theorem wordSems_illegal {k w : Nat} (hk : k ≠ 0) (hk8 : k < 8) (hw : w ≠ 0) (h : decodeSlot (slotOfWord k) w = .error .illegal) :
    wordSems (aloneWords k w) 0 = [(0, ({} : Head).sem), (k, illegalSem)] := by
  have hd : (aloneWords k w).getD 0 0 = 0 := by simp [aloneWords, hk]
  have hs : bundleShape (aloneWords k w) 0 k = none := bundleShape_illegal hk (by simp [aloneWords, hk8]) h
  have h0 (ms : List Nat) : bundleShape ms 0 0 = none := rfl
  unfold wordSems
  simp only [activeWords_alone hk hk8 hw, List.map_cons, List.map_nil, hk, if_true, if_false, hd, hs, h0, wordSem_illegal h]
  rfl

/-! ## A bundle reaches issue -/

section
variable {s : State}

theorem State.opening_mayTrap (m : s.MayTrap) (k : Nat) : (s.opening k).MayTrap where
  outside := by simpa using m.outside
  vector := by simpa using m.vector
  phase := by
    have := m.phase
    simp only [State.inPhase] at this ⊢
    simpa [State.opening] using this

theorem State.opening_zero (s : State) :
    (s.modMe fun x => x.modFlow fun f => { f with frozen := none, issue := { head := {}, tags := x.mem.tags } }) = s.opening 0 := rfl

theorem Head.check_opening (h : s.Ready) : ({} : Head).check (s.opening 0) = none := Head.check_plain _ h.lockstep

theorem bundleCheck_header (h : s.Ready) (k : Nat) : bundleCheck [(0, ({} : Head).sem)] (s.opening k) = none := by
  simp only [bundleCheck, List.findSome?, State.atSlot_opening, Head.sem_check, Head.check_opening h, Option.map_none, List.map_cons, List.map_nil,
    Head.sem_entries, List.sum_cons, List.sum_nil, Nat.add_zero, Nat.lt_irrefl, decide_false, Bool.and_false, Bool.false_eq_true, if_false]

theorem bundleWait_header (h : s.Ready) (k : Nat) : bundleWait [(0, ({} : Head).sem)] (s.opening k) = none := by
  have hw : ({} : Head).wait (s.opening 0) = none := rfl
  have hc : (s.opening k).me.flow.carry = {} := (State.opening_ready h k).1
  simp only [bundleWait, List.findSome?, State.atSlot_opening, Head.sem_wait, hw, List.flatMap_cons, List.flatMap_nil, Head.sem_pushes,
    List.append_nil, fullStream_nil, bundleCost, hc, List.map_cons, List.map_nil, Head.sem_tokens, List.sum_cons, List.sum_nil, Nat.add_zero,
    Nat.zero_min, Nat.not_lt_zero, if_false]

theorem sendRequests_header (h : s.Ready) (k : Nat) : sendRequests [(0, ({} : Head).sem)] (s.opening k) = s.opening 0 := by
  have cn : (s.opening k).me.mem.cn = [] := by rw [State.opening_mem, h.verdicts]
  simp only [sendRequests, List.foldl, cn, List.any_nil, Bool.false_eq_true, if_false, Head.sem_request, State.atSlot_opening]

/-- A header of zeros alone reaches issue at once. -/
theorem State.reachIssue_header (h : s.Ready) : s.reachIssue [(0, ({} : Head).sem)] (aloneMask 0) = .ok (s.opened 0) := by
  have cn : (s.opening 0).me.mem.cn = [] := by rw [State.opening_mem, h.verdicts]
  have fin : ((s.opening 0).modMe fun x => x.modIssue fun i => { i with isOpen := true, perf := aloneMask 0 }) = s.opened 0 := by
    simp [State.opening, State.opened, Core.modIssue, Core.modFlow]
  unfold State.reachIssue
  simp only [List.findSome?, Head.sem_head, Option.getD_some, State.opening_zero, bundleCheck_header h, List.foldl, State.atSlot_opening,
    show ({} : Head).sem.reach (s.opening 0) = s.opening 0 from rfl, bundleWait_header h, sendRequests_header h, cn, List.any_nil,
    Bool.false_eq_true, if_false, fin]

/-- A bundle fails the decode check of its word `k`, behind a header of zeros (R121, R122). -/
theorem State.reachIssue_refused (h : s.Ready) (m : s.MayTrap) {sem : SlotSem} {k : Nat} (hk : k ≠ 0) {e : Trap}
    (hc : sem.check (s.opening k) = some e) (perf : BitVec 8) :
    s.reachIssue [(0, ({} : Head).sem), (k, sem)] perf = .error (s.modMe (·.refused k e)) := by
  have b : bundleCheck [(0, ({} : Head).sem), (k, sem)] (s.opening 0) = some (k, e) := by
    simp only [bundleCheck, List.findSome?, State.atSlot_opening, Head.sem_check, Head.check_opening h, hc, Option.map_none, Option.map_some,
      hk, if_false]
  unfold State.reachIssue
  simp only [List.findSome?, Head.sem_head, Option.getD_some, State.opening_zero, b, State.decodeTrap]
  rw [State.enterTrap_into (State.opening_mayTrap m 0) rfl]
  simp only [State.opening, State.modMe_modMe, State.me_modMe]
  exact congrArg _ (State.modMe_congr _ _ _ rfl)

/-! ## The header of zeros is performed -/

theorem State.atSlot_opened (k : Nat) : (s.opened k).atSlot k = s.opened k := by
  simp [State.opened, State.atSlot, Core.modIssue, Core.modFlow]

theorem State.performSlot_header : (s.opened 0).performSlot 0 ({} : Head).sem = s.opened 0 := by
  have act : ({} : Head).act (s.opened 0) = (s.opened 0, none) := by
    simp only [Head.act, show bitsOf 8 (0 : BitVec 8) = [] from bitsOf_zero 8, List.find?_nil]
  simp only [State.performSlot, State.atSlot_opened, Head.sem_act, act, Head.sem_tokens, if_true]
  simp only [State.opened, State.modMe_modMe]
  refine State.modMe_congr _ _ _ ?_
  simp [Core.modIssue, Core.modFlow, Flow.addCost]

/-- A quiet bundle completes. -/
theorem State.closeBundle_opened (h : s.Ready) (k : Nat) : (s.opened k).closeBundle = s.modMe Core.retired := by
  have q := State.Quiet.opened h k
  have reserved : (s.opened k).modMe (fun x => x.reserve []) = s.opened k := by
    simp only [State.opened, State.modMe_modMe]
    rfl
  have finished : (s.opened k).modMe Core.finish = s.modMe Core.retired := by
    simp only [State.opened, State.modMe_modMe]
    refine State.modMe_congr _ _ _ ?_
    simp only [Core.finish, Core.retired, Core.modFlow, h.pending]
    rfl
  unfold State.closeBundle
  simp only [q.faults, q.stores, q.pushes, State.applyStores, List.foldl, reserved]
  rw [State.completeBundle_plain q.head q.carry q.loops q.verdicts q.banks q.rows q.shared, finished]
  exact State.landDue_none (f := Core.retired) (retired_pending h)

/-- The header of zeros as the last word of its bundle. -/
theorem exec_header (h : s.Ready) : exec (.normal 0 none 0) (s.opened 0) = .next (s.modMe Core.retired) := by
  show inSlot 0 ({} : Head).sem (s.opened 0) = _
  have hi : (s.opened 0).me.flow.issue = { tags := s.me.mem.tags, isOpen := true, slot := 0, perf := aloneMask 0 } := by
    simp [State.opened]
  simp only [inSlot, runSlot, hi, if_true, State.performSlot_header, State.closeBundle_opened h]
end

/-! ## The turn of a core -/

theorem State.turn_done {r x : State} {c : Nat} (may : ({ r with cur := c } : State).me.mayIssue = true)
    (ho : (({ r with cur := c } : State).modMe fun x => x.modMem Local.age).openBundle = (x, [])) : r.turn c = .done (x.frozenCycle c) := by
  simp only [State.turn, may, if_true, ho]

theorem State.turn_words {r x : State} {c : Nat} {p : Nat × Instr} {l : List (Nat × Instr)}
    (may : ({ r with cur := c } : State).me.mayIssue = true)
    (ho : (({ r with cur := c } : State).modMe fun x => x.modMem Local.age).openBundle = (x, p :: l)) : r.turn c = .words (p :: l) x := by
  simp only [State.turn, may, if_true, ho]

section
variable {s u v : State} {c : Nat} {ws : List Nat}

theorem State.Turn.cur_eq (t : s.Turn c ws u) : u.cur = c := by
  obtain ⟨_, -, rfl⟩ := t.agenda
  rfl

/-- The next step is the turn of core `c`, which has a bundle to issue. -/
theorem State.Turn.plan_eq (t : s.Turn c ws u) : ∃ r : State, s.plan = r.turn c ∧ ({ r with cur := c } : State).me.mayIssue = true ∧
    u = ({ r with cur := c } : State).modMe fun x => x.modMem Local.age := by
  obtain ⟨rest, ha, hu⟩ := t.agenda
  obtain ⟨r, hr, hh, hx⟩ := t.runs
  refine ⟨({ s with agenda := rest } : State).applyLate, ?_, ?_, hu⟩
  · simp only [State.plan, ha, t.cycles, Act.hostLaunches, Act.isLate, Bool.false_and, Bool.and_false, Bool.or_self, Bool.false_eq_true,
      if_false, State.actPlan]
  · rw [hu, State.me_modMe, Core.modMem_run] at hr
    simp only [Core.mayIssue, Option.mem_def.mp hr, hh, hx, Bool.not_false, Bool.and_self]

/-- Nothing lands in a core whose turn it is. -/
theorem State.Turn.landDue_eq (t : s.Turn c ws u) : u.landDue u.cur = u := by
  obtain ⟨r, -, -, rfl⟩ := t.plan_eq
  have hp := t.pending
  rw [State.me_modMe] at hp
  exact State.landDue_none (f := fun x => x.modMem Local.age) hp

theorem State.Turn.landingDue_eq (t : s.Turn c ws u) : u.me.landingDue = false := by simp only [Core.landingDue, t.pending, List.any_nil]

theorem State.Turn.boundaryCause_eq (t : s.Turn c ws u) : u.boundaryCause u.cur = none := t.cur_eq ▸ t.cause

theorem State.Turn.nextWords_eq (t : s.Turn c ws u) : u.nextWords = (u, .ok ws) := by
  rw [State.nextWords, t.requests, t.cur_eq, t.fetch]
  rfl

/-- A bundle that does not reach issue leaves the state `v`, in which the directory has no request of its core. -/
theorem State.Turn.openBundle_error (t : s.Turn c ws u) (hr : u.reachIssue (wordSems ws 0) (performedMask ws 0) = .error v)
    (cn : v.me.mem.cn = []) : u.openBundle = (v, []) := by
  have kept : v.keepWords ws = v := by simp only [State.keepWords, cn, List.isEmpty_nil, if_true]
  simp only [State.openBundle, t.landDue_eq, t.boundaryCause_eq, State.tryBundle, t.landingDue_eq, t.fetched, t.phase, t.hold,
    t.nextWords_eq, t.redo, hr, kept, Bool.not_true, Bool.false_and, Bool.false_eq_true, if_false]

/-- A bundle that reaches issue is opened at its header, with all of its words to perform. -/
theorem State.Turn.openBundle_ok (t : s.Turn c ws u) (hr : u.reachIssue (wordSems ws 0) (performedMask ws 0) = .ok v) :
    u.openBundle =
      (v.modMe fun x => x.modIssue fun i => { i with slot := 0, more := (wordInstrs ws 0).length - 1 }, wordInstrs ws 0) := by
  simp only [State.openBundle, t.landDue_eq, t.boundaryCause_eq, State.tryBundle, t.landingDue_eq, t.fetched, t.phase, t.hold,
    t.nextWords_eq, t.redo, hr, Bool.not_true, Bool.false_and, Bool.false_eq_true, if_false]

/-! ## The two bundles of R98 -/

/-- A turn that opens a bundle performs its words. -/
theorem State.Turn.step_words (t : s.Turn c ws u) {p : Nat × Instr} {l : List (Nat × Instr)} (ho : u.openBundle = (v, p :: l)) :
    step s = performWords (p :: l) v := by
  obtain ⟨r, hp, may, rfl⟩ := t.plan_eq
  simp only [step, hp, State.turn_words may ho]

/-- A turn that leaves its core with no freeze and nothing to perform. -/
theorem State.Turn.step_done (t : s.Turn c ws u) (ho : u.openBundle = (v, [])) (hf : (v.core c).flow.frozen = none) : step s = .next v := by
  obtain ⟨r, hp, may, rfl⟩ := t.plan_eq
  simp only [step, hp, State.turn_done may ho, State.frozenCycle, hf, Option.isSome_none, Bool.false_eq_true, if_false]

/-- A bundle of zeros: its header finds nothing to do, and the core goes on. -/
theorem State.Turn.step_zeros (t : s.Turn c (List.replicate 8 0) u) (h : u.Ready) : step s = .next (u.modMe Core.retired) := by
  have reached : u.reachIssue (wordSems (List.replicate 8 0) 0) (performedMask (List.replicate 8 0) 0) = .ok (u.opened 0) := by
    rw [wordSems_zeros, performedMask_zeros, State.reachIssue_header h]
  have opened : u.openBundle = (u.opened 0, [(0, .normal 0 none 0)]) := by
    rw [t.openBundle_ok reached, wordInstrs_zeros]
    simp [State.opened, Core.modIssue, Core.modFlow]
  rw [t.step_words opened]
  simp only [performWords, State.atSlot_opened, exec_header h]

/-- A bundle whose only word is an illegal instruction traps with 0x02 at that word. -/
theorem State.Turn.step_illegal {k w : Nat} (t : s.Turn c (aloneWords k w) u) (h : u.Ready) (m : u.MayTrap) (hk : k ≠ 0) (hk8 : k < 8)
    (hw : w ≠ 0) (hd : decodeSlot (slotOfWord k) w = .error .illegal) : step s = .next (u.modMe (·.refused k ⟨0x02, 0⟩)) := by
  have refused : u.reachIssue (wordSems (aloneWords k w) 0) (performedMask (aloneWords k w) 0) =
      .error (u.modMe (·.refused k ⟨0x02, 0⟩)) := by
    rw [wordSems_illegal hk hk8 hw hd]
    exact State.reachIssue_refused h m hk rfl _
  refine t.step_done (t.openBundle_error refused ?_) ?_
  · rw [State.me_modMe]
    rfl
  · rw [← t.cur_eq, State.core_modMe]
    rfl
end

/-- The words behind the header, with the width of the fields below their opcodes. -/
theorem fieldBits_of_mem : ∀ p ∈ [(1, 25), (2, 26), (3, 26), (4, 26), (5, 25), (6, 25), (7, 26)],
    p.1 ≠ 0 ∧ p.1 < 8 ∧ p.2 = fieldBits p.1 := by decide

/-- Settles O53: a bundle of zeros is its header alone, by `State.Turn.step_zeros`; a word of opcode 0 with another bit set decodes to
nothing, by `decodeSlot_opcodeZero`, and `State.Turn.step_illegal` gives its trap. -/
theorem allZeroBundleDoesNothing : Obligations.AllZeroBundleDoesNothing := by
  refine ⟨by decide, fun s u c ws t h => ⟨fun zeros => ?_, fun m p hp h0 hw others => ?_⟩⟩
  · obtain rfl := words_eq_zeros t.words zeros
    exact t.step_zeros h
  · obtain ⟨hk, hk8, bits⟩ := fieldBits_of_mem p hp
    rw [words_eq_aloneWords t.words others] at t
    exact t.step_illegal h m hk hk8 h0.ne' (decodeSlot_opcodeZero hk h0 (bits ▸ hw))

end Sys2Proof.Machine
end

section
/-!
VSEL (R199): the row that selection gives, element by element, and the guard on top of it (R191).
-/
namespace Sys2Proof.Machine

/-- An element is on under predicate `p` where `p` is p0 or has the element's bit set (R191). -/
theorem onLane_guardOf_iff (s : State) (p : BitVec 2) {t : Tag} {j : Nat} (hj : j < tagCount t) :
    onLane (s.guardOf p) (tagCount t) j = true ↔ p = 0 ∨ (s.me.regs.pReg p).getLsbD (j * (1024 / tagCount t)) = true := by
  refine ⟨Or.inr, ?_⟩
  rintro (rfl | on)
  · exact onLane_zero s t j hj
  · exact on

theorem okElem_of_ne {t : Tag} (hE : t ≠ .EMPTY) (hX : t ≠ .BX4) : okElem t = true := by
  simp only [okElem, bne_iff_ne, Bool.and_eq_true]
  exact ⟨hE, hX⟩

/-- A chosen element of a row, or zero, fits in an element. -/
theorem ite_elem_mod (c : Prop) [Decidable c] (w : Nat) (r : RowBits) (j : Nat) :
    (if c then elem w r j else 0) % 2 ^ w = if c then elem w r j else 0 := by
  split
  · exact Nat.mod_eq_of_lt (elem_lt w r j)
  · exact Nat.zero_mod _

/-- VSEL gives the elements of A that its selecting predicate has on, and zero for the others. -/
theorem State.GivesRow.vsel {s : State} (h : s.Ready) {D A : RowOp} {ps g : BitVec 2} {t : Tag} (hA : s.Reads A) (hD : s.Writes D)
    (ht : s.me.viewTag A none = t) (hE : t ≠ .EMPTY) (hX : t ≠ .BX4) (hg : s.Guardable g D t t) :
    s.GivesRow (.vsel D A ps g) 1 g D t (tagCount t) (tagBits t) fun j =>
      if onLane (s.guardOf ps) (tagCount t) j = true then elem (tagBits t) (s.rowBits t A) j else 0 := by
  have ok : okElem t = true := okElem_of_ne hE hX
  have run : exec (.vsel D A ps g) s = inSlot 2 (semVsel D A ps g) s := rfl
  refine State.GivesRow.of_vecSem (B := none) h run hA nofun hD ht ok (fun _ _ => rfl) (Core.tagsOk_one ht ok) hg rfl fun j hj => ?_
  rw [elem_viewRow t _ j hj, State.opened_guardOf]

/-- Settles O55: the row of `State.GivesRow.vsel`, with both predicates read as bits, p0 as all of them. -/
theorem vselSelectsOrClears : Obligations.VselSelectsOrClears := by
  intro s D A g ps h hA hD t n hE hX hg
  obtain ⟨v, hv, elems⟩ := State.GivesRow.vsel (t := t) (ps := ps) h hA hD rfl hE hX hg
  refine ⟨v, hv, fun j hj => ?_⟩
  rw [elems j hj, ite_elem_mod, if_congr (onLane_guardOf_iff (t := t) s ps hj) rfl rfl]
  cases guardBit : (s.me.regs.pReg g).getLsbD (j * (1024 / n)) with
  | false =>
    have guardOff : onLane (s.guardOf g) (tagCount t) j = false := guardBit
    simp only [guardOff, Bool.false_eq_true, if_false, if_true]
  | true =>
    have guardOn : onLane (s.guardOf g) (tagCount t) j = true := guardBit
    simp only [guardOn, Bool.true_eq_false, if_false, if_true, n]

end Sys2Proof.Machine
end
